-- ==== Sys2Proof/Word.lean ====
section
/-! DEFINITION. Word types of the Ryndaroth token engine. -/
namespace Sys2Proof

/-- A byte (R8: bit 0 is the least significant bit). -/
abbrev Byte := BitVec 8
/-- A scratch word of 64 bits (R38). -/
abbrev Word := BitVec 64
/-- A binary32 bit pattern (R91). -/
abbrev B32 := BitVec 32
/-- A bfloat16 bit pattern (R91). -/
abbrev B16 := BitVec 16
/-- A 576-bit line (R92). -/
abbrev Line := BitVec 576
/-- An instruction word of 128 bits (R45). -/
abbrev InstrWord := BitVec 128
/-- A packet header or message header unit of 144 bits (R179, R359). -/
abbrev Header := BitVec 144
/-- A sparse map: pairs of a key and a value, keys rising strictly. -/
abbrev SMap (α : Type) := List (Nat × α)

end Sys2Proof
end

