-- ==== Sys2Proof/Config.lean ====
section
/-! DEFINITION. What the spec leaves to an implementation, as constants without a value. -/
namespace Sys2Proof

/-- Sine and cosine of the angle at rotary position `r` for element pair `k` (R266: composed from R119; open). -/
opaque Config.ropeSin : Nat → Nat → B32
opaque Config.ropeCos : Nat → Nat → B32
/-- The composed functions whose fixed order R119 does not state: the values they give on their inputs. -/
opaque Config.rmsNorm : List B32 → List B32 → List B32
opaque Config.layerNorm : List B32 → List B32 → List B32
opaque Config.softmax : List B32 → List B32
/-- Activation functions of `ACT` (R68) without a stated computation: SiLU 0, GELU tanh 1, GELU erf 2. -/
opaque Config.actFn : Nat → B32 → B32
/-- The probability p of R345 step 2 for each logit already divided by the temperature. -/
opaque Config.sampleProb : List B32 → List B32
/-- The renormalised q of R345 step 6. -/
opaque Config.renorm : List B32 → List B32
/-- The quotient z / r of R344 and R345 (a division is not among the operations R119 names). -/
opaque Config.div32 : B32 → B32 → B32
/-- The RSASSA-PSS verification of R399: modulus, exponent, signed bytes, signature. -/
opaque Config.pssVerify : List Byte → List Byte → List Byte → List Byte → Bool
/-- The signature an attestation key writes over the bytes of a report (R403); the keys are never readable (R401). -/
opaque Config.sign : Nat → List Byte → List Byte
/-- The certificate chain of R402 scope 2: member, then the DER bytes of each certificate. -/
opaque Config.certChain : Nat → List (List Byte)
/-- A line of the weight image as the store that serves a refill answers it (R457): image byte offset. -/
opaque Config.storeLine : Nat → Line
/-- `FAULT_CODE.ENGINE` of a fault of the beat sequencer, which has no engine code (R37, R79). -/
opaque Config.sequencerEngine : Nat
/-- `FAULT_CODE.INSTR` of a core fault that an arriving line raises and no instruction (R79), by fault code. -/
opaque Config.arrivalInstr : Nat → Nat
/-- The physical route id the loader gives a virtual route where giving ids in order leaves none (R182, R218). -/
opaque Config.routeId : Nat → Nat
/-- A choice the spec leaves to Ringmaster: which of `n` candidates the `k`-th choice takes. -/
opaque Config.choose : Nat → Nat → Nat
/-- Which of the free items an allocation takes, where a rule asks for a free item and names none: what is allocated
(0 a sequence slot, 1 a page slot, 2 a leaf table, 3 a reply tag), what has been allocated so far, the free items. -/
opaque Config.pick : Nat → List Nat → List Nat → Nat
/-- A fresh free value: whatever the hardware holds where the spec states no value. -/
opaque Config.freeWord : Nat → Word

end Sys2Proof
end

