-- ==== Sys2Proof/Syntax.lean ====
section
/-! DEFINITION. The commands of the block: one constructor per row of spec/opcode_table.json, and their operands. -/
namespace Sys2Proof

/-- A site 0-1535 (R15). -/
abbrev SiteId := Fin 1536
/-- A region 0-63 (R15). -/
abbrev RegionId := Fin 64
/-- A partition P0-P15 (R381). -/
abbrev PartId := Fin 16
/-- A host site H0-H3 (R287). -/
abbrev HostId := Fin 4
/-- A port group G0-G15 (R34). -/
abbrev GroupId := Fin 16
/-- A link of a port group (R353). -/
abbrev LinkId := Fin 4

/-- What the DRAM shows when one unit is read: the wrong bits of its ten inner words of 136 bits, word `w` at bits 136·w
and up, its eight symbols below its check bits (R153). -/
structure MemFault where
  unit : Fin 16777216
  bad : BitVec 1360
  deriving DecidableEq, Repr

/-- What a scratch read finds in one word (R41): a corrected error, or (`ue`) an uncorrectable one. -/
structure ScratchFault where
  addr : Fin 3145728
  ue : Bool
  deriving DecidableEq, Repr

/-- An engine instruction at issue: where it issues, its list (R45: the access list, or the engine's one list),
the run-ahead distance `k` of an access instruction (R54), its program memory index, the 128-bit word the program
memory holds there, what memory shows on its accesses, and whether an internal parity or control check fails on it
(R77 `LOGIC`). -/
structure Issue where
  site : SiteId
  list : Fin 16
  ahead : Nat
  index : Fin 65536
  word : InstrWord
  mem : List MemFault
  scratch : List ScratchFault
  logic : Bool
  deriving DecidableEq, Repr

/-- A packet of R178: header flit and data lines. -/
structure Packet where
  header : Header
  lines : List Line
  deriving DecidableEq, Repr

/-- The ring pair a command was submitted on: a host site's admin ring (R502), or pair `q` of a partition (R294). -/
inductive RingRef where
  | admin (h : HostId)
  | part (p : PartId) (q : RegionId)
  deriving DecidableEq, Repr

/-- A submission entry (R298): the arguments are entry bytes 32-63, a0 lowest. -/
structure SqEntry where
  opcode : Byte
  flags : Byte
  cid : BitVec 16
  handle : BitVec 32
  addr0 : BitVec 64
  addr1 : BitVec 64
  len0 : BitVec 32
  len1 : BitVec 32
  args : BitVec 256
  deriving DecidableEq, Repr

/-- What the host has done with its memory before a command reads it: writes, and address ranges its bus rejects
(base, length). -/
structure HostSide where
  writes : List (Nat × List Byte)
  rejects : List (Nat × Nat)
  deriving DecidableEq, Repr

/-- What the surroundings and the untested silicon show at start-up (R481-R483, R486, R514): the input voltage, the
references, the coolant, slices that fail their self-test, soft starts that end in a trip, whether RM-W completes step 3,
and the straps. -/
structure StartEnv where
  vinMv : Nat
  ref0 : Bool
  ref1 : Bool
  inletDc : Nat
  flowDl : Nat
  badSlices : List SiteId
  rampTrips : List RegionId
  rmWestOk : Bool
  straps : Fin 4
  deriving DecidableEq, Repr

/-- What the coolant sensors show (R442): inlet and outlet in 0.1 °C, pressure drop in 0.1 kPa, and the two flow estimates
in 0.1 L/min; `heatDl` is 0 where the heat estimate is not formed. -/
structure Coolant where
  inletDc : Nat
  outletDc : Nat
  dpDkpa : Nat
  dpDl : Nat
  heatDl : Nat
  deriving DecidableEq, Repr

/-- An adapter event of R288. -/
inductive UcieEvent where
  | retrain
  | laneRepair (m : Fin 4)
  | moduleDisable (m : Fin 4)
  | rateFallback
  | replay (flits : Nat)
  deriving DecidableEq, Repr

/-- The supply events of R422. -/
inductive SupplyCause where
  | efuse | undervoltage | converter | fifthCell
  deriving DecidableEq, Repr

/-- The content a partner puts into a HELLO (R362), byte 0 lowest. -/
abbrev HelloContent := BitVec 384

/-- A register access (R495). -/
structure Access where
  offset : Nat
  size : Nat
  write : Bool
  deriving DecidableEq, Repr

/-- The commands: every row of the opcode table. -/
inductive Instr where
  -- access engine (R55, R262, R269, R57)
  | wstream (i : Issue)
  | wfetch (i : Issue)
  | kvread (i : Issue)
  | kvappend (i : Issue)
  | delta (i : Issue)
  | vmwrite (i : Issue)
  -- matrix engine and delta lane (R60, R66)
  | mmul (i : Issue)
  | dapply (i : Issue)
  -- vector engine (R68)
  | nop (i : Issue)
  | copy (i : Issue)
  | quant (i : Issue)
  | dequant (i : Issue)
  | add (i : Issue)
  | mul (i : Issue)
  | scale (i : Issue)
  | rmsnorm (i : Issue)
  | layernorm (i : Issue)
  | softmax (i : Issue)
  | act (i : Issue)
  | gate (i : Issue)
  | rope (i : Issue)
  | accClear (i : Issue)
  -- sampler stages, run for batch member `m` (R344)
  | sampBias (i : Issue) (m : Fin 1024)
  | sampPenalty (i : Issue) (m : Fin 1024)
  | sampFilter (i : Issue) (m : Fin 1024)
  | sampDraw (i : Issue) (m : Fin 1024)
  | sampCount (i : Issue) (m : Fin 1024)
  | sampStop (i : Issue) (m : Fin 1024)
  | setp (i : Issue)
  -- transfer engine (R74)
  | send (i : Issue)
  | recv (i : Issue)
  | gread (i : Issue)
  | gwrite (i : Issue)
  -- beats and the batch (R52, R205, R256)
  | beatArrive (site : SiteId)
  | barrierRelease (p : PartId)
  | batchWriteAck (p : PartId)
  -- error watch (R72, R132-R140)
  | checkTileDone (site : SiteId) (mem : List MemFault)
  | scoreReceived (p : PartId)
  | quantWindowEnd (p : PartId)
  | pendingEscalate (p : PartId) (layer : Fin 4096)
  | level3Timeout (p : PartId) (layer : Fin 4096)
  -- vertical memory (R158-R171)
  | patrolScrub (site : SiteId) (mem : List MemFault)
  | earlyScrub (site : SiteId) (mem : List MemFault)
  | rowCopyDone (site : SiteId) (channel : RegionId) (bank : Fin 8)
  | periodicRefresh (site : SiteId) (channel : RegionId) (bank : Fin 8)
  | refreshIntervalEnd (site : SiteId) (channel : RegionId) (bank : Fin 8)
  | targetedRefresh (site : SiteId) (channel : RegionId) (bank : Fin 8)
  | memHotRefresh (site : SiteId) (lowerC upperC : Fin 256)
  | sliceReady (site : SiteId)
  -- fabric (R177-R214)
  | packetForward (site : SiteId) (port : Fin 5) (slot : Fin 8) (flitFixed : Nat)
      (flitBad : List (Fin 33 × BitVec 144))
  | packetAck (site : SiteId)
  | epochDrainReport (p : PartId) (site : SiteId)
  | seamDown (west : Bool)
  | seamUp
  | linkDown (link : Fin 2992)
  | linkRetrainFail (link : Fin 2992)
  | beatTimeout (p : PartId)
  | faultReport
  -- sequence commands (R303)
  | seqOpen (r : RingRef) (e : SqEntry) (h : HostSide)
  | seqAppend (r : RingRef) (e : SqEntry) (h : HostSide)
  | seqGenerate (r : RingRef) (e : SqEntry) (h : HostSide)
  | seqPause (r : RingRef) (e : SqEntry) (h : HostSide)
  | seqResume (r : RingRef) (e : SqEntry) (h : HostSide)
  | seqPark (r : RingRef) (e : SqEntry) (h : HostSide)
  | seqUnpark (r : RingRef) (e : SqEntry) (h : HostSide)
  | seqFork (r : RingRef) (e : SqEntry) (h : HostSide)
  | seqTruncate (r : RingRef) (e : SqEntry) (h : HostSide)
  | seqClose (r : RingRef) (e : SqEntry) (h : HostSide)
  | seqSnapshot (r : RingRef) (e : SqEntry) (h : HostSide)
  -- stores, masked walks, the step epoch (R276, R277, R263, R271)
  | storeWriteAck (p : PartId) (rejected : Bool)
  | storeReadData (p : PartId) (failed : Bool) (record : List Byte)
  | kvMaskReport (p : PartId)
  | epochTick (p : PartId)
  -- adapters, modes, queries, frames, abort, plans (R303)
  | adapterLoad (r : RingRef) (e : SqEntry) (h : HostSide)
  | adapterRetire (r : RingRef) (e : SqEntry) (h : HostSide)
  | modeSet (r : RingRef) (e : SqEntry) (h : HostSide)
  | query (r : RingRef) (e : SqEntry) (h : HostSide)
  | frameStart (r : RingRef) (e : SqEntry) (h : HostSide)
  | frameHold (r : RingRef) (e : SqEntry) (h : HostSide)
  | frameResume (r : RingRef) (e : SqEntry) (h : HostSide)
  | abort (r : RingRef) (e : SqEntry) (h : HostSide)
  | planLoad (r : RingRef) (e : SqEntry) (h : HostSide)
  | weightChunkArrive (p : PartId) (payload : List Byte) (failed : Bool)
  | planUnload (r : RingRef) (e : SqEntry) (h : HostSide)
  -- rings (R295-R299, R318)
  | sqTailDoorbell (r : RingRef) (value : BitVec 16)
  | cqHeadDoorbell (r : RingRef) (value : BitVec 16)
  | sqEntryFetch (r : RingRef) (h : HostSide)
  | completionPost (r : RingRef) (h : HostSide)
  | irqCoalesceTimeout (r : RingRef)
  -- sessions (R293, R316)
  | attach (h : HostId) (p : PartId)
  | resume (h : HostId) (p : PartId) (side : HostSide)
  | detach (h : HostId) (p : PartId)
  | rpEnable (r : RingRef)
  | rpDisable (r : RingRef)
  | hostLinkDown (h : HostId) (hotReset : Bool)
  | functionLevelReset (h : HostId) (fn : Fin 17)
  | ucieRetrain (h : HostId) (ev : UcieEvent)
  | ucieLinkUp (h : HostId) (modules : BitVec 4) (gt32 : Bool)
  | classTableWrite (p : PartId) (cls : Fin 8) (ftlUs : BitVec 32)
  -- Olix links and partners (R351-R370)
  | olixTrainTimeout (g : GroupId) (k : LinkId)
  | olixLinkUp (g : GroupId) (k : LinkId) (lanes : BitVec 16)
  | olixLaneDrop (g : GroupId) (lane : Fin 16) (uncorrectable : Nat)
  | olixFlitReceive (g : GroupId) (k : LinkId) (flit : BitVec 1280)
  | olixAckTimer (g : GroupId) (k : LinkId)
  | olixLinkDown (g : GroupId) (k : LinkId)
  | helloSend (g : GroupId) (k : LinkId)
  | hello (g : GroupId) (k : LinkId) (c : HelloContent)
  | partnerTimeout (idx : RegionId)
  | read (g : GroupId) (k : LinkId) (hd : Header) (h : HostSide)
  | write (g : GroupId) (k : LinkId) (hd : Header) (lines : List Line) (h : HostSide)
  | readData (g : GroupId) (k : LinkId) (hd : Header) (lines : List Line)
  | writeAck (g : GroupId) (k : LinkId) (hd : Header)
  | error (g : GroupId) (k : LinkId) (hd : Header)
  | pgEnable (g : GroupId) (value : BitVec 32)
  | pgRetrain (g : GroupId)
  | partnerList (r : RingRef) (e : SqEntry) (h : HostSide)
  -- partitions (R383-R395, R402)
  | partitionCreate (r : RingRef) (e : SqEntry) (h : HostSide)
  | partitionDestroy (r : RingRef) (e : SqEntry) (h : HostSide)
  | partitionHold (r : RingRef) (e : SqEntry) (h : HostSide)
  | partitionResume (r : RingRef) (e : SqEntry) (h : HostSide)
  | moduleLimits (r : RingRef) (e : SqEntry) (h : HostSide)
  | stageAck (p : PartId) (region : RegionId)
  | stageTimeout (p : PartId)
  | attest (r : RingRef) (e : SqEntry) (h : HostSide)
  -- fuses and protection (R397, R405)
  | fuseKey (value : BitVec 32)
  | fuseRevokeKey (arg : Byte)
  | fuseAdvanceRollback (arg : Byte)
  | fuseRaiseDebugLevel (arg : Byte)
  | fuseJtagLock (arg : Byte)
  | fuseIsolationLock (arg : Byte)
  | fuseProgramDone
  | ownCheckWrite (disable : BitVec 16)
  -- power (R409-R423)
  | domainCmd (value : BitVec 32)
  | regionRampDone (region : RegionId) (tripped : Bool)
  | headroomCapTimeout (region : RegionId)
  | currentExcess (region : RegionId) (regionDa : Nat) (site : Option (Fin 24)) (siteDa : Nat)
  | pwrCellFail (region : RegionId) (cell : Fin 24)
  | pwrRegionLoss (region : RegionId) (cause : SupplyCause)
  | pwrFeedLoss (region : RegionId) (feedB : Bool)
  | crackWindowEnd (site : SiteId) (samples : Option (Int × Int))
  | pwrSensorSuspect (site : SiteId) (sensor : Fin 8)
  | pwrVinWarn (mv : Nat)
  | vinTrip (mv : Nat)
  | pwrOverpower (watts : Nat)
  -- clocks and temperature (R430-R442)
  | clkRefLoss
  | pllLockLoss (pll : Fin 4)
  | thmThrottle (site : SiteId) (dQ oQ : Nat)
  | throttleStep (region : RegionId)
  | fabricClockChange (east : Bool)
  | thmMinclk
  | hotTrip (site : SiteId)
  | carousel (set : Fin 592)
  | thmSensorSuspect (site : SiteId) (sensorO : Bool) (selfCheck : Bool)
  | carouselEntryValid (p : PartId) (i : Fin 32) (valid : Bool)
  | thmFlowWarn (c : Coolant)
  | thmFlowLow (c : Coolant)
  | thmInletWarn (c : Coolant)
  | thmFlowDisagree (c : Coolant)
  -- repair and live service (R451-R467)
  | stepRestart (p : PartId)
  | refillChunkDone (p : PartId) (site : SiteId) (payload : List Byte)
  | countTableRebuilt (p : PartId) (handle : BitVec 32)
  | twinPageCopied (p : PartId) (page : Fin 16777216)
  | rmHeartbeatTimeout
  | rmResyncDone
  | fwStage (r : RingRef) (e : SqEntry) (h : HostSide)
  | fwActivate (r : RingRef) (e : SqEntry) (h : HostSide)
  | fwResyncTimeout
  | rcRestartDone (region : RegionId)
  | rcRestartTimeout (region : RegionId)
  | configWrite (r : RingRef) (e : SqEntry) (h : HostSide)
  | configRead (r : RingRef) (e : SqEntry) (h : HostSide)
  -- the ledger and time (R471-R479)
  | ledgerCommitTimer
  | ledgerCommitDone
  | ledgerRead (r : RingRef) (e : SqEntry) (h : HostSide)
  | timeSet (r : RingRef) (e : SqEntry) (h : HostSide)
  -- start-up and shut-down (R481-R490, R516)
  | pwrEnAssert (env : StartEnv)
  | coolantWaitCheck (inletDc flowDl : Nat)
  | refClockWait
  | shutdown (r : RingRef) (e : SqEntry) (h : HostSide)
  | shutdownParkTimeout
  | pwrEnWithdraw
  | modRstN
  | ctlVddLoss
  -- event ring, emergency hold, registers (R495-R509)
  | evEnable (h : HostId)
  | evHeadDoorbell (h : HostId) (value : BitVec 16)
  | eholdKey (h : HostId) (value : BitVec 32)
  | emergencyHold (h : HostId) (partitions : BitVec 16)
  | emergencyRelease (h : HostId) (partitions : BitVec 16)
  | badAccess (h : HostId) (a : Access)
  | registerWrite (h : HostId) (fn : Fin 17) (offset : Nat) (value : BitVec 32)
  -- SMBus (R518)
  | smbStartCode
  | smbStatus
  | smbVin
  | smbInputPower
  | smbHottestSite
  | smbCoolantInlet
  | smbCoolantOutlet
  | smbFlow
  | smbModuleId
  | smbGrade
  | smbDebugConsole (write : Bool) (bytes : List Byte)
  | smbAlertResponse
  -- JTAG (R519)
  | bypass (tdi : List Bool)
  | samplePreload (pins : List Bool) (tdi : Option (List Bool))
  | extest (pins : List Bool)
  | idcode
  -- returns and timers
  | referenceReturn (ref1 : Bool)
  | pllRelock (pll : Fin 4)
  | linkRetrained (link : Fin 2992)
  | modRstNRelease (env : StartEnv)
  | vinRangeWait (mv : Nat)
  | quadrantHeadroomStart (quadrant : Fin 4) (watts : Nat)
  | guardIssueStep (region : RegionId) (regionDa : Nat)
  | overpowerGuardStep (watts : Nat)
  | carouselRelease (region : RegionId)
  | rmStandbyTimeout
  | loReadLatch (h : HostId) (fn : Fin 17) (offset : Nat)
  | privateJtagInstruction (code : Byte)
  deriving DecidableEq, Repr

end Sys2Proof
end

