-- ==== Sys2Proof/WellFormed.lean ====
section
/-! DEFINITION. Which commands can reach the block at all. -/
namespace Sys2Proof

/-- `LINES` of a message header unit plus one (R359). -/
def headerLines (h : Header) : Nat := (h.toNat >>> 92) % 8 + 1

/-- A command some agent could send: a message carries the lines its header counts (R359); every other operand can be
sent as it stands. -/
def Instr.wellFormed : Instr → Bool
  | .write _ _ hd ls _ => ls.length == headerLines hd
  | .readData _ _ hd ls => ls.length == headerLines hd
  | _ => true

end Sys2Proof
end

