-- ==== Sys2Proof/Decode.lean ====
section
/-! DEFINITION. Words and commands. -/
namespace Sys2Proof

/-- The command a word spells by the table's bits: every row of spec/opcode_table.json has an empty list of fields, so
no word spells a command. -/
def decodeTableWord (_nbits _w : Nat) : Option Instr := none

end Sys2Proof
end

