-- ==== Sys2Proof/Machine/State.lean ====
section
/-! DEFINITION. The state of the block: plain data, every piece of state the spec names (INVENTORY.md, State). -/
namespace Sys2Proof.Machine
open Sys2Proof

/-! ### Names -/

/-- Site classes (R24). -/
inductive SiteClass where | active | spare | disabled | bad
  deriving DecidableEq, Repr
/-- `SITE_STATE.STATE` (R79). -/
inductive SiteState where | off | idle | run | held | faulted
  deriving DecidableEq, Repr
/-- Why a scratch word is poisoned (R41); a line that a partner sent poisoned is told apart (R371). -/
inductive PoisonCause where | uninit | ue | inbound | partner
  deriving DecidableEq, Repr
/-- `MS_STATE.STATE` (R173). -/
inductive SliceState where | off | init | test | ready | failed | retired
  deriving DecidableEq, Repr
/-- Frame states (R211, R213). -/
inductive FrameState where | idle | run | holdPending | held | faulted
  deriving DecidableEq, Repr
/-- Modes (R389). -/
inductive Mode where | latency | throughput | efficiency | fidelity
  deriving DecidableEq, Repr
/-- Session states (R292, R293). -/
inductive Session where | none | idle | active | lost | reattach
  deriving DecidableEq, Repr
/-- Ring pair states (R294). -/
inductive PairState where | off | active | error | stale
  deriving DecidableEq, Repr
/-- Sequence states (R254). -/
inductive SeqState where | opened | active | paused | parking | parked | unparking | lost
  deriving DecidableEq, Repr
/-- Page slot states (R267). -/
inductive PageState where | free | filling | full | reclaim | lost
  deriving DecidableEq, Repr
/-- Core domain states, `PR_STATUS.CORE` (R426). -/
inductive CoreDomain where | off | wait | ramp | warm | on | lost
  deriving DecidableEq, Repr
/-- Ringmaster member states (R501). -/
inductive MemberState where | off | boot | sync | standby | active | failed
  deriving DecidableEq, Repr
/-- Olix link states (R376). -/
inductive LinkState where | down | training | up | retrain
  deriving DecidableEq, Repr
/-- Partner table states (R364, R378). -/
inductive PartnerState where | present | conflict | unnamed
  deriving DecidableEq, Repr
/-- Status codes of R300 that a completion can carry. -/
inductive Status where
  | ok | aborted | alreadyComplete | notFound | refusedResources | stateLost | deferred | held
  | badDescriptor | notPermitted
  deriving DecidableEq, Repr
/-- Fault classes, coded as `RG_FAULT.CLASS` (R469). -/
inductive FaultClass where | plan | core | memory | fabric | supply | partner
  deriving DecidableEq, Repr

/-! ### The core (02) -/

/-- A stream queue entry (R47): its lines, the slice line it was streamed from, whether `WFETCH` made it (R71) and through a window
to a partner (R371), and the line of its staging ring that holds its first line (R44). -/
structure QEntry where
  lines : List Line
  source : Option Nat
  fetched : Bool
  remote : Bool
  place : Nat
  deriving DecidableEq, Repr

/-- A delta block in the delta queue (R57, R331). -/
structure DeltaBlk where
  matrix : Nat
  rblk : Nat
  cblk : Nat
  member : Nat
  lines : List Line
  last : Bool
  deriving DecidableEq, Repr

/-- A parameter descriptor (R69). -/
structure Param where
  seg : Nat
  off : Nat
  len : Nat
  scalar : B32
  deriving DecidableEq, Repr

/-- A check reserve entry (R70, R71): the selected column's inputs before quantisation, its ordinal, and what the
sampled instruction left. `results` is empty until the tile is captured. -/
structure CheckEntry where
  layer : Nat
  ordinal : Nat
  seen : Nat
  handle : BitVec 32
  address : Nat
  inputs : List B32
  fmt : Nat
  scale : Option Nat
  level : Nat
  results : List B32
  source : Nat
  word : InstrWord
  interval : Nat
  member : Nat
  deriving DecidableEq, Repr

/-- A registered receive (R75): tag, landing base (words), expected and received lines. -/
structure Recv where
  tag : Nat
  base : Nat
  expected : Nat
  received : Nat
  deriving DecidableEq, Repr

/-- A received line that becomes visible at the next beat (R75). -/
structure Landed where
  addr : Nat
  line : Line
  deriving DecidableEq, Repr

/-- A transfer in progress (R190): packet numbers with the copies not yet acknowledged; the token signalled and the
queue popped at completion; for `GREAD` the reply tag, scratch word address and lines still awaited; for `WFETCH` (opcode
0x40) the access list and the lines that have arrived; the program memory index of its instruction. -/
structure Xfer where
  opcode : Nat
  open_ : List (Nat × Nat)
  sigTok : Option Nat
  replyTag : Option Nat
  scratch : Nat
  awaited : Nat
  gwin : Nat
  list : Nat
  buf : SMap Line
  index : Nat
  deriving DecidableEq, Repr

/-- Quantisation counts of one layer (R106, R132). -/
structure QCount where
  sat : Nat
  zero : Nat
  flushed : Nat
  blocks : Nat
  deriving DecidableEq, Repr

/-- The sampler's working state of one member in a step (R344): logits, candidates in descending order (token, q),
the chosen token, whether `SAMP_FILTER` chose, `SAMP_COUNT` prepared, and `SAMP_STOP` stopped. -/
structure SampWork where
  logits : List B32
  cands : List (Nat × B32)
  token : Option Nat
  counted : Bool
  stop : Bool
  deriving DecidableEq, Repr

/-- First core fault latched (R78, R79). -/
structure CoreFault where
  code : Nat
  engine : Nat
  list : Nat
  instr : Nat
  info : Nat
  addr : Nat
  deriving DecidableEq, Repr

/-- One core (R37-R79). Absent scratch words hold 0, absent poison entries hold `poisonAll`, absent accumulator
entries are INVALID. `stageNext` is the line of each staging ring that the next entry takes, `beats` the program of every
beat in which some access list still has work, `dapplyOn` a `DAPPLY` that has issued and waits for blocks (R66). -/
structure Core where
  scratch : SMap Word
  poisonAll : Option PoisonCause
  poison : SMap (Option PoisonCause)
  prog : SMap InstrWord
  seg : List (Nat × Nat)
  vseg : List (Nat × Nat)
  stage : List (Nat × Nat)
  checkBase : Nat
  checkSize : Nat
  tokens : List Nat
  queues : List (List QEntry)
  stageNext : List Nat
  acc : SMap B32
  deltaQ : List DeltaBlk
  dapplyOn : Bool
  params : List Param
  reserve : List CheckEntry
  checkN : Nat
  checkCounter : Nat
  checkDone : Nat
  checkSkipped : Nat
  scratchCE : Nat
  scratchUE : Nat
  deltaDiscard : Nat
  state : SiteState
  atBarrier : Bool
  beatCount : Nat
  fault : Option CoreFault
  faultCount : Nat
  program : Nat
  schedPos : Nat
  bucket : Nat
  runahead : Nat
  levels : SMap Nat
  accessPos : List Nat
  accessBeat : List Nat
  accessPart : List Nat
  beats : SMap Nat
  done : List Nat
  recvs : List Recv
  landed : List Landed
  qcounts : SMap QCount
  xfers : List Xfer
  pktSeq : Nat
  samp : SMap SampWork
  deriving DecidableEq, Repr

/-! ### Vertical memory (05) -/

/-- A row tracker entry of a channel (R160): bank, row, reads with inner corrections this pass, bit positions of this
and of the previous pass, and corrections this pass. -/
structure RowTrack where
  bank : Nat
  row : Nat
  reads : Nat
  fixes : Nat
  bits : List Nat
  prevBits : List Nat
  deriving DecidableEq, Repr

/-- A retirement row copy in progress (R157, R160): logical row and spare row. -/
structure RowCopy where
  row : Nat
  spare : Nat
  deriving DecidableEq, Repr

/-- One bank (R148, R151, R160-R166). -/
structure Bank where
  remap : List (Nat × Nat)
  erasure : BitVec 80
  counters : List (Nat × Nat)
  colUnits : SMap (List Nat)
  lowPosted : Bool
  copying : Option RowCopy
  rowQ : List Nat
  refreshRow : Nat
  retired : Bool
  deriving DecidableEq, Repr

/-- One slice (R146-R174). `lines` holds what was written, `errs` the wrong bits of stored units, `written` the rows
(64·bank index + ... as row·512 + 8·channel + bank) that are not unwritten. -/
structure Slice where
  lines : SMap Line
  errs : SMap (BitVec 1360)
  counted : SMap Bool
  written : List Nat
  state : SliceState
  hot : Bool
  fastScrub : Bool
  innerCE : Nat
  innerUE : Nat
  outerCE : Nat
  outerUE : Nat
  rowsRetired : Nat
  retireDenied : Nat
  scrubPos : Nat
  scrubPasses : Nat
  act : Nat
  tref : Nat
  lastErrAddr : Nat
  lastErrKind : Nat
  lastErrSym : Nat
  lastErrSyms : Nat
  lastErrScrub : Bool
  bankRetired : Option Nat
  unwrittenReads : Nat
  unwrittenPosted : Bool
  scrubQ : List Nat
  banks : SMap Bank
  trackers : SMap (List RowTrack)
  tempLower : Nat
  tempUpper : Nat
  deriving DecidableEq, Repr

/-! ### The fabric (06) -/

/-- One router (R181-R187, R197, R216). Bank 0 is A, bank 1 is B; ownership and claims are keyed 8·port + slot. A claim is
its route id plus 4,096 times its partition. `rimSeq` counts the packets that the rim element at this router has sent. -/
structure Router where
  routesA : SMap (BitVec 32)
  routesB : SMap (BitVec 32)
  ownA : SMap Nat
  ownB : SMap Nat
  claims : SMap Nat
  redirect : Option Nat
  linkUp : BitVec 4
  flitCE : Nat
  flitUE : Nat
  faultInfo : BitVec 30
  rimSeq : Nat
  flits : Nat
  creditStall : Nat
  deriving DecidableEq, Repr

/-- A packet held at the input of a router. -/
structure Flight where
  site : Nat
  port : Nat
  slot : Nat
  pkt : Packet
  deriving DecidableEq, Repr

/-- An acknowledgement on its way from the receiver `site` to `src` of a packet of some `kind` (R180). -/
structure Ack where
  src : Nat
  seq : Nat
  site : Nat
  kind : Nat
  deriving DecidableEq, Repr

/-! ### One physical site -/

/-- Sensors and site power (R415-R417, R426, R434, R435). -/
structure SiteEnv where
  siteDa : Nat
  limitDa : Nat
  fraction : Nat
  droopSuspect : BitVec 8
  crack : Bool
  dQ : Nat
  oQ : Nat
  dSuspect : Bool
  oSuspect : Bool
  assumed : Bool
  hotSamples : Nat
  integral : Nat
  gross : Nat
  deriving DecidableEq, Repr

/-- One site of the grid: live class and `STANDIN` (R30), its core, slice, router and sensors. -/
structure Site where
  live : Option SiteClass
  standin : Bool
  core : Core
  slice : Slice
  router : Router
  env : SiteEnv
  deriving DecidableEq, Repr

/-! ### One region -/

/-- Region power (R418-R426); `capping` says that the region, waiting for headroom, caps its quadrant (R420). -/
structure RegPower where
  core : CoreDomain
  feedA : Bool
  feedB : Bool
  efuse : Bool
  cellsFailed : BitVec 24
  throttle : Bool
  capped : Bool
  vmidMv : Nat
  vmidDa : Nat
  setMv : Nat
  minMv : Nat
  minSite : Nat
  minSensor : Nat
  pct : Nat
  overPct : Nat
  fraction : Nat
  throttleCycles : Nat
  waitSince : Option Nat
  capping : Bool
  deriving DecidableEq, Repr

/-- Region clock and temperature (R431-R447). -/
structure RegClock where
  cclkMhz : Nat
  ceilingMhz : Nat
  throttle : Bool
  forced : Bool
  loweredCell : Option Nat
  throttleMs : Nat
  carouselTime : Option Nat
  onSeconds : Nat
  bins : List Nat
  throttleSeconds : Nat
  deriving DecidableEq, Repr

/-- One region controller (R31, R172, R215, R469). While it restarts, `latched` holds what its registers read and `heldW1C`
the W1C writes to apply (R498). -/
structure Region where
  evacuated : Bool
  standin : Bool
  roleOf : Nat
  activeSites : Nat
  lost : Bool
  memEvent : BitVec 7
  trThreshold : Nat
  activeBank : Bool
  switchPending : Bool
  ownCheck : Bool
  fabEvent : BitVec 6
  gateClosed : Bool
  watchdogNs : Nat
  corridor : Nat
  seamUp : BitVec 6
  seamClockLost : Bool
  power : RegPower
  clock : RegClock
  repairing : Bool
  fwRestart : Bool
  firstFault : Option (Nat × Nat × Nat)
  rgEvent : BitVec 5
  fwSeq : Nat
  tilesDropped : Nat
  heldW1C : List (Nat × BitVec 32)
  latched : SMap (BitVec 32)
  supplyFaults : Nat
  deriving DecidableEq, Repr

/-! ### Plans (07) -/

/-- A layer table entry (R234). -/
structure LayerEntry where
  layer : Nat
  initLevel : Nat
  maxLevel : Nat
  small : Bool
  streamed : Bool
  l1Fmt : Nat
  l2Fmt : Nat
  streakK : Nat
  zfLimit : Nat
  satLimit : Nat
  zfThreshold : Nat
  thresh : Nat
  switchBeat : List Nat
  gwin : Nat
  deriving DecidableEq, Repr

/-- A window (R235) after relocation; `moduleId` is the partner it reached when its plan was loaded. -/
structure Window where
  gwin : Nat
  kind : Nat
  access : Nat
  rim : Nat
  reqRoute : Nat
  rspRoute : Nat
  base : Nat
  lines : Nat
  bandwidth : Nat
  moduleId : Nat
  deriving DecidableEq, Repr

/-- A route entry of `ROUTES` or of a used `PLACEMENT` (R231): router, virtual route id, service flag, entry. -/
structure RouteEnt where
  site : Nat
  route : Nat
  service : Bool
  entry : BitVec 32
  deriving DecidableEq, Repr

/-- A service slot grant (R232). -/
structure ServiceGrant where
  program : Nat
  port : Nat
  slot : Nat
  site : Nat
  route : Nat
  deriving DecidableEq, Repr

/-- A weight chunk (R244). -/
structure Chunk where
  vcore : Nat
  vseg : Nat
  streamed : Bool
  layer : Nat
  voff : Nat
  lines : Nat
  offset : Nat
  crc : BitVec 32
  deriving DecidableEq, Repr

/-- What one virtual core was loaded with (R228, R229), kept for repair (R454). -/
structure VCore where
  prog : List InstrWord
  setup : List Nat
  scratch : List (Nat × Word)
  vsegBase : List Nat
  adapterBase : Nat
  countBase : Nat
  twinBase : Nat
  poolBase : Nat
  deriving DecidableEq, Repr

/-- A key-value pair held by a cache core (R258): layer, head, virtual core, twin. -/
structure KvPair where
  layer : Nat
  head : Nat
  vcore : Nat
  twin : Bool
  deriving DecidableEq, Repr

/-- A plan in force, as the loader read and placed it (R226-R246). `detours`: routers redirected for its cores. -/
structure Plan where
  image : BitVec 512
  toolVersion : Nat
  planId : Nat
  weightDigest : BitVec 512
  buckets : List Nat
  schedules : List (Nat × List Nat)
  cacheFormat : Nat
  maxSequences : Nat
  maxAdapters : Nat
  routeIds : Nat
  routeBase : List (Nat × Nat)
  layers : List LayerEntry
  windows : List Window
  routes : List RouteEnt
  service : List ServiceGrant
  parents : List Nat
  coreFrame : List Nat
  permits : List Nat
  vcores : List VCore
  sites : List Nat
  chunks : List Chunk
  pairs : List KvPair
  pageSlots : Nat
  source : Nat
  weightAddr : Nat
  weightLen : Nat
  detours : List Nat
  deriving DecidableEq, Repr

/-- A PLAN_LOAD in progress (R242-R245): the command, the plan being placed, the chunk awaited and its failures;
`headerDue` while the header and chunk table of a store's weight image are awaited. -/
structure Load where
  ring : RingRef
  cid : BitVec 16
  plan : Plan
  next : Nat
  tries : Nat
  addr1 : Nat
  headerDue : Bool
  winSec : Nat
  undo : List (Nat × SMap Line × List Nat)
  deriving DecidableEq, Repr

/-! ### Sequences (08, 10) -/

/-- A store copy of a page (R275, R276). -/
structure StoreCopy where
  location : Nat
  slot : Nat
  crc : BitVec 32
  positions : Nat
  deriving DecidableEq, Repr

/-- A leaf entry of a sequence (R261). -/
inductive Leaf where
  | empty
  | resident (page : Nat)
  | stored (c : StoreCopy)
  | lost
  deriving DecidableEq, Repr

/-- A page slot (R267, R268). -/
structure PageSlot where
  state : PageState
  count : Nat
  epoch : Nat
  positions : Nat
  filler : BitVec 32
  copy : Option StoreCopy
  deriving DecidableEq, Repr

/-- The sampler of a sequence (R338-R342, R346): the 256-byte block, generator counter, count table (absent entries
are 0), token ring, window fill. -/
structure Sampler where
  block : BitVec 2048
  counter : BitVec 64
  table : SMap Word
  ring : SMap (BitVec 32)
  fill : Nat
  deriving DecidableEq, Repr

/-- A sequence (R252-R255, R264, R275, R334). `tableAt` is the virtual core that keeps its count table, and
which of the areas of its allowance (R340). -/
structure Seq where
  handle : BitVec 32
  state : SeqState
  hold : Bool
  holdTarget : Bool
  cls : Nat
  length : Nat
  posOffset : Nat
  pending : List (RingRef × BitVec 16)
  storeBase : Nat
  storePages : Nat
  leaves : List Leaf
  leafTables : List Nat
  pausedBefore : Bool
  wasLost : Bool
  adapter : Option Nat
  bind : Nat
  version : Nat
  samp : Sampler
  lastToken : Nat
  written : Bool
  lastTime : Nat
  tableReady : Bool
  tableAt : Option (Nat × Nat)
  deriving DecidableEq, Repr

/-- A batch table entry (R256); `VALID` 0 makes it empty. `cmdNo` is the fetch number of the command it was chosen for. -/
structure Member where
  handle : BitVec 32
  length : Nat
  posOffset : Nat
  new : Nat
  valid : Bool
  cow : Option (Nat × Nat × Nat)
  version : Nat
  newPages : List (Nat × Nat)
  fed : List (BitVec 32)
  masked : Bool
  cmdNo : Nat
  deriving DecidableEq, Repr

/-- The lines a version takes in the adapter allowance of one virtual core (R333), ascending: a header, four a block, an
index; `blocks` are the places of its blocks in the image. -/
structure AdapterPlace where
  vcore : Nat
  lines : List Nat
  blocks : List Nat
  deriving DecidableEq, Repr

/-- An adapter version (R329-R337). `written` once its blocks lie in the adapter allowances of the cores at `places`. -/
structure Adapter where
  id : Nat
  version : Nat
  retiring : Bool
  loading : Bool
  addr : Nat
  len : Nat
  blocks : List DeltaBlk
  places : List AdapterPlace
  written : Bool
  cmd : Option (RingRef × BitVec 16)
  deriving DecidableEq, Repr

/-- A page record on its way to a store (R276, R278, R280): why (0 park, 1 journal, 2 flush), the sequence, logical
and physical page, slot, location, CRC, positions; `stale` once a write into the page committed meanwhile. -/
structure StoreWrite where
  purpose : Nat
  handle : BitVec 32
  page : Nat
  slotPage : Nat
  slot : Nat
  location : Nat
  crc : BitVec 32
  positions : Nat
  stale : Bool
  deriving DecidableEq, Repr

/-- A SEQ_SNAPSHOT flushing (R280): the sequence as it stood at its boundary, the state code reported, the device time,
pages without a copy still to be written, pages kept for it that the sequence has let go of. -/
structure Snap where
  ring : RingRef
  cid : BitVec 16
  seq : Seq
  code : Nat
  time : Nat
  copies : List (Option StoreCopy)
  held : List Nat
  deriving DecidableEq, Repr

/-- A page record being read back (R277). -/
structure StoreRead where
  handle : BitVec 32
  page : Nat
  copy : StoreCopy
  tries : Nat
  deriving DecidableEq, Repr

/-! ### Error watch (04) -/

/-- The state of one layer (R145, R132, R138, R140); `calmStep` is the step count at its last counter trigger. -/
structure LayerSt where
  level : Nat
  capped : Bool
  pending : Bool
  streak : Nat
  clean : Nat
  lastScore : Nat
  changeStep : Nat
  calmStep : Nat
  nonfinite : Nat
  window : QCount
  cappedStep : Option Nat
  roseWindow : Option Nat
  failStep : Option Nat
  staged : Option (Nat × Nat)
  deriving DecidableEq, Repr

/-- A score on its way to the error watch (R123): layer, tile level, score, gross ratio, site, sequence. -/
structure Score where
  layer : Nat
  level : Nat
  score : Option Nat
  gross : Option Nat
  site : Nat
  handle : BitVec 32
  deriving DecidableEq, Repr

/-! ### Rings (09) -/

/-- Where a known command stands (R297, R301, R302). -/
inductive CmdPhase where | decoded | waiting | running | completed
  deriving DecidableEq, Repr

/-- A known command. `fetchNo` is its place in fetch order, `done` tokens, positions or pages so far, `toks` tokens
still to append, `bad` a rejected buffer to report (R316), `abortBy` the ABORT waiting for its boundary. -/
structure Cmd where
  entry : SqEntry
  phase : CmdPhase
  fetchNo : Nat
  decodeTime : Nat
  done : Nat
  toks : List (BitVec 32)
  bad : Bool
  abortBy : Option (RingRef × BitVec 16)
  deriving DecidableEq, Repr

/-- A completion (R299). -/
structure Completion where
  cid : BitVec 16
  status : Status
  final : Bool
  detail : Nat
  handle : BitVec 32
  result0 : Nat
  result1 : Nat
  time : Nat
  deriving DecidableEq, Repr

/-- A ring pair (R294-R299, R315, R318). -/
structure Pair where
  sqBase : BitVec 64
  cqBase : BitVec 64
  sqLog2 : Nat
  cqLog2 : Nat
  vector : Nat
  coalCount : Nat
  coalUs : Nat
  progressVector : Nat
  units : Nat
  enable : Bool
  keepBuffers : Bool
  state : PairState
  cqFull : Bool
  error : Nat
  sqHead : Nat
  cqTail : Nat
  phase : Bool
  sqTail : Nat
  cqHead : Nat
  cmds : List Cmd
  outbox : List Completion
  posted : List (BitVec 16)
  unannounced : Nat
  oldest : Nat
  heldWrites : List (Nat × List Byte × BitVec 16)
  sentWrites : List (Nat × List Byte × BitVec 16)
  sentCompls : List Completion
  reserve : Nat
  deriving DecidableEq, Repr

/-! ### Partitions (12) -/

/-- What Ringmaster records of a core that was late when the watchdog expired (R208): its site, `BUSY`, `RECV_PENDING`, and the
fault that its router has latched. -/
structure LateCore where
  site : Nat
  busy : Nat
  recvPending : Bool
  router : BitVec 30
  deriving DecidableEq, Repr

/-- A staged change (R392). -/
inductive ChangeKind where
  | mode (m : Mode)
  | limits (modes : BitVec 4) (cclk power : Nat)
  | level (layer new cause step : Nat)
  | swap (entry : Nat)
  | ownCheck (off : Bool)
  | epoch
  deriving DecidableEq, Repr

/-- A staged change outstanding (R392, R393). -/
structure Staged where
  kind : ChangeKind
  waiting : List Nat
  beat : Nat
  committed : Bool
  cmd : Option (RingRef × BitVec 16)
  time : Nat
  deriving DecidableEq, Repr

/-- Class counts and targets (R321, R322, R388). -/
structure ClassSt where
  itlUs : Nat
  itlNext : Nat
  ftlUs : Nat
  held : Nat
  itlMiss : Nat
  ftlMiss : Nat
  deriving DecidableEq, Repr

/-- A repair in progress (R454, R455): the roles that move (virtual core, from, to), the slices awaited. `restart` is a
step restart alone. -/
structure Repair where
  code : Nat
  site : Nat
  standin : Nat
  region : Nat
  toRegion : Nat
  evacuation : Bool
  restart : Bool
  moves : List (Nat × Nat × Nat)
  awaited : List Nat
  since : Nat
  deriving DecidableEq, Repr

/-- A fault waiting for the repair in progress to end (R468). -/
structure FaultNote where
  site : Nat
  code : Nat
  cls : FaultClass
  partner : Bool
  deriving DecidableEq, Repr

/-- A Carousel table entry (R445). -/
structure CarEntry where
  frameA : Nat
  frameB : Nat
  primary : Nat
  alternate : Nat
  count : Nat
  valid : Bool
  rejected : Bool
  swapped : Bool
  swaps : Nat
  lastSwap : Option Nat
  deriving DecidableEq, Repr

/-- A partition (R381-R395) with everything that lives in it. `restartDue`: the step restarts when the partition next runs
(R451). -/
structure Part where
  config : BitVec 1024
  digest : BitVec 512
  grants : List (BitVec 64)
  mode : Mode
  session : Session
  cookie : BitVec 64
  cookieBad : Bool
  cookieReg : BitVec 64
  losses : Nat
  abandoned : Nat
  pairErr : BitVec 64
  pairs : SMap Pair
  msixTable : SMap Word
  msixPending : List Nat
  holdAdmin : Bool
  holdHost : Bool
  holdPartner : Bool
  holdSeam : Bool
  frameHolds : List Nat
  ownCheckOff : Bool
  targetMhz : Nat
  guardPct : Nat
  commits : Nat
  cancels : Nat
  modesCap : BitVec 4
  cclkCap : Nat
  powerCap : Nat
  staged : List Staged
  classes : List ClassSt
  plan : Option Plan
  load : Option Load
  refusal : List Byte
  frame0 : FrameState
  beatCount : Nat
  stepCount : Nat
  firstSite : Nat
  firstCode : Nat
  faultPlan : Bool
  faultLink : Bool
  faultStall : Bool
  inStep : Bool
  schedPos : Nat
  bucket : Nat
  nextBucket : Nat
  batch : List Member
  nextBatch : List Member
  tableWaiting : Bool
  stepStart : Nat
  predictions : List (Nat × Nat × List Nat)
  epoch : Nat
  epochTime : Nat
  seqs : List Seq
  gens : SMap Nat
  pages : SMap PageSlot
  leafUsed : List Nat
  poolLow : Bool
  reserved : List (BitVec 32 × Nat)
  storeWrites : List StoreWrite
  storeReads : List StoreRead
  snaps : List Snap
  journalQ : List (BitVec 32 × Nat)
  maskReports : List (BitVec 32 × Nat × Nat × Nat)
  adapters : List Adapter
  layers : SMap LayerSt
  massPosted : Option Nat
  scores : List Score
  repair : Option Repair
  restartDue : Bool
  faultQ : List FaultNote
  refill : List (Nat × Nat)
  twinLeft : List (Nat × Nat)
  stretchUs : Nat
  tableQ : List (BitVec 32)
  cars : SMap CarEntry
  draining : List Nat
  epochDue : Bool
  linkFault : Bool
  late : List LateCore
  deriving DecidableEq, Repr

/-! ### Host sites (09, 18) -/

/-- A module event record before it has a ring slot (R504, R506). -/
structure Event where
  code : Nat
  status : Nat
  partition : Option Nat
  seq : Nat
  ledger : Option Nat
  payload : BitVec 192
  deriving DecidableEq, Repr

/-- The module event ring of a host site (R503, R505). -/
structure EvRing where
  base : BitVec 64
  log2 : Nat
  vector : Nat
  coalCount : Nat
  coalUs : Nat
  enable : Bool
  mask : BitVec 11
  state : PairState
  error : Nat
  tail : Nat
  phase : Bool
  head : Nat
  hold : List Event
  dropped : Nat
  droppedMark : Bool
  unannounced : Nat
  oldest : Nat
  deriving DecidableEq, Repr

/-- A host site (R287-R289, R494, R496): its link, its host memory and its banked registers. `loss` holds the host
losses not yet posted: cause, partitions affected, partitions that have not stopped (R314). -/
structure HostSite where
  modulesUp : BitVec 4
  rate : Nat
  linkUp : Bool
  disabled : BitVec 4
  event : BitVec 6
  repaired : List Nat
  retrains : Nat
  replays : Nat
  losses : Nat
  mem : SMap Byte
  rejects : List (Nat × Nat)
  admin : Pair
  ring : EvRing
  msixTable : SMap Word
  msixPending : List Nat
  hiLatch : SMap (BitVec 32)
  eholdFirst : Option Nat
  eholdOpen : Bool
  vectors : List (Nat × Nat)
  loss : List (Nat × List Nat × List Nat)
  deriving DecidableEq, Repr

/-! ### Olix (11) -/

/-- A message the gateway sends (R359). -/
structure Message where
  group : Nat
  link : Nat
  cls : Nat
  header : Header
  lines : List Line
  deriving DecidableEq, Repr

/-- One Olix link (R355-R358, R376). `rate` is the rate it trains or runs at; `sent` holds the messages sent and not yet
acknowledged, with the number of their last flit, `early` the intact flits that came ahead of their turn (R356). -/
structure Link where
  state : LinkState
  rate : Nat
  mask : BitVec 16
  partner : Option Nat
  fecCorr : Nat
  fecUncorr : Nat
  crcErr : Nat
  replays : Nat
  retrains : Nat
  tx : Nat
  rx : Nat
  creditStall : Nat
  txSeq : Nat
  rxNext : Nat
  unackedRx : Nat
  nakDue : Bool
  replay : List (Nat × BitVec 1280)
  replayTimes : Nat
  credits : List Nat
  freed : List Nat
  units : List (Nat × BitVec 144)
  sent : List (Nat × Message)
  early : List (Nat × BitVec 1280)
  deriving DecidableEq, Repr

/-- An aperture (R377). -/
structure Aperture where
  ctrl : BitVec 26
  lines : Nat
  base : BitVec 64
  deriving DecidableEq, Repr

/-- A request to a partner, outstanding or kept (R369-R372): its tag, group, link, node, the partner's module id,
write or read, its class, address and lines; the partition; for a window the site, reply tag and scratch line. -/
structure Request where
  tag : Nat
  group : Nat
  link : Nat
  node : Nat
  moduleId : Nat
  write : Bool
  cls : Nat
  addr : Nat
  lines : Nat
  data : List Line
  part : Nat
  site : Option Nat
  rtag : Nat
  doff : Nat
  kept : Bool
  deriving DecidableEq, Repr

/-- A port group (R353, R375). `defaultDue`: a CONFIG_WRITE since the group was last enabled (R467). -/
structure PortGroup where
  bond : Nat
  bondInForce : Nat
  enable : Bool
  rate100 : Bool
  media : Bool
  owner : Option Nat
  inject : Nat
  event : BitVec 6
  refusals : Nat
  poison : Nat
  lock : BitVec 16
  dropped : BitVec 16
  links : List Link
  apertures : List Aperture
  rotateDue : Bool
  rotateTime : Option Nat
  domainOn : Bool
  defaultDue : Bool
  deriving DecidableEq, Repr

/-- A partner table entry (R364, R378). -/
structure Partner where
  index : Nat
  moduleId : Nat
  node : Nat
  role : Nat
  state : PartnerState
  caps : BitVec 16
  links : BitVec 64
  capacity : Nat
  bandwidth : Nat
  joined : Nat
  imageGen : Nat
  images : List (BitVec 640)
  order : Nat
  lastHello : Nat
  poison : Nat
  deriving DecidableEq, Repr

/-! ### Module-wide state -/

/-- The fuse map (R396). `spareMap` holds 48 bits a region: two bits of class for each local site. -/
structure Fuses where
  rootDigest : List (BitVec 512)
  rootRevoked : BitVec 4
  rollback : Nat
  debugLevel : Nat
  jtagLock : Bool
  isolationLock : Bool
  maxPartitions : Nat
  grade : Nat
  spareMap : List (BitVec 48)
  moduleId : BitVec 64
  identityKey : BitVec 4864
  stepping : BitVec 4
  deriving DecidableEq, Repr

/-- A fuse operation being programmed (R397). -/
inductive FuseOp where
  | revoke (k : Nat)
  | rollback (v : Nat)
  | debug (v : Nat)
  | jtag
  | isolation
  deriving DecidableEq, Repr

/-- The `SEC` block beside the fuses (R398): the unlock sequence, the operation in progress. -/
structure Sec where
  bootKey : Nat
  fwRollback : Nat
  firstKey : Option Nat
  unlocked : Bool
  state : Nat
  reason : Nat
  busy : Option FuseOp
  ownCheckDisable : BitVec 16
  deriving DecidableEq, Repr

/-- A firmware slot (R463): valid, `SEQUENCE`, `ROLLBACK`, `KEY_SLOT`, digest of the image. -/
structure FwSlot where
  valid : Bool
  sequence : Nat
  rollback : Nat
  keySlot : Nat
  digest : BitVec 512
  deriving DecidableEq, Repr

/-- A configuration copy (R466). -/
structure ConfigCopy where
  valid : Bool
  sequence : Nat
  nodeId : Nat
  modes : BitVec 4
  cclkCap : Nat
  powerCap : Nat
  pgDefault : List (BitVec 8)
  deriving DecidableEq, Repr

/-- A ledger entry (R474). -/
structure LedgerEntry where
  seq : Nat
  time : Nat
  utc : Nat
  event : Nat
  cls : Nat
  flags : Nat
  payload : BitVec 192
  deriving DecidableEq, Repr

/-- The retirement store (R471). `sites`: sites retired as BAD; `live`, `standins`, `evacuated`, `regionStandins`: spare use
as it happens, the live class and STANDIN of sites and EVACUATED and STANDIN of regions (R475); banks: remap tables and
erasure masks keyed (site, 8·channel + bank). -/
structure RetireStore where
  sites : SMap SiteClass
  live : SMap SiteClass
  standins : List Nat
  evacuated : List Nat
  regionStandins : List Nat
  remaps : List (Nat × Nat × List (Nat × Nat))
  erasures : List (Nat × Nat × BitVec 80)
  banks : List (Nat × Nat)
  derates : List Nat
  suspects : List (Nat × Bool)
  regions : List Nat
  deriving DecidableEq, Repr

/-- A counter block (R475, R479). -/
structure Counters where
  regions : SMap (Nat × List Nat × Nat × Nat)
  cells : SMap Nat
  slices : SMap (Nat × Nat)
  scratch : SMap (Nat × Nat)
  gross : SMap Nat
  minclk : Nat
  energy : Nat
  firstUtc : Nat
  firstUtcTime : Nat
  deriving DecidableEq, Repr

/-- A ledger copy in flash (R471). -/
structure LedgerCopy where
  valid : Bool
  commitSeq : Nat
  time : Nat
  next : Nat
  entries : List LedgerEntry
  store : RetireStore
  counters : Counters
  deriving DecidableEq, Repr

/-- A last-gasp record (R473); `onTime` is the power-on time of each region since the last commit. -/
structure LastGasp where
  time : Nat
  cause : Nat
  entries : List LedgerEntry
  lost : Nat
  onTime : SMap Nat
  energy : Nat
  deriving DecidableEq, Repr

/-- The ledger while the module runs, and its flash (R471-R480). -/
structure Ledger where
  copyA : LedgerCopy
  copyB : LedgerCopy
  useB : Bool
  utcValid : Bool
  utcOffset : Int
  merged : Bool
  committing : Bool
  otherInvalid : Bool
  wear : Nat
  entries : List LedgerEntry
  next : Nat
  committedNext : Nat
  again : Bool
  store : RetireStore
  counters : Counters
  gasp : Option LastGasp
  newCount : Bool
  deriving DecidableEq, Repr

/-- A Ringmaster member (R462, R501). -/
structure RmMember where
  state : MemberState
  slotB : Bool
  sequence : Nat
  deriving DecidableEq, Repr

/-- FW_ACTIVATE in progress (R464, R465): the command, the kind, regions updated, and `region`: for kind 2 the region that
restarts, for kind 1 the step of R464 (0 the standby restarts, 1 control waits to switch, 2 the former active restarts). -/
structure Activation where
  ring : RingRef
  cid : BitVec 16
  kind : Nat
  region : Nat
  updated : Nat
  deriving DecidableEq, Repr

/-- Ringmaster, its images, its configuration (R462-R467). -/
structure Rm where
  west : RmMember
  east : RmMember
  activeEast : Bool
  failovers : Nat
  misses : Nat
  mirrorLag : Nat
  failedAt : Option Nat
  fw : List FwSlot
  rcSlotB : List Bool
  activation : Option Activation
  configA : ConfigCopy
  configB : ConfigCopy
  useConfigB : Bool
  configValid : Bool
  deriving DecidableEq, Repr

/-- MODULE_LIMITS in progress (R395): results so far, one status and beat a partition. -/
structure LimitsRun where
  ring : RingRef
  cid : BitVec 16
  addr : Nat
  modes : BitVec 4
  cclk : Nat
  power : Nat
  results : List (Nat × Nat)
  config : Bool
  deriving DecidableEq, Repr

/-- Power of the module (R425). -/
structure Pwr where
  vinMv : Nat
  vinOk : Bool
  quadOk : BitVec 4
  hostOk : BitVec 4
  cmdRefused : Bool
  reason : Nat
  pinW : Nat
  event : BitVec 5
  quadW : List Nat
  hostW : List Nat
  energy : Nat
  seamOn : BitVec 2
  mgmtOn : BitVec 2
  fabricOn : Bool
  ucieOn : BitVec 4
  overpowerSince : Option Nat
  deriving DecidableEq, Repr

/-- Temperature and coolant (R444). -/
structure Thm where
  fabricW : Bool
  fabricE : Bool
  minclk : Bool
  inletDc : Nat
  outletDc : Nat
  dpDkpa : Nat
  flowDl : Nat
  heatDl : Nat
  event : BitVec 6
  minclkCount : Nat
  hotSince : List (Option Nat)
  deriving DecidableEq, Repr

/-- Clocks (R446). -/
structure Clk where
  ref0 : Bool
  ref1 : Bool
  sel1 : Bool
  fclkWLock : Bool
  fclkELock : Bool
  sclkLock : Bool
  mgmtLock : Bool
  wMhz : Nat
  eMhz : Nat
  refLoss : Nat
  deriving DecidableEq, Repr

/-- The JTAG instruction in force (R404). -/
inductive JtagInstr where | bypass | samplePreload | extest | idcode | own (code : Byte)
  deriving DecidableEq, Repr

/-- Control pins and ports (R515, R516, R518, R519). `scan` is what the boundary register was preloaded with, `dr` what the
selected data register shows on `TDO`, `driven` what EXTEST drives. -/
structure Pins where
  pwrEn : Bool
  modRst : Bool
  pwrGood : Bool
  fault : Bool
  hotTrip : Bool
  ctlVdd : Bool
  smbAlert : Bool
  straps : Nat
  console : List Byte
  scan : List Bool
  jtagIr : JtagInstr
  dr : List Bool
  driven : Option (List Bool)
  deriving DecidableEq, Repr

/-- Start-up and shut-down (R481-R490): step 0 is off; `waitSince` of the wait of R482 or R514; `parkPart` the partition a
SHUTDOWN parks next. -/
structure Startup where
  step : Nat
  code : Nat
  lastTrip : Bool
  tripped : Bool
  shutdown : Bool
  shutCmd : Option (RingRef × BitVec 16)
  parkedCount : Nat
  parkPart : Nat
  parkDeadline : Option Nat
  env : Option StartEnv
  waitSince : Option Nat
  deriving DecidableEq, Repr

/-- Mesh links and the seam (R202, R214). -/
structure Fabric where
  linkDown : List Nat
  linkDead : List Nat
  seamDown : Bool
  flights : List Flight
  acks : List Ack
  reports : List (Nat × FaultNote)
  deriving DecidableEq, Repr

/-- Everything but the fuses and the queue. Absent sites, regions and partitions stand for their reset state (for a
partition: none exists). -/
structure Mod where
  sites : SMap Site
  regions : SMap Region
  parts : SMap Part
  hosts : List HostSite
  groups : List PortGroup
  partners : List Partner
  requests : List Request
  outMsgs : List Message
  inMsgs : List (Message × Aperture)
  nextTag : Nat
  partnerOrder : Nat
  fabric : Fabric
  ledger : Ledger
  rm : Rm
  limits : Option LimitsRun
  pwr : Pwr
  thm : Thm
  clk : Clk
  pins : Pins
  startup : Startup
  sec : Sec
  grade : Nat
  nodeId : Nat
  limitModes : BitVec 4
  limitCclk : Nat
  limitPower : Nat
  time : Nat
  eventSeq : Nat
  badAccess : Nat
  eholdRefused : Bool
  fetchNo : Nat
  freeCount : Nat
  resp : BitVec 64
  aborted : Bool
  deriving DecidableEq, Repr

/-- The state of the block: the fuses, everything else, and the queue of waiting commands (first in, first out). -/
structure State where
  fuses : Fuses
  mod : Mod
  pending : List Instr
  deriving DecidableEq, Repr

/-- Faults of the model. -/
inductive Fault where
  /-- Raised by `execWrite` and `execReadData` for operands that `Instr.wellFormed` refuses (a message whose lines
  differ from its header's count): no such command can reach the block. Safe. -/
  | illFormed
  deriving DecidableEq, Repr

/-- Refusals of the model. -/
inductive Refusal where
  /-- Raised by an arm of `exec` whose command has no meaning yet. Safe. -/
  | notModelled (mnemonic : String)
  deriving DecidableEq, Repr

/-! ### Reset -/

/-- A core at reset (R79). -/
def Core.reset : Core :=
  { scratch := [], poisonAll := none, poison := [], prog := [], seg := List.replicate 8 (0, 0),
    vseg := List.replicate 4 (0, 0), stage := List.replicate 16 (0, 0), checkBase := 0, checkSize := 0,
    tokens := List.replicate 32 0, queues := List.replicate 16 [], stageNext := List.replicate 16 0, acc := [],
    deltaQ := [], dapplyOn := false, params := List.replicate 16 ⟨0, 0, 0, 0⟩, reserve := [], checkN := 256, checkCounter := 0,
    checkDone := 0, checkSkipped := 0, scratchCE := 0, scratchUE := 0, deltaDiscard := 0, state := .off,
    atBarrier := false, beatCount := 0, fault := none, faultCount := 0, program := 0, schedPos := 0, bucket := 0,
    runahead := 0, levels := [], accessPos := List.replicate 16 0, accessBeat := List.replicate 16 0,
    accessPart := List.replicate 16 0, beats := [], done := List.replicate 5 0, recvs := [], landed := [], qcounts := [], xfers := [], pktSeq := 0, samp := [] }

/-- A bank at reset: nothing remapped, erased or counted. -/
def Bank.reset : Bank :=
  { remap := [], erasure := 0, counters := [], colUnits := [], lowPosted := false, copying := none, rowQ := [], refreshRow := 0,
    retired := false }

/-- A slice at reset (R168, R173): unpowered, nothing written. -/
def Slice.reset : Slice :=
  { lines := [], errs := [], counted := [], written := [], state := .off, hot := false, fastScrub := false, innerCE := 0,
    innerUE := 0, outerCE := 0, outerUE := 0, rowsRetired := 0, retireDenied := 0, scrubPos := 0, scrubPasses := 0,
    act := 0, tref := 0, lastErrAddr := 0, lastErrKind := 0, lastErrSym := 0, lastErrSyms := 0,
    lastErrScrub := false, bankRetired := none, unwrittenReads := 0, unwrittenPosted := false, scrubQ := [],
    banks := [], trackers := [], tempLower := 0, tempUpper := 0 }

/-- A router at reset (R216). -/
def Router.reset : Router :=
  { routesA := [], routesB := [], ownA := [], ownB := [], claims := [], redirect := none, linkUp := 0, flitCE := 0,
    flitUE := 0, faultInfo := 0, rimSeq := 0, flits := 0, creditStall := 0 }

/-- Site sensors at reset: limit 24.0 A (R426), full issue. -/
def SiteEnv.reset : SiteEnv :=
  { siteDa := 0, limitDa := 240, fraction := 16, droopSuspect := 0, crack := false, dQ := 0, oQ := 0,
    dSuspect := false, oSuspect := false, assumed := false, hotSamples := 0, integral := 0, gross := 0 }

/-- A site at reset; `live` none stands for the fused class (R30). -/
def Site.reset : Site :=
  { live := none, standin := false, core := Core.reset, slice := Slice.reset, router := Router.reset,
    env := SiteEnv.reset }

/-- Region power at reset (R426). -/
def RegPower.reset : RegPower :=
  { core := .off, feedA := false, feedB := false, efuse := false, cellsFailed := 0, throttle := false,
    capped := false, vmidMv := 0, vmidDa := 0, setMv := 0, minMv := 0, minSite := 0, minSensor := 0, pct := 100,
    overPct := 0, fraction := 16, throttleCycles := 0, waitSince := none,
    capping := false }

/-- Region clock at reset (R447). -/
def RegClock.reset : RegClock :=
  { cclkMhz := 0, ceilingMhz := 1200, throttle := false, forced := false, loweredCell := none, throttleMs := 0,
    carouselTime := none, onSeconds := 0, bins := List.replicate 23 0, throttleSeconds := 0 }

/-- Region `n` at reset (R31, R172, R215, R469). -/
def Region.reset (n : Nat) : Region :=
  { evacuated := false, standin := false, roleOf := n, activeSites := 0, lost := false,
    memEvent := 0, trThreshold := 4096, activeBank := false, switchPending := false, ownCheck := true, fabEvent := 0,
    gateClosed := false, watchdogNs := 0, corridor := 0, seamUp := 0, seamClockLost := false,
    power := RegPower.reset, clock := RegClock.reset, repairing := false, fwRestart := false, firstFault := none,
    rgEvent := 0, fwSeq := 0, tilesDropped := 0, heldW1C := [], latched := [], supplyFaults := 0 }

/-- A ring pair at reset (R294). -/
def Pair.reset : Pair :=
  { sqBase := 0, cqBase := 0, sqLog2 := 6, cqLog2 := 6, vector := 0, coalCount := 0, coalUs := 0,
    progressVector := 0, units := 1, enable := false, keepBuffers := false, state := .off, cqFull := false,
    error := 0, sqHead := 0, cqTail := 0, phase := true, sqTail := 0, cqHead := 0, cmds := [], outbox := [],
    posted := [], unannounced := 0, oldest := 0, heldWrites := [], sentWrites := [], sentCompls := [], reserve := 0 }

/-- An event ring at reset (R503). -/
def EvRing.reset : EvRing :=
  { base := 0, log2 := 6, vector := 0, coalCount := 0, coalUs := 0, enable := false, mask := 0, state := .off,
    error := 0, tail := 0, phase := true, head := 0, hold := [], dropped := 0, droppedMark := false,
    unannounced := 0, oldest := 0 }

/-- A host site at reset (R289). -/
def HostSite.reset : HostSite :=
  { modulesUp := 0, rate := 0, linkUp := false, disabled := 0, event := 0, repaired := List.replicate 4 0,
    retrains := 0, replays := 0, losses := 0, mem := [], rejects := [], admin := Pair.reset, ring := EvRing.reset,
    msixTable := [], msixPending := [], hiLatch := [], eholdFirst := none, eholdOpen := false, vectors := [],
    loss := [] }

/-- An Olix link at reset (R376); each end offers 128 flit buffers a class (R357). -/
def Link.reset : Link :=
  { state := .down, rate := 0, mask := 0, partner := none, fecCorr := 0, fecUncorr := 0, crcErr := 0, replays := 0,
    retrains := 0, tx := 0, rx := 0, creditStall := 0, txSeq := 0, rxNext := 0, unackedRx := 0, nakDue := false,
    replay := [], replayTimes := 0, credits := [128, 128, 128], freed := [0, 0, 0], units := [], sent := [], early := [] }

/-- A port group at reset (R375, R377). -/
def PortGroup.reset : PortGroup :=
  { bond := 0, bondInForce := 0, enable := false, rate100 := false, media := false, owner := none, inject := 0,
    event := 0, refusals := 0, poison := 0, lock := 0, dropped := 0, links := List.replicate 4 Link.reset,
    apertures := List.replicate 8 ⟨0, 0, 0⟩, rotateDue := false, rotateTime := none, domainOn := false,
    defaultDue := false }

/-- The fuses as the model takes them from manufacture (DESIGN CHOICE, log entry 5): grade XT-W1320, 16 partitions,
local sites 0-21 ACTIVE and 22-23 SPARE in service regions, every site SPARE in the spare regions (R25), no field
fuse blown. -/
def Fuses.reset : Fuses :=
  { rootDigest := [0, 0, 0, 0], rootRevoked := 0, rollback := 0, debugLevel := 0, jtagLock := false,
    isolationLock := false, maxPartitions := 16, grade := 1,
    spareMap := (List.range 64).map (fun n =>
      if n = 25 ∨ n = 29 ∨ n = 34 ∨ n = 38 then 0x555555555555#48 else 0x500000000000#48),
    moduleId := 0, identityKey := 0, stepping := 0 }

/-- Empty retirement store. -/
def RetireStore.reset : RetireStore :=
  { sites := [], live := [], standins := [], evacuated := [], regionStandins := [], remaps := [], erasures := [], banks := [], derates := [], suspects := [], regions := [] }

/-- Empty counter block. -/
def Counters.reset : Counters :=
  { regions := [], cells := [], slices := [], scratch := [], gross := [], minclk := 0, energy := 0, firstUtc := 0,
    firstUtcTime := 0 }

/-- A ledger copy of a module never powered. -/
def LedgerCopy.reset : LedgerCopy :=
  { valid := true, commitSeq := 0, time := 0, next := 0, entries := [], store := RetireStore.reset,
    counters := Counters.reset }

/-- The ledger at reset (DESIGN CHOICE, log entry 6: flash holds an empty ledger). -/
def Ledger.reset : Ledger :=
  { copyA := LedgerCopy.reset, copyB := LedgerCopy.reset, useB := false, utcValid := false, utcOffset := 0,
    merged := false, committing := false, otherInvalid := false, wear := 0, entries := [], next := 0,
    committedNext := 0, again := false, store := RetireStore.reset, counters := Counters.reset, gasp := none,
    newCount := false }

/-- A factory firmware slot (log entry 6). -/
def FwSlot.reset : FwSlot :=
  { valid := true, sequence := 1, rollback := 0, keySlot := 0, digest := 0 }

/-- A factory configuration copy (log entry 6): the defaults of start code 0x04 (R485). -/
def ConfigCopy.reset : ConfigCopy :=
  { valid := true, sequence := 0, nodeId := 0xFF, modes := 0xF#4, cclkCap := 1200, powerCap := 300,
    pgDefault := List.replicate 16 0 }

/-- Ringmaster at reset (R501). Slots: Ringmaster A, B, region controller A, B. -/
def Rm.reset : Rm :=
  { west := ⟨.off, false, 0⟩, east := ⟨.off, false, 0⟩, activeEast := false, failovers := 0, misses := 0,
    mirrorLag := 0, failedAt := none,
    fw := [FwSlot.reset, { FwSlot.reset with valid := false, sequence := 0 }, FwSlot.reset,
      { FwSlot.reset with valid := false, sequence := 0 }],
    rcSlotB := List.replicate 64 false, activation := none, configA := ConfigCopy.reset,
    configB := { ConfigCopy.reset with valid := false }, useConfigB := false, configValid := true }

/-- Power at reset (R425). -/
def Pwr.reset : Pwr :=
  { vinMv := 0, vinOk := false, quadOk := 0, hostOk := 0, cmdRefused := false, reason := 0, pinW := 0, event := 0,
    quadW := [0, 0, 0, 0], hostW := [0, 0, 0, 0], energy := 0, seamOn := 0, mgmtOn := 0, fabricOn := false,
    ucieOn := 0, overpowerSince := none }

/-- Temperature at reset (R444). -/
def Thm.reset : Thm :=
  { fabricW := false, fabricE := false, minclk := false, inletDc := 0, outletDc := 0, dpDkpa := 0, flowDl := 0,
    heatDl := 0, event := 0, minclkCount := 0, hotSince := [none, none, none] }

/-- Clocks at reset (R446). -/
def Clk.reset : Clk :=
  { ref0 := false, ref1 := false, sel1 := false, fclkWLock := false, fclkELock := false, sclkLock := false,
    mgmtLock := false, wMhz := 0, eMhz := 0, refLoss := 0 }

/-- Pins at reset (R515): `PWR_EN` low, `MOD_RST_N` high, outputs released, `CTL_VDD` present (log entry 3). -/
def Pins.reset : Pins :=
  { pwrEn := false, modRst := false, pwrGood := false, fault := false, hotTrip := false, ctlVdd := true,
    smbAlert := false, straps := 0, console := [], scan := [], jtagIr := .idcode, dr := [], driven := none }

/-- Start-up state at reset (R500: the start code reads 0x11). -/
def Startup.reset : Startup :=
  { step := 0, code := 0x11, lastTrip := false, tripped := false, shutdown := false, shutCmd := none,
    parkedCount := 0, parkPart := 0, parkDeadline := none, env := none, waitSince := none }

/-- `SEC` at reset (R398). -/
def Sec.reset : Sec :=
  { bootKey := 0, fwRollback := 0, firstKey := none, unlocked := false, state := 0, reason := 0, busy := none,
    ownCheckDisable := 0 }

/-- The mesh at reset. -/
def Fabric.reset : Fabric :=
  { linkDown := [], linkDead := [], seamDown := false, flights := [], acks := [], reports := [] }

/-- Everything but fuses and queue at reset. -/
def Mod.reset : Mod :=
  { sites := [], regions := [], parts := [], hosts := List.replicate 4 HostSite.reset,
    groups := List.replicate 16 PortGroup.reset, partners := [], requests := [], outMsgs := [], inMsgs := [], nextTag := 0,
    partnerOrder := 0, fabric := Fabric.reset, ledger := Ledger.reset, rm := Rm.reset, limits := none,
    pwr := Pwr.reset, thm := Thm.reset, clk := Clk.reset, pins := Pins.reset, startup := Startup.reset,
    sec := Sec.reset, grade := 1, nodeId := 0xFF, limitModes := 0xF#4, limitCclk := 1200, limitPower := 300,
    time := 0, eventSeq := 0, badAccess := 0, eholdRefused := false, fetchNo := 0, freeCount := 0, resp := 0,
    aborted := false }

/-- The block right after reset: the module off, before `PWR_EN` is asserted, every register at its reset value. -/
def State.reset : State :=
  { fuses := Fuses.reset, mod := Mod.reset, pending := [] }

end Sys2Proof.Machine
end

