-- ==== Sys2Proof/Machine/Ops.lean ====
section
/-! DEFINITION. The named operations over the state: sparse maps, numbering, memories, events, ledger, completions. -/
namespace Sys2Proof.Machine
open Sys2Proof

/-! ### Sparse maps -/

/-- The value at a key, if listed. -/
def mget? {α : Type} : SMap α → Nat → Option α
  | [], _ => none
  | (j, v) :: t, k => if j = k then some v else mget? t k

/-- The value at a key, or what an unlisted key stands for. -/
def mget {α : Type} (m : SMap α) (k : Nat) (d : α) : α := (mget? m k).getD d

/-- Set a key, keeping the keys rising. -/
def mset {α : Type} : SMap α → Nat → α → SMap α
  | [], k, v => [(k, v)]
  | (j, w) :: t, k, v =>
    if k < j then (k, v) :: (j, w) :: t else if k = j then (k, v) :: t else (j, w) :: mset t k v

/-- Remove a key. -/
def mdel {α : Type} : SMap α → Nat → SMap α
  | [], _ => []
  | (j, w) :: t, k => if j = k then mdel t k else (j, w) :: mdel t k

/-- Set a key of a memory whose unlisted cells read as `d`: writing `d` removes the entry. -/
def mput {α : Type} [DecidableEq α] (d : α) (m : SMap α) (k : Nat) (v : α) : SMap α :=
  if v = d then mdel m k else mset m k v

/-- The canonical form of a memory: keys rise strictly and no entry equals the default. -/
def Memory.wf {α : Type} [DecidableEq α] (d : α) : SMap α → Bool
  | [] => true
  | [(_, v)] => v != d
  | (j, v) :: (k, w) :: t => v != d && decide (j < k) && Memory.wf d ((k, w) :: t)

/-- Write a run of cells from `a` upward. -/
def mputs {α : Type} [DecidableEq α] (d : α) (m : SMap α) (a : Nat) : List α → SMap α
  | [] => m
  | v :: vs => mputs d (mput d m a v) (a + 1) vs

/-- Read `n` cells from `a` upward. -/
def mgets {α : Type} (m : SMap α) (d : α) (a : Nat) : Nat → List α
  | 0 => []
  | n + 1 => mget m a d :: mgets m d (a + 1) n

/-- Remove the cells from `a` up to but excluding `b`. -/
def mdelRange {α : Type} (m : SMap α) (a b : Nat) : SMap α := m.filter (fun p => p.1 < a || b ≤ p.1)

/-! ### Bits and bytes (R8) -/

/-- Bits [lo+len-1 : lo] as a number. -/
def fld {n : Nat} (w : BitVec n) (lo len : Nat) : Nat := (w.toNat >>> lo) % 2 ^ len

/-- Bit `i` is 1. -/
def bit {n : Nat} (w : BitVec n) (i : Nat) : Bool := w.toNat.testBit i

/-- Place `v` (cut to `len` bits) at bit `lo`. -/
def at_ (lo len v : Nat) : Nat := (v % 2 ^ len) <<< lo

/-- Replace bits [lo+len-1 : lo]. -/
def putFld {n : Nat} (w : BitVec n) (lo len v : Nat) : BitVec n :=
  BitVec.ofNat n (w.toNat - at_ lo len (fld w lo len) + at_ lo len v)

/-- A word of fields (lowest bit, width, value). -/
def fields (fs : List (Nat × Nat × Nat)) : Nat :=
  fs.foldl (fun a f => a ||| at_ f.1 f.2.1 f.2.2) 0

/-- Little-endian value of bytes. -/
def leNat (bs : List Byte) : Nat := bs.foldr (fun b a => b.toNat + 256 * a) 0

/-- The `n` lowest bytes of a value, lowest first. -/
def leBytes : Nat → Nat → List Byte
  | 0, _ => []
  | n + 1, v => BitVec.ofNat 8 v :: leBytes n (v / 256)

/-- The bytes [a, a+n) of a string, as a little-endian value. -/
def leAt (bs : List Byte) (a n : Nat) : Nat := leNat ((bs.drop a).take n)

/-- A Bool as a number. -/
def b2n (b : Bool) : Nat := if b then 1 else 0

/-- Saturating 32-bit count. -/
def sat32 (n : Nat) : Nat := min n 0xFFFFFFFF

/-- Saturating 16-bit count. -/
def sat16 (n : Nat) : Nat := min n 0xFFFF

/-- Set or clear bit `i`. -/
def setBit {n : Nat} (w : BitVec n) (i : Nat) (b : Bool) : BitVec n := putFld w i 1 (b2n b)

/-- The numbers below `n` whose bit is 1. -/
def bitsOf {n : Nat} (w : BitVec n) : List Nat := (List.range n).filter (fun i => bit w i)

/-- ceil(a / b). -/
def cdiv (a b : Nat) : Nat := (a + b - 1) / b

/-- floor(log2 n), 0 for 0. -/
def log2 (n : Nat) : Nat := Nat.log2 n

/-- Cut a list into pieces of `n`. -/
def chunksOf {α : Type} (n : Nat) (l : List α) : List (List α) :=
  (List.range (cdiv l.length n)).map (fun j => (l.drop (n * j)).take n)

/-- Replace element `i` by `f` of it. -/
def lupd {α : Type} (l : List α) (i : Nat) (f : α → α) : List α := l.modify i f

/-- Index of the first element that satisfies `p`. -/
def findIdx? {α : Type} (p : α → Bool) (l : List α) : Option Nat := l.findIdx? p

/-! ### Numbering (R15-R36) -/

/-- x of a site. -/
def xOf (s : Nat) : Nat := s % 32
/-- y of a site. -/
def yOf (s : Nat) : Nat := s / 32
/-- Region of a site (R15). -/
def regionOf (s : Nat) : Nat := 8 * (yOf s / 6) + xOf s / 4
/-- Local site index (R15). -/
def localOf (s : Nat) : Nat := 4 * (yOf s % 6) + xOf s % 4
/-- Site of a region and a local index (R15). -/
def siteAt (r l : Nat) : Nat := 32 * (6 * (r / 8) + l / 4) + (4 * (r % 8) + l % 4)
/-- The 24 sites of a region, in ascending local index. -/
def sitesOf (r : Nat) : List Nat := (List.range 24).map (siteAt r)
/-- The region lies in the East half (R20). -/
def eastRegion (r : Nat) : Bool := 4 ≤ r % 8
/-- The site lies in the East half (R20). -/
def eastSite (s : Nat) : Bool := 16 ≤ xOf s
/-- Power quadrant of a region: NW 0, NE 1, SW 2, SE 3 (R33). -/
def quadrantOf (r : Nat) : Nat := 2 * (r / 32) + (r % 8) / 4
/-- The spare regions (R23). -/
def isSpareRegion (r : Nat) : Bool := r = 25 ∨ r = 29 ∨ r = 34 ∨ r = 38
/-- The spare regions in the order R29 prefers for a failing region. -/
def spareOrder (r : Nat) : List Nat :=
  match quadrantOf r with
  | 0 => [25, 34, 29, 38]
  | 1 => [29, 38, 25, 34]
  | 2 => [34, 25, 38, 29]
  | _ => [38, 29, 34, 25]
/-- The site a mesh hop away through port 0-3, if it exists (R16). -/
def neighbour (s p : Nat) : Option Nat :=
  match p with
  | 0 => if 0 < yOf s then some (s - 32) else none
  | 1 => if xOf s < 31 then some (s + 1) else none
  | 2 => if yOf s < 47 then some (s + 32) else none
  | 3 => if 0 < xOf s then some (s - 1) else none
  | _ => none
/-- The port of the neighbour that faces back. -/
def facing (p : Nat) : Nat := (p + 2) % 4
/-- Number of the mesh link at port `p` of a site (R17). -/
def linkOf (s p : Nat) : Nat :=
  match p with
  | 0 => 1488 + s - 32
  | 1 => 31 * yOf s + xOf s
  | 2 => 1488 + s
  | _ => 31 * yOf s + xOf s - 1
/-- The two ends of a mesh link as (site, port) (R17). -/
def linkEnds (l : Nat) : (Nat × Nat) × (Nat × Nat) :=
  if l < 1488 then
    let s := 32 * (l / 31) + l % 31
    ((s, 1), (s + 1, 3))
  else ((l - 1488, 2), (l - 1488 + 32, 0))
/-- The link crosses the seam (R21). -/
def isSeamLink (l : Nat) : Bool := l < 1488 && l % 31 = 15
/-- The port of this site crosses the seam. -/
def isSeamPort (s p : Nat) : Bool := (xOf s = 15 && p = 1) || (xOf s = 16 && p = 3)
/-- Rim elements: edge port and first coordinate of G0-G15 (R34). -/
def groupRim : List (Nat × Nat) :=
  [(0, 0), (0, 12), (0, 16), (0, 28), (1, 7), (1, 13), (1, 31), (1, 37),
   (2, 28), (2, 16), (2, 12), (2, 0), (3, 37), (3, 31), (3, 13), (3, 7)]
/-- Rim elements: edge port and first coordinate of H0-H3 (R34). -/
def hostRim : List (Nat × Nat) := [(0, 4), (0, 20), (2, 4), (2, 20)]
/-- Rim elements: RM-W and RM-E (R34). -/
def mgmtRim : List (Nat × Nat) := [(3, 22), (1, 22)]
/-- The rim site at a coordinate of an edge. -/
def rimSite (edge c : Nat) : Nat :=
  match edge with
  | 0 => c
  | 1 => 32 * c + 31
  | 2 => 32 * 47 + c
  | _ => 32 * c
/-- The port routers of a group, ascending (R34, R361). -/
def groupSites (g : Nat) : List Nat :=
  let r := groupRim.getD g (0, 0)
  (List.range 4).map (fun i => rimSite r.1 (r.2 + i))
/-- The port routers of a host site. -/
def hostSites (h : Nat) : List Nat :=
  let r := hostRim.getD h (0, 0)
  (List.range 8).map (fun i => rimSite r.1 (r.2 + i))
/-- The outward port of a rim site, if it has one that a rim element uses. -/
def outwardPort (s : Nat) : Option Nat :=
  if yOf s = 0 then some 0 else if yOf s = 47 then some 2 else if xOf s = 31 then some 1
  else if xOf s = 0 then some 3 else none
/-- The port group whose port router this is. -/
def groupAt (s : Nat) : Option Nat := (List.range 16).find? (fun g => (groupSites g).contains s)
/-- The host site whose port router this is. -/
def hostAt (s : Nat) : Option Nat := (List.range 4).find? (fun h => (hostSites h).contains s)
/-- The site adjoins a management domain (R36). -/
def isMgmtSite (s : Nat) : Bool := mgmtRim.any (fun r => (List.range 4).any (fun i => rimSite r.1 (r.2 + i) = s))

/-! ### Sites, regions, partitions -/

/-- A site. -/
def siteOf (m : Mod) (s : Nat) : Site := mget m.sites s Site.reset
/-- Change a site. -/
def updSite (m : Mod) (s : Nat) (f : Site → Site) : Mod := { m with sites := mset m.sites s (f (siteOf m s)) }
/-- Change a core. -/
def updCore (m : Mod) (s : Nat) (f : Core → Core) : Mod := updSite m s (fun x => { x with core := f x.core })
/-- Change a slice. -/
def updSlice (m : Mod) (s : Nat) (f : Slice → Slice) : Mod := updSite m s (fun x => { x with slice := f x.slice })
/-- Change a router. -/
def updRouter (m : Mod) (s : Nat) (f : Router → Router) : Mod := updSite m s (fun x => { x with router := f x.router })
/-- Change a site's sensors and limits. -/
def updEnv (m : Mod) (s : Nat) (f : SiteEnv → SiteEnv) : Mod := updSite m s (fun x => { x with env := f x.env })
/-- A region. -/
def regionAt (m : Mod) (r : Nat) : Region := mget m.regions r (Region.reset r)
/-- Change a region. -/
def updRegion (m : Mod) (r : Nat) (f : Region → Region) : Mod :=
  { m with regions := mset m.regions r (f (regionAt m r)) }
/-- Change a region's power. -/
def updPower (m : Mod) (r : Nat) (f : RegPower → RegPower) : Mod :=
  updRegion m r (fun x => { x with power := f x.power })
/-- Change a region's clock. -/
def updClock (m : Mod) (r : Nat) (f : RegClock → RegClock) : Mod :=
  updRegion m r (fun x => { x with clock := f x.clock })
/-- A partition, if it exists. -/
def partOf? (m : Mod) (p : Nat) : Option Part := mget? m.parts p
/-- Change a partition that exists. -/
def updPart (m : Mod) (p : Nat) (f : Part → Part) : Mod :=
  match mget? m.parts p with
  | some x => { m with parts := mset m.parts p (f x) }
  | none => m
/-- A host site. -/
def hostOf (m : Mod) (h : Nat) : HostSite := m.hosts.getD h HostSite.reset
/-- Change a host site. -/
def updHost (m : Mod) (h : Nat) (f : HostSite → HostSite) : Mod := { m with hosts := lupd m.hosts h f }
/-- A port group. -/
def groupOf (m : Mod) (g : Nat) : PortGroup := m.groups.getD g PortGroup.reset
/-- Change a port group. -/
def updGroup (m : Mod) (g : Nat) (f : PortGroup → PortGroup) : Mod := { m with groups := lupd m.groups g f }
/-- Change a link of a group. -/
def updLink (m : Mod) (g k : Nat) (f : Link → Link) : Mod :=
  updGroup m g (fun x => { x with links := lupd x.links k f })
/-- A link of a group. -/
def linkAt (m : Mod) (g k : Nat) : Link := (groupOf m g).links.getD k Link.reset

/-- Do `f` on every listed number in turn. -/
def forAll (m : Mod) (l : List Nat) (f : Mod → Nat → Mod) : Mod := l.foldl f m

/-- Cores per service region (R1, R222). -/
def coresPer (m : Mod) : Nat := if m.grade = 2 then 20 else 22

/-- Class of a site in the fuse map (R24). -/
def fusedClass (fz : Fuses) (s : Nat) : SiteClass :=
  match fld (fz.spareMap.getD (regionOf s) 0) (2 * localOf s) 2 with
  | 0 => .active
  | 1 => .spare
  | 2 => .disabled
  | _ => .bad

/-- Live class of a site (R30). -/
def liveClass (fz : Fuses) (m : Mod) (s : Nat) : SiteClass := (siteOf m s).live.getD (fusedClass fz s)

/-- Code of a class (R24). -/
def classCode : SiteClass → Nat
  | .active => 0
  | .spare => 1
  | .disabled => 2
  | .bad => 3

/-- The regions of a configuration record (R220). -/
def configRegions (c : BitVec 1024) : List Nat := (List.range 64).filter (fun n => bit c (64 + n))
/-- `HOST_SITE` of a configuration record. -/
def configHost (c : BitVec 1024) : Nat := fld c 40 2
/-- `MODES` of a configuration record. -/
def configModes (c : BitVec 1024) : BitVec 4 := BitVec.ofNat 4 (fld c 128 4)
/-- `TWIN` of a configuration record. -/
def configTwin (c : BitVec 1024) : Bool := bit c 136
/-- `JOURNAL` of a configuration record. -/
def configJournal (c : BitVec 1024) : Bool := bit c 137
/-- `PERMIT_CEILING` of a configuration record. -/
def configPermits (c : BitVec 1024) : Nat := fld c 144 16
/-- `CCLK_MAX_MHZ` of a configuration record. -/
def configCclk (c : BitVec 1024) : Nat := fld c 160 16
/-- `PORT_GROUPS` of a configuration record. -/
def configGroups (c : BitVec 1024) : BitVec 16 := BitVec.ofNat 16 (fld c 176 16)

/-- The physical region that holds the role of region `r` (R29, R31), if any does. -/
def roleHolder (m : Mod) (r : Nat) : Option Nat :=
  if !(regionAt m r).evacuated then (if (regionAt m r).lost then none else some r)
  else [25, 29, 34, 38].find? (fun q => (regionAt m q).standin && (regionAt m q).roleOf = r && !(regionAt m q).lost)

/-- The physical regions a partition's roles stand on. -/
def partRegions (m : Mod) (x : Part) : List Nat := (configRegions x.config).filterMap (roleHolder m)

/-- The partition that owns region `r` of the configuration (R381). -/
def regionOwner (m : Mod) (r : Nat) : Option Nat :=
  (m.parts.find? (fun px => (configRegions px.2.config).contains r)).map Prod.fst

/-- The partition whose role a physical region holds. -/
def servedBy (m : Mod) (r : Nat) : Option Nat := regionOwner m (regionAt m r).roleOf

/-- The sites of a partition's cores, by virtual core: of its plan, or of the plan being loaded. -/
def partSites (x : Part) : List Nat :=
  match x.plan, x.load with
  | some pl, _ => pl.sites
  | none, some l => l.plan.sites
  | none, none => []

/-- The virtual core at a site of a plan. -/
def vcoreAt (pl : Plan) (s : Nat) : Option Nat := pl.sites.findIdx? (· == s)

/-- The partition whose role the core at a site holds (R198, R205). -/
def partAtSite (m : Mod) (s : Nat) : Option Nat :=
  (m.parts.find? (fun px => (partSites px.2).contains s)).map Prod.fst

/-! ### Ringmaster (R462) -/

/-- The active member. -/
def rmActive (m : Mod) : RmMember := if m.rm.activeEast then m.rm.east else m.rm.west
/-- The member that is not active. -/
def rmOther (m : Mod) : RmMember := if m.rm.activeEast then m.rm.west else m.rm.east
/-- Ringmaster serves rings and writes batch tables. -/
def rmAlive (m : Mod) : Bool := (rmActive m).state == .active
/-- Control waits to switch to the standby member at a step boundary of every partition (R464 step 2). -/
def rmSwitching (m : Mod) : Bool := m.rm.activation.any (fun a => a.kind == 1 && a.region == 1)

/-! ### Free choices -/

/-- Take a free choice among `n` candidates (log entry 11). -/
def chooseIdx (m : Mod) (n : Nat) : Nat := Config.choose m.freeCount n % n

/-- Take one of the free items `l`, where the rule names none (log entry 33). -/
def pickFree (what : Nat) (key l : List Nat) : Option Nat := match l with
  | [] => none
  | [a] => some a
  | _ => l[Config.pick what key l % l.length]?
/-- Take `n` of the free items one after another, fewer where fewer are free. -/
def pickMany (what : Nat) (key : List Nat) : Nat → List Nat → List Nat
  | 0, _ => []
  | n + 1, l => match pickFree what key l with
    | some a => a :: pickMany what key n (l.erase a)
    | none => []

/-- Count one free choice. -/
def bumpFree (m : Mod) : Mod := { m with freeCount := m.freeCount + 1 }

/-! ### Scratch (R38-R41) -/

/-- A scratch word. -/
def scrWord (c : Core) (a : Nat) : Word := mget c.scratch a 0
/-- The poison cause of a scratch word, if poisoned. -/
def poisonOf (c : Core) (a : Nat) : Option PoisonCause := (mget? c.poison a).getD c.poisonAll
/-- Set the poison state of one word. -/
def setPoison (c : Core) (a : Nat) (v : Option PoisonCause) : Core :=
  { c with poison := if v = c.poisonAll then mdel c.poison a else mset c.poison a v }
/-- Write one whole word: its poison bit clears (R41). -/
def writeWord (c : Core) (a : Nat) (v : Word) : Core :=
  setPoison { c with scratch := mput 0 c.scratch a v } a none
/-- Write words from `a` upward. -/
def writeWords (c : Core) (a : Nat) : List Word → Core
  | [] => c
  | v :: vs => writeWords (writeWord c a v) (a + 1) vs
/-- Word `t` of a line (R100). -/
def lineWord (l : Line) (t : Nat) : Word := BitVec.ofNat 64 (fld l (64 * t) 64)
/-- The 9 words of a line (R39). -/
def lineWords (l : Line) : List Word := (List.range 9).map (lineWord l)
/-- A line from 9 words. -/
def wordsLine (ws : List Word) : Line := BitVec.ofNat 576 (ws.foldr (fun w a => w.toNat + 2 ^ 64 * a) 0)
/-- `FORMAT` of a line's tag (R95). -/
def tagFmt (l : Line) : Nat := fld l 544 6
/-- `POISON` of a line's tag (R95). -/
def tagPoison (l : Line) : Bool := bit l 552
/-- `LEVEL` of a line's tag (R95). -/
def tagLevel (l : Line) : Nat := fld l 553 3
/-- `SEQ_PARITY` of a line's tag (R95). -/
def tagParity (l : Line) : Nat := fld l 556 4
/-- Set `POISON` in a line's tag. -/
def poisonLine (l : Line) : Line := setBit l 552 true
/-- Store a line: a tag with `POISON` poisons all 9 words, cause INBOUND (R39, R41). -/
def writeLine (c : Core) (a : Nat) (l : Line) : Core :=
  let c' := writeWords c a (lineWords l)
  if tagPoison l then (List.range 9).foldl (fun d t => setPoison d (a + t) (some .inbound)) c' else c'
/-- Store a line that came through a window; one that a partner sent poisoned keeps that origin (R371). -/
def writeReply (c : Core) (remote : Bool) (a : Nat) (l : Line) : Core :=
  let c' := writeLine c a l
  if remote && tagPoison l then (List.range 9).foldl (fun d t => setPoison d (a + t) (some .partner)) c' else c'
/-- The bytes of a line: byte t holds bits [8t+7 : 8t] (R244). -/
def lineBytes (l : Line) : List Byte := leBytes 72 l.toNat
/-- A line from 72 bytes. -/
def bytesLine (bs : List Byte) : Line := BitVec.ofNat 576 (leNat bs)
/-- The lines in a byte string of 72 bytes a line. -/
def bytesLines (bs : List Byte) : List Line := (chunksOf 72 bs).map bytesLine

/-- Parity of a 32-bit handle: the XOR of its eight nibbles (R98). -/
def handleParity (h : BitVec 32) : Nat :=
  (List.range 8).foldl (fun a i => a ^^^ fld h (4 * i) 4) 0

/-! ### Host memory -/

/-- The host bus rejects an access to [a, a+n). -/
def rejected (h : HostSite) (a n : Nat) : Bool := h.rejects.any (fun r => r.1 < a + n && a < r.1 + r.2)
/-- Read host memory. -/
def hostRead (h : HostSite) (a n : Nat) : List Byte := mgets h.mem 0 a n
/-- Write host memory. -/
def hostWrite (h : HostSite) (a : Nat) (bs : List Byte) : HostSite := { h with mem := mputs 0 h.mem a bs }
/-- What the host did with its memory before a command (log entry 12). -/
def applySide (m : Mod) (h : Nat) (side : HostSide) : Mod :=
  updHost m h (fun x => { side.writes.foldl (fun y w => hostWrite y w.1 w.2) x with rejects := side.rejects })

/-! ### Ring pairs -/

/-- The host site of a partition (R220). -/
def partHost (x : Part) : Nat := configHost x.config
/-- The host site of a ring pair. -/
def ringHost (m : Mod) : RingRef → Nat
  | .admin h => h.val
  | .part p _ => match partOf? m p.val with
    | some x => partHost x
    | none => 0
/-- A ring pair. -/
def pairOf (m : Mod) : RingRef → Pair
  | .admin h => (hostOf m h.val).admin
  | .part p q => match partOf? m p.val with
    | some x => mget x.pairs q.val Pair.reset
    | none => Pair.reset
/-- Change a ring pair. -/
def updPair (m : Mod) (r : RingRef) (f : Pair → Pair) : Mod :=
  match r with
  | .admin h => updHost m h.val (fun x => { x with admin := f x.admin })
  | .part p q => updPart m p.val (fun x => { x with pairs := mset x.pairs q.val (f (mget x.pairs q.val Pair.reset)) })
/-- A known command of a pair (R297). -/
def cmdOf? (m : Mod) (r : RingRef) (cid : BitVec 16) : Option Cmd :=
  (pairOf m r).cmds.find? (fun c => c.entry.cid = cid)
/-- Change a known command. -/
def updCmd (m : Mod) (r : RingRef) (cid : BitVec 16) (f : Cmd → Cmd) : Mod :=
  updPair m r (fun p => { p with cmds := p.cmds.map (fun c => if c.entry.cid = cid then f c else c) })

/-- `args` bytes [n, n+k) of an entry ("a n" of R298). -/
def argN (e : SqEntry) (n k : Nat) : Nat := fld e.args (8 * n) (8 * k)

/-- Code of a status (R300). -/
def statusCode : Status → Nat
  | .ok => 0x00
  | .aborted => 0x01
  | .alreadyComplete => 0x02
  | .notFound => 0x03
  | .refusedResources => 0x04
  | .stateLost => 0x05
  | .deferred => 0x06
  | .held => 0x08
  | .badDescriptor => 0x09
  | .notPermitted => 0x0A

/-- A completion with the fields most commands leave 0 (R299). -/
def compl (cid : BitVec 16) (st : Status) : Completion :=
  { cid := cid, status := st, final := false, detail := 0, handle := 0, result0 := 0, result1 := 0, time := 0 }

/-- The pair is an admin pair. -/
def isAdmin : RingRef → Bool
  | .admin _ => true
  | .part _ _ => false

/-- A command of an admin pair whose completion is discarded, after a host loss or reset at its site (R499). -/
def discarded (r : RingRef) (c : Cmd) : Bool := c.abortBy == some (r, c.entry.cid)

/-- Queue a completion for its pair and mark the command completed (R301). A command with a rejected buffer completes
with BAD_DESCRIPTOR, its results kept (R298, R316). Completions of a pair that is OFF, in ERROR or disabled are discarded,
and a disabled pair without commands is OFF (R297, R319); a STALE pair holds them (R315). -/
def complete (m : Mod) (r : RingRef) (c : Completion) : Mod :=
  updPair m r (fun p =>
    let bad := (p.cmds.find? (fun d => d.entry.cid = c.cid)).any (fun d => d.bad)
    let c' := { c with time := m.time, status := if bad then .badDescriptor else c.status }
    let keep := (p.state = .active ∧ p.enable) ∨ p.state = .stale
    if p.cmds.any (fun d => d.entry.cid = c.cid && discarded r d) && isAdmin r then
      { p with cmds := p.cmds.filter (fun d => !(d.entry.cid = c.cid) || c.status = .deferred) }
    else if keep then
      { p with
        outbox := p.outbox ++ [c'],
        cmds := p.cmds.map (fun d => if d.entry.cid = c.cid ∧ ¬ (c.status = .deferred) then
            { d with phase := .completed } else d) }
    else
      let left := p.cmds.filter (fun d => d.entry.cid ≠ c.cid)
      if left.isEmpty ∧ ¬ p.enable then { p with cmds := left, state := .off, reserve := 0 } else { p with cmds := left })

/-- Complete with a status alone. -/
def completeS (m : Mod) (r : RingRef) (cid : BitVec 16) (st : Status) : Mod := complete m r (compl cid st)

/-- Output of a pair stays in its output reserve: from a host loss of its partition to `RESUME` (R315, R316). -/
def pairHeld (m : Mod) : RingRef → Bool
  | .admin _ => false
  | .part p _ => match partOf? m p.val with
    | some x => x.holdHost
    | none => false

/-- A completion for a command that was never registered: a duplicate CID (R297). -/
def pushCompl (m : Mod) (r : RingRef) (c : Completion) : Mod :=
  updPair m r (fun p => { p with outbox := p.outbox ++ [{ c with time := m.time }] })

/-- Output written to host memory stays in a partition pair's output reserve until the link layer acknowledges it (R315). -/
def noteOutput (m : Mod) (r : RingRef) (ws : List (Nat × List Byte × BitVec 16)) (cs : List Completion) : Mod :=
  match r with
  | .admin _ => m
  | .part _ _ => updPair m r (fun p => { p with sentWrites := p.sentWrites ++ ws, sentCompls := p.sentCompls ++ cs })

/-- A write into a command's buffer: direct, held in the output reserve after a host loss (R315), and remembered
as rejected when the host bus rejects it (R298). -/
def bufWrite (m : Mod) (r : RingRef) (cid : BitVec 16) (a : Nat) (bs : List Byte) : Mod :=
  if pairHeld m r then
    updPair m r (fun p => { p with heldWrites := p.heldWrites ++ [(a, bs, cid)] })
  else if rejected (hostOf m (ringHost m r)) a bs.length then updCmd m r cid (fun c => { c with bad := true })
  else noteOutput (updHost m (ringHost m r) (fun h => hostWrite h a bs)) r [(a, bs, cid)] []

/-- A vector is masked: bit 0 of its vector control word; every entry comes up masked, as PCIe has it (log entry 25). -/
def vecMasked (tab : SMap Word) (v : Nat) : Bool := bit (mget tab (2 * v + 1) 0x100000000) 32

/-- Raise an MSI-X vector of function 0 of a host site (R318); a masked vector becomes pending. -/
def raise0 (x : HostSite) (v : Nat) : HostSite :=
  if vecMasked x.msixTable v then { x with msixPending := if x.msixPending.contains v then x.msixPending else x.msixPending ++ [v] }
  else { x with vectors := x.vectors ++ [(0, v)] }

/-- Raise an MSI-X vector of a pair's function (R318). -/
def raiseVector (m : Mod) (r : RingRef) (v : Nat) : Mod :=
  match r with
  | .admin h => updHost m h.val (fun x => raise0 x v)
  | .part p _ => match partOf? m p.val with
    | none => m
    | some x =>
      if vecMasked x.msixTable v then
        updPart m p.val (fun y => { y with msixPending := if y.msixPending.contains v then y.msixPending else y.msixPending ++ [v] })
      else updHost m (partHost x) (fun h => { h with vectors := h.vectors ++ [(p.val + 1, v)] })

/-! ### Ledger and events -/

/-- UTC of an entry (R477, R478). -/
def utcNow (l : Ledger) (t : Nat) : Nat := if l.utcValid then (l.utcOffset + (t : Int)).toNat else 0

/-- Append a ledger entry (R474); the log keeps the last 4,096. Answers its number with the module. -/
def ledgerAdd (m : Mod) (event cls flags : Nat) (payload : BitVec 192) : Mod :=
  let l := m.ledger
  let nc := b2n l.newCount
  let e : LedgerEntry :=
    { seq := l.next, time := m.time, utc := utcNow l m.time, event := event, cls := cls,
      flags := flags + b2n l.utcValid + 8 * nc, payload := payload }
  let es := l.entries ++ [e]
  { m with ledger := { l with
    entries := es.drop (es.length - 4096), next := l.next + 1, newCount := false,
    again := l.again || l.committing } }

/-- A 24-byte payload from fields. -/
def payload (fs : List (Nat × Nat × Nat)) : BitVec 192 := BitVec.ofNat 192 (fields fs)

/-- The device time field of most payloads. -/
def timeField (m : Mod) : Nat × Nat × Nat := (128, 64, m.time)

/-- Group of an event code (R506). -/
def eventGroup (code : Nat) : Nat := code / 256 - 1

/-- Does this event go to the ring of host site `h` (R505)? `partition` is the partition of the record, `lost` the
lost site of a `HOST_LOST`. -/
def eventScope (m : Mod) (code : Nat) (partition : Option Nat) (lost : Option Nat) (h : Nat) : Bool :=
  let g := eventGroup code
  if g = 0 ∨ g = 3 ∨ g = 4 ∨ code = 0x0707 then
    match partition.bind (partOf? m) with
    | some x => partHost x == h
    | none => false
  else if code = 0x0601 then lost != some h
  else true

/-- Bytes of an event record (R504). -/
def recordBytes (e : Event) (phase dropped : Bool) : List Byte :=
  leBytes 2 e.code
    ++ leBytes 1 (b2n phase + 2 * b2n e.ledger.isSome + 4 * b2n dropped)
    ++ leBytes 1 e.status
    ++ leBytes 1 (e.partition.getD 0xFF) ++ leBytes 3 0
    ++ leBytes 8 e.seq ++ leBytes 8 (e.ledger.getD 0xFFFFFFFFFFFFFFFF) ++ leBytes 8 0
    ++ leBytes 24 e.payload.toNat ++ leBytes 8 0

/-- Write waiting records to the ring while it has room (R503-R505). `n` bounds the records moved. -/
def drainRing (t h : Nat) : Nat → HostSite → HostSite
  | 0, x => x
  | n + 1, x =>
    let r := x.ring
    match r.hold with
    | [] => x
    | e :: rest =>
      if r.state ≠ .active then x
      else
        let size := 2 ^ r.log2
        if (r.tail + 1) % size = r.head then x
        else
          let a := r.base.toNat + 64 * r.tail
          if rejected x a 64 then { x with ring := { r with state := .error, error := 1 } }
          else
            let x1 := hostWrite x a (recordBytes e r.phase r.droppedMark)
            let tail' := (r.tail + 1) % size
            let un := r.unannounced + 1
            let fire := max 1 r.coalCount ≤ un ∨ r.coalUs = 0
            let x2 : HostSite := { x1 with
              ring := { r with
                hold := rest, tail := tail', phase := if tail' = 0 then !r.phase else r.phase, droppedMark := false,
                unannounced := if fire then 0 else un,
                oldest := if r.unannounced = 0 then t else r.oldest } }
            drainRing t h n (if fire then raise0 x2 r.vector else x2)

/-- Hold a record for a ring, dropping it when 256 already wait (R505). -/
def holdRecord (x : HostSite) (e : Event) : HostSite :=
  let r := x.ring
  if r.hold.length < 256 then { x with ring := { r with hold := r.hold ++ [e] } }
  else { x with ring := { r with dropped := sat32 (r.dropped + 1), droppedMark := true } }

/-- Give a record to the rings in scope that do not mask it (R505). -/
def deliver (m : Mod) (e : Event) (lost : Option Nat) : Mod :=
  forAll m [0, 1, 2, 3] (fun m h =>
    if eventScope m e.code e.partition lost h ∧ ¬ bit (hostOf m h).ring.mask (eventGroup e.code) then
      updHost m h (fun x => drainRing m.time h 257 (holdRecord x e))
    else m)

/-- Post a module event (R504, R505); `ledger` holds the class and flags of its ledger entry, if it has one. -/
def postWith (m : Mod) (code status : Nat) (partition lost : Option Nat) (ledger : Option (Nat × Nat))
    (pl : BitVec 192) : Mod :=
  let n := m.ledger.next
  let m1 := match ledger with
    | some (cls, flags) => ledgerAdd m code cls flags pl
    | none => m
  let e : Event :=
    { code := code, status := status, partition := partition, seq := m.eventSeq,
      ledger := ledger.map (fun _ => n), payload := pl }
  deliver { m1 with eventSeq := m1.eventSeq + 1 } e lost

/-- Post an event without a ledger entry. -/
def post (m : Mod) (code : Nat) (partition : Option Nat) (pl : BitVec 192) : Mod :=
  postWith m code 0 partition none none pl

/-- Post an event that is written to the ledger. -/
def postLedger (m : Mod) (code : Nat) (partition : Option Nat) (cls flags : Nat) (pl : BitVec 192) : Mod :=
  postWith m code 0 partition none (some (cls, flags)) pl

/-- Code of a fault class (R469). -/
def faultClassCode : FaultClass → Nat
  | .plan => 1
  | .core => 2
  | .memory => 3
  | .fabric => 4
  | .supply => 5
  | .partner => 6

/-! ### Holds and gates (R206, R210-R212, R387) -/

/-- Some hold cause is set (R387). -/
def anyHold (x : Part) : Bool := x.holdAdmin || x.holdHost || x.holdPartner || x.holdSeam || !x.frameHolds.isEmpty

/-- Close or open the gates of a partition's regions. -/
def setGates (m : Mod) (p : Nat) (closed : Bool) : Mod :=
  match partOf? m p with
  | some x => forAll m (partRegions m x) (fun m r => updRegion m r (fun y => { y with gateClosed := closed }))
  | none => m

/-- Every core of the partition stands at the barrier. -/
def allArrived (m : Mod) (x : Part) : Bool := (partSites x).all (fun s => (siteOf m s).core.atBarrier)

/-- The partition stands at a boundary: no beat is in progress. -/
def atBoundary (m : Mod) (x : Part) : Bool := !x.inStep || allArrived m x

/-- Cores of a held partition show HELD, of a running one RUN (R53, R79); faulted cores stay FAULTED. -/
def markCores (m : Mod) (p : Nat) (st : SiteState) : Mod :=
  match partOf? m p with
  | some x => forAll m (partSites x) (fun m s =>
      updCore m s (fun c => if c.state = .faulted then c else { c with state := st }))
  | none => m

/-- Bytes of one pair's output reserve in use: waiting, held and unacknowledged output (R315). -/
def reserveUsed (p : Pair) : Nat :=
  32 * (p.outbox.length + p.sentCompls.length) + (p.heldWrites ++ p.sentWrites).foldl (fun a w => a + w.2.1.length) 0

/-- Bytes in the output reserves of a partition (R292). -/
def heldBytes (x : Part) : Nat := x.pairs.foldl (fun a p => a + reserveUsed p.2) 0

/-- Payload of the host events (R317). -/
def lossPayload (m : Mod) (h cause : Nat) (ps : List Nat) (held abandoned : Nat) : BitVec 192 :=
  payload [(0, 2, h), (8, 8, cause), (16, 16, ps.foldl (fun a p => a ||| 2 ^ p) 0), (32, 4, (hostOf m h).modulesUp.toNat),
    (36, 2, (hostOf m h).rate), (64, 32, held), (96, 32, abandoned), timeField m]

/-- Post every host loss whose partitions have all stopped (R314, R317). -/
def postLosses (m : Mod) : Mod :=
  forAll m [0, 1, 2, 3] (fun m h =>
    let ready := (hostOf m h).loss.filter (fun l => l.2.2.isEmpty)
    ready.foldl (fun m l =>
        let held := l.2.1.foldl (fun a p => a + (match partOf? m p with
          | some x => heldBytes x
          | none => 0)) 0
        postWith m 0x0601 0 none (some h) none (lossPayload m h l.1 l.2.1 held 0))
      (updHost m h (fun y => { y with loss := y.loss.filter (fun l => !l.2.2.isEmpty) })))

/-- A pair at a host loss: `ENABLE` clears, it is STALE, and what the link layer has not acknowledged is held (R314, R315). -/
def stalePair (p : Pair) : Pair :=
  { p with
    enable := false, state := .stale, heldWrites := p.sentWrites ++ p.heldWrites, outbox := p.sentCompls ++ p.outbox,
    sentWrites := [], sentCompls := [] }

/-- A partition that a host loss holds and that has stopped goes to LOST: every pair of its 64 becomes STALE (R295, R314). -/
def lossStop (m : Mod) (p : Nat) : Mod :=
  match partOf? m p with
  | none => m
  | some x =>
    let stopped : Bool := match x.frame0 with
      | .run => false
      | .holdPending => false
      | _ => true
    if x.holdHost && stopped && (x.session == .active || x.session == .reattach) then
      let m1 := updPart m p (fun y => { y with
        session := .lost,
        pairs := (List.range 64).map (fun q => (q, stalePair (mget y.pairs q Pair.reset))) })
      postLosses (forAll m1 [0, 1, 2, 3] (fun m h => updHost m h (fun y => { y with
        loss := y.loss.map (fun l => (l.1, l.2.1, l.2.2.filter (fun q => q != p))) })))
    else m

/-- Frame 0 after a hold was set or cleared (R211): RUN goes to HOLD_PENDING with the gates closed, and on to HELD once
every member is at the barrier. A partition whose last hold is cleared in HOLD_PENDING still stops at the end of its beat, and
runs on from there (R202). -/
def settleHold (m : Mod) (p : Nat) : Mod :=
  match partOf? m p with
  | none => m
  | some x =>
    if anyHold x then
      match x.frame0 with
      | .run | .holdPending =>
        let m1 := setGates m p true
        if atBoundary m1 x then
          lossStop (markCores (updPart m1 p (fun y => { y with frame0 := .held })) p .held) p
        else updPart m1 p (fun y => { y with frame0 := .holdPending })
      | _ => lossStop (setGates m p true) p
    else
      match x.frame0 with
      | .held => markCores (updPart (setGates m p false) p (fun y => { y with frame0 := .run })) p .run
      | .holdPending =>
        if atBoundary m x then markCores (updPart (setGates m p false) p (fun y => { y with frame0 := .run })) p .run else m
      | _ => setGates m p false

/-- A stop-type action that waits for a boundary closes the gates of a beat in progress (R206); they open again at its end. -/
def closeGates (m : Mod) (p : Nat) : Mod :=
  match partOf? m p with
  | some x => if atBoundary m x then m else setGates m p true
  | none => m

/-- A response value for the reader (R495, R518, R519). -/
def respond (m : Mod) (v : Nat) : Mod := { m with resp := BitVec.ofNat 64 v, aborted := false }

/-! ### Register writes -/

/-- An access reaches the module through a host site only over its trained link (R500). -/
def viaSite (h : Nat) (f : Mod → Mod) (m : Mod) : Mod := if (hostOf m h).linkUp then f m else m

/-- The unlock sequence of the emergency hold is closed at a site: a write to `GLB`, or its use (R508). -/
def eholdClose (h : Nat) (m : Mod) : Mod := updHost m h (fun x => { x with eholdOpen := false })

/-- A write to `GLB` through a host site. -/
def viaGlb (h : HostId) (f : Mod → Mod) : Mod → Mod := viaSite h.val (fun m => f (eholdClose h.val m))

/-- A write to a ring pair's registers: in `GLB` for an admin pair, in the function of a partition's pair. -/
def viaRing (r : RingRef) (f : Mod → Mod) (m : Mod) : Mod :=
  match r with
  | .admin h => viaGlb h f m
  | .part _ _ => viaSite (ringHost m r) f m

/-- A meaning that changes the module and neither fuses nor queue. -/
def lift (f : Mod → Mod) (s : State) : Host.Outcome State Fault Refusal := .next { s with mod := f s.mod }

end Sys2Proof.Machine
end

