-- ==== Sys2Proof/Machine/Arith.lean ====
section
/-! DEFINITION. Number formats, rounding, quantisation and accumulation (03_narrow_arithmetic.md). -/
namespace Sys2Proof.Machine
open Sys2Proof

/-! ### Exact values -/

/-- A value: NaN, an infinity, or (-1)^neg · m · 2^e. -/
inductive Fl where
  | nan
  | inf (neg : Bool)
  | fin (neg : Bool) (m : Nat) (e : Int)
  deriving DecidableEq, Repr

/-- m · 2^s truncated toward zero. -/
def shiftTrunc (m : Nat) (s : Int) : Nat := if 0 ≤ s then m <<< s.toNat else m >>> (-s).toNat

/-- m · 2^(-k) rounded to nearest, ties to even. -/
def rneShift (m k : Nat) : Nat :=
  if k = 0 then m
  else
    let q := m >>> k
    let r := m % 2 ^ k
    let half := 2 ^ (k - 1)
    if r > half ∨ (r = half ∧ q % 2 = 1) then q + 1 else q

/-- Signed m · 2^e as an integer in units of 2^g, g at most e. -/
def inUnits (neg : Bool) (m : Nat) (e g : Int) : Int :=
  let v : Int := (m <<< (e - g).toNat : Nat)
  if neg then -v else v

/-- An exact integer multiple of 2^g as a value; a zero takes the sign given. -/
def ofUnits (v g : Int) (zeroNeg : Bool) : Fl :=
  if v = 0 then .fin zeroNeg 0 g else .fin (decide (v < 0)) v.natAbs g

/-- Exact sum; opposite infinities give NaN; an exact zero from non-zero terms is +0. -/
def flAdd : Fl → Fl → Fl
  | .nan, _ => .nan
  | _, .nan => .nan
  | .inf a, .inf b => if a = b then .inf a else .nan
  | .inf a, _ => .inf a
  | _, .inf b => .inf b
  | .fin a m e, .fin b n f =>
    let g := min e f
    ofUnits (inUnits a m e g + inUnits b n f g) g (a && b)

/-- Exact product; 0 · Inf gives NaN. -/
def flMul : Fl → Fl → Fl
  | .nan, _ => .nan
  | _, .nan => .nan
  | .inf a, .inf b => .inf (a != b)
  | .inf a, .fin b n _ => if n = 0 then .nan else .inf (a != b)
  | .fin a m _, .inf b => if m = 0 then .nan else .inf (a != b)
  | .fin a m e, .fin b n f => .fin (a != b) (m * n) (e + f)

/-- Negation. -/
def flNeg : Fl → Fl
  | .nan => .nan
  | .inf a => .inf !a
  | .fin a m e => .fin (!a) m e

/-- Magnitude. -/
def flAbs : Fl → Fl
  | .nan => .nan
  | .inf _ => .inf false
  | .fin _ m e => .fin false m e

/-- The first value is less than the second (false with a NaN). -/
def flLt : Fl → Fl → Bool
  | .nan, _ => false
  | _, .nan => false
  | .inf a, .inf b => a && !b
  | .inf a, .fin _ _ _ => a
  | .fin _ _ _, .inf b => !b
  | .fin a m e, .fin b n f =>
    let g := min e f
    decide (inUnits a m e g < inUnits b n f g)

/-- The value is finite. -/
def flFinite : Fl → Bool
  | .fin _ _ _ => true
  | _ => false

/-! ### binary32 and bfloat16 (R91) -/

/-- Decode binary32. -/
def b32Val (b : B32) : Fl :=
  let s := bit b 31
  let x := fld b 23 8
  let m := fld b 0 23
  if x = 255 then (if m = 0 then .inf s else .nan)
  else .fin s (if x = 0 then m else m + 2 ^ 23) ((max x 1 : Nat) - 150 : Int)

/-- Round to nearest even to a format with `p` significand bits and least exponent `qmin` of the unit: significand
and exponent. -/
def roundTo (p : Nat) (qmin : Int) (m : Nat) (e : Int) : Nat × Int :=
  if m = 0 then (0, qmin)
  else
    let q := max (e + (log2 m + 1 : Nat) - (p : Int)) qmin
    let r := if q ≤ e then m <<< (e - q).toNat else rneShift m (q - e).toNat
    if r = 2 ^ p then (2 ^ (p - 1), q + 1) else (r, q)

/-- Encode a value as binary32, rounded to nearest even; overflow gives an infinity, a NaN the quiet NaN 0x7FC0_0000,
also where an operand or a decoded element was the NaN (R91, R114; DEDUCED, log entry 82). -/
def toB32 : Fl → B32
  | .nan => 0x7FC00000
  | .inf s => if s then 0xFF800000 else 0x7F800000
  | .fin s m e =>
    let r := roundTo 24 (-149) m e
    let sg := b2n s * 2 ^ 31
    if r.1 < 2 ^ 23 then BitVec.ofNat 32 (sg + r.1)
    else if 104 < r.2 then BitVec.ofNat 32 (sg + 255 * 2 ^ 23)
    else BitVec.ofNat 32 (sg + (r.2 + 150).toNat * 2 ^ 23 + (r.1 - 2 ^ 23))

/-- Decode bfloat16. -/
def b16Val (b : B16) : Fl := b32Val (BitVec.ofNat 32 (b.toNat * 2 ^ 16))

/-- Convert binary32 to bfloat16 (R108): nearest even; a NaN keeps sign and top payload bits and becomes quiet. -/
def b32ToB16 (b : B32) : B16 :=
  match b32Val b with
  | .nan => BitVec.ofNat 16 (fld b 16 16 ||| 0x40)
  | .inf s => if s then 0xFF80 else 0x7F80
  | .fin s m e =>
    let r := roundTo 8 (-133) m e
    let sg := b2n s * 2 ^ 15
    if r.1 < 2 ^ 7 then BitVec.ofNat 16 (sg + r.1)
    else if 120 < r.2 then BitVec.ofNat 16 (sg + 255 * 2 ^ 7)
    else BitVec.ofNat 16 (sg + (r.2 + 134).toNat * 2 ^ 7 + (r.1 - 2 ^ 7))

/-- Convert bfloat16 to binary32: exact (R108); a NaN becomes quiet. -/
def b16ToB32 (b : B16) : B32 :=
  match b16Val b with
  | .nan => BitVec.ofNat 32 ((b.toNat ||| 0x40) * 2 ^ 16)
  | _ => BitVec.ofNat 32 (b.toNat * 2 ^ 16)

/-- binary32 sum (R119). -/
def add32 (a b : B32) : B32 := toB32 (flAdd (b32Val a) (b32Val b))
/-- binary32 difference. -/
def sub32 (a b : B32) : B32 := toB32 (flAdd (b32Val a) (flNeg (b32Val b)))
/-- binary32 product. -/
def mul32 (a b : B32) : B32 := toB32 (flMul (b32Val a) (b32Val b))
/-- binary32 order. -/
def lt32 (a b : B32) : Bool := flLt (b32Val a) (b32Val b)
/-- The bit pattern is a NaN. -/
def isNan32 (a : B32) : Bool := decide (b32Val a = .nan)
/-- binary32 of a count (exact below 2^24). -/
def nat32 (n : Nat) : B32 := toB32 (.fin false n 0)

/-! ### Packed formats (R80-R92) -/

/-- Layout of a packed format: code, element bits, block, elements a line, scale base, scale width, headroom exponent h,
grid exponent g (R80, R92, R110). -/
structure Packed where
  code : Nat
  w : Nat
  block : Nat
  perLine : Nat
  scaleBase : Nat
  scaleW : Nat
  h : Int
  g : Int
  expBits : Nat
  bias : Nat
  manBits : Nat
  deriving DecidableEq, Repr

/-- The packed formats of R80. -/
def packedOf (code : Nat) : Option Packed :=
  match code with
  | 0x01 => some ⟨1, 4, 32, 128, 512, 8, 3, -1, 2, 1, 1⟩
  | 0x02 => some ⟨2, 6, 32, 80, 480, 8, 3, -3, 2, 1, 3⟩
  | 0x03 => some ⟨3, 6, 32, 80, 480, 8, 5, -4, 3, 3, 2⟩
  | 0x04 => some ⟨4, 8, 32, 64, 512, 8, 9, -9, 4, 7, 3⟩
  | 0x05 => some ⟨5, 8, 32, 64, 512, 8, 16, -16, 5, 15, 2⟩
  | 0x06 => some ⟨6, 8, 32, 64, 512, 8, 2, -6, 0, 0, 0⟩
  | 0x08 => some ⟨8, 3, 16, 160, 480, 6, 3, 0, 0, 0, 0⟩
  | 0x09 => some ⟨9, 2, 32, 240, 480, 8, 1, 0, 0, 0, 0⟩
  | _ => none

/-- Two's complement value of a `w`-bit code. -/
def sext (w c : Nat) : Int := if c < 2 ^ (w - 1) then (c : Int) else (c : Int) - 2 ^ w

/-- Decode an element (R84-R90): its value without the scale, as an integer in units of 2^g. -/
inductive Elem where
  | num (v : Int)
  | inf (neg : Bool)
  | nan
  deriving DecidableEq, Repr

/-- Element decode. -/
def elemOf (f : Packed) (c : Nat) : Elem :=
  if f.code = 6 then .num (sext 8 c)
  else if f.code = 8 then .num (sext 3 c)
  else if f.code = 9 then .num (if c = 1 then 1 else if c = 3 then -1 else 0)
  else
    let man := c % 2 ^ f.manBits
    let ex := (c / 2 ^ f.manBits) % 2 ^ f.expBits
    let neg := decide (2 ^ (f.w - 1) ≤ c)
    if f.code = 4 ∧ ex = 15 ∧ man = 7 then .nan
    else if f.code = 5 ∧ ex = 31 then (if man = 0 then .inf neg else .nan)
    else
      let v : Nat := if ex = 0 then man else (man + 2 ^ f.manBits) <<< (ex - 1)
      .num (if neg then -(v : Int) else (v : Int))

/-- Scale exponent of a scale code; none for NaN (R83, R89). -/
def scaleExp (f : Packed) (c : Nat) : Option Int :=
  if f.code = 8 then (if c = 63 then none else some ((c : Int) - 32))
  else if c = 255 then none else some ((c : Int) - 127)

/-- Lines that hold `n` elements of a format (R94 counts whole blocks of 32). -/
def runLines (f : Packed) (kblk : Nat) : Nat := cdiv (32 * kblk) f.perLine

/-- Line and slot of the scale of element `i` of a run (R92, R93). -/
def scalePlace (f : Packed) (i : Nat) : Nat × Nat :=
  if f.perLine = 80 then
    let j := (i % 160) / 32
    if j < 3 then (2 * (i / 160), j) else (2 * (i / 160) + 1, j - 2)
  else if f.perLine = 240 then
    let j := (i % 480) / 32
    if j < 8 then (2 * (i / 480), j) else (2 * (i / 480) + 1, j - 7)
  else (i / f.perLine, (i % f.perLine) / f.block)

/-- Element code `i` of a run of lines. -/
def runCode (f : Packed) (ls : List Line) (i : Nat) : Nat :=
  fld (ls.getD (i / f.perLine) 0) (f.w * (i % f.perLine)) f.w

/-- Scale code of element `i` of a run of lines. -/
def runScale (f : Packed) (ls : List Line) (i : Nat) : Nat :=
  let p := scalePlace f i
  fld (ls.getD p.1 0) (f.scaleBase + f.scaleW * p.2) f.scaleW

/-- Element × scale as a value (R108). -/
def scaled (f : Packed) (el : Elem) (sc : Option Int) : Fl :=
  match sc with
  | none => .nan
  | some e =>
    match el with
    | .nan => .nan
    | .inf s => .inf s
    | .num v => .fin (decide (v < 0)) v.natAbs (f.g + e)

/-- Element `i` of a run decoded to binary32 (R108). -/
def runVal (f : Packed) (ls : List Line) (i : Nat) : B32 :=
  toB32 (scaled f (elemOf f (runCode f ls i)) (scaleExp f (runScale f ls i)))

/-- Largest finite element value M in units of 2^g (R84, R88). -/
def maxUnits (f : Packed) : Nat :=
  match f.code with
  | 1 => 12
  | 2 => 60
  | 3 => 448
  | 4 => 448 * 512
  | 5 => 57344 * 65536
  | 6 => 127
  | _ => 3

/-- Round a magnitude m · 2^e to the element grid, nearest, ties to the even code (R101): the magnitude code. -/
def encodeMag (f : Packed) (m : Nat) (e : Int) : Nat :=
  if f.code = 6 then
    let r := if f.g ≤ e then m <<< (e - f.g).toNat else rneShift m (f.g - e).toNat
    r
  else
    let r := roundTo (f.manBits + 1) f.g m e
    if r.1 < 2 ^ f.manBits then r.1
    else ((r.2 - f.g).toNat + 1) * 2 ^ f.manBits + (r.1 - 2 ^ f.manBits)

/-- The magnitude code of M. -/
def maxCode (f : Packed) : Nat :=
  match f.code with
  | 1 => 7
  | 2 => 31
  | 3 => 31
  | 4 => 0x7E
  | 5 => 0x7B
  | _ => 0x7F

/-- Signed element code from sign and magnitude code; a zero has sign 0 (R101). -/
def signCode (f : Packed) (neg : Bool) (c : Nat) : Nat :=
  if c = 0 ∨ !neg then c else if f.code = 6 then 256 - c else c + 2 ^ (f.w - 1)

/-- Smallest E with m · 2^e at most M · 2^E, for m > 0. -/
def scaleFor (f : Packed) (m : Nat) (e : Int) : Int :=
  let mu := maxUnits f
  let e0 := e - f.g + (log2 m : Nat) - (log2 mu : Nat)
  -- M · 2^e0 has the leading bit of the value's leading bit; compare exactly
  let k := e - f.g - e0
  let fits := if 0 ≤ k then m <<< k.toNat ≤ mu else m ≤ mu <<< (-k).toNat
  if fits then e0 else e0 + 1

/-- What QUANT makes of one block: scale code, element codes, SAT, zero-flood, flushed. -/
structure QBlock where
  scale : Nat
  codes : List Nat
  sat : Bool
  zero : Bool
  flushed : Bool
  deriving DecidableEq, Repr

/-- Encode one element under exponent E: code and whether it was replaced by ±M. -/
def quantElem (f : Packed) (E : Int) : Fl → Nat × Bool
  | .nan => (0, false)
  | .inf s => (signCode f s (maxCode f), true)
  | .fin s m e =>
    let c := encodeMag f m (e - E)
    if maxCode f < c then (signCode f s (maxCode f), true) else (signCode f s c, false)

/-- Count of non-zero finite inputs that encode to zero. -/
def zeroCount (xs : List Fl) (codes : List Nat) : Nat :=
  ((xs.zip codes).filter (fun p => match p.1 with
    | .fin _ m _ => m != 0 && p.2 == 0
    | _ => false)).length

/-- Quantise one block of 32 (R101, R103-R105); `static` is the scale code of a static block, whose E is the code less
127 for 0xFF too (DESIGN CHOICE, log entry 81). -/
def quantBlock (f : Packed) (static : Option Nat) (zfThreshold : Nat) (xs : List Fl) : QBlock :=
  let zeros := xs.map (fun _ => 0)
  if xs.any (fun x => decide (x = .nan)) then ⟨255, zeros, true, decide (zfThreshold < zeroCount xs zeros), false⟩
  else
    let big := xs.foldl (fun (a : Fl) x => match x with
      | .fin _ _ _ => if flLt a (flAbs x) then flAbs x else a
      | _ => a) (.fin false 0 0)
    let run (E : Int) (code : Nat) : QBlock :=
      let ys := xs.map (quantElem f E)
      let cs := ys.map Prod.fst
      ⟨code, cs, ys.any (fun y => y.2), decide (zfThreshold < zeroCount xs cs), false⟩
    match static with
    | some c => run ((c : Int) - 127) c
    | none =>
      match big with
      | .fin _ m e =>
        if m = 0 then ⟨127, zeros, false, false, false⟩
        else
          let E := scaleFor f m e
          if E < -127 then ⟨0, zeros, false, false, true⟩
          else
            let E' := min E 127
            run E' (E' + 127).toNat
      | _ => ⟨127, zeros, false, false, false⟩

/-- Pack quantised blocks into lines (R92-R95, R102, R106): block scales into every slot that holds the block, flags
into every line that holds part of a flagged block. -/
def packRun (f : Packed) (level : Nat) (bs : List QBlock) : List Line :=
  let codes := bs.flatMap (fun b => b.codes)
  let n := cdiv codes.length f.perLine
  (List.range n).map (fun li =>
    let els := (List.range f.perLine).map (fun i => (f.w * i, f.w, codes.getD (li * f.perLine + i) 0))
    let blk (j : Nat) : Option Nat :=
      if f.perLine = 80 then (if li % 2 = 0 then some (5 * (li / 2) + j) else some (5 * (li / 2) + 2 + j))
      else some (li * (f.perLine / f.block) + j)
    let slots := if f.perLine = 80 then 3 else f.perLine / f.block
    let here := (List.range slots).filterMap (fun j => (blk j).bind (fun b => (bs[b]?).map (fun q => (j, q))))
    let scs := here.map (fun p => (f.scaleBase + f.scaleW * p.1, f.scaleW, p.2.scale))
    let tag := [(544, 6, f.code), (550, 1, b2n (here.any (fun p => p.2.zero))),
      (551, 1, b2n (here.any (fun p => p.2.sat))), (553, 3, level)]
    BitVec.ofNat 576 (fields (els ++ scs ++ tag)))

/-- Cut values into blocks of 32, the last completed with zeros (R102), and quantise each. -/
def quantRun (f : Packed) (static : Option Nat) (zf : Nat) (xs : List B32) : List QBlock :=
  (chunksOf 32 xs).map (fun b =>
    let vs := b.map b32Val
    quantBlock f static zf (vs ++ List.replicate (32 - vs.length) (.fin false 0 0)))

/-! ### Plain formats (R100) -/

/-- bfloat16 elements packed four a word. -/
def packB16 (xs : List B16) : List Word :=
  (chunksOf 4 xs).map (fun c => BitVec.ofNat 64 (c.foldr (fun b a => b.toNat + 65536 * a) 0))
/-- binary32 elements packed two a word. -/
def packB32 (xs : List B32) : List Word :=
  (chunksOf 2 xs).map (fun c => BitVec.ofNat 64 (c.foldr (fun b a => b.toNat + 2 ^ 32 * a) 0))
/-- `n` bfloat16 elements from words. -/
def unpackB16 (n : Nat) (ws : List Word) : List B16 :=
  (List.range n).map (fun i => BitVec.ofNat 16 (fld (ws.getD (i / 4) 0) (16 * (i % 4)) 16))
/-- `n` binary32 elements from words. -/
def unpackB32 (n : Nat) (ws : List Word) : List B32 :=
  (List.range n).map (fun i => BitVec.ofNat 32 (fld (ws.getD (i / 2) 0) (32 * (i % 2)) 32))
/-- binary32 lines of a format code 0x12 or 0x13 (R92, R96). -/
def packLines32 (code : Nat) (xs : List B32) : List Line :=
  (chunksOf 16 xs).map (fun c =>
    BitVec.ofNat 576 (c.foldr (fun b a => b.toNat + 2 ^ 32 * a) 0 + code * 2 ^ 544))
/-- The 16 values of a binary32 line. -/
def lineVals32 (l : Line) : List B32 := (List.range 16).map (fun i => BitVec.ofNat 32 (fld l (32 * i) 32))
/-- Landing addition of a partial line (R120): element sums, `POISON` the OR of both. -/
def addPartial (held new : Line) : Line :=
  let vs := List.zipWith add32 (lineVals32 held) (lineVals32 new)
  let base : Line := BitVec.ofNat 576 (vs.foldr (fun b a => b.toNat + 2 ^ 32 * a) 0)
  let hi := at_ 512 64 (fld held 512 64)
  let l : Line := BitVec.ofNat 576 (base.toNat + hi)
  if tagPoison held || tagPoison new then poisonLine l else l

/-! ### The matrix engine's accumulation (R109-R116) -/

/-- The narrow accumulator of one lane and column, and the entry it promotes into. `open_` says a run has begun;
`spec` is 0 none, 1 NaN, 2 +Inf, 3 -Inf (R115); `first` that no promotion was made yet. -/
structure Narrow where
  n : Int
  win : Int
  open_ : Bool
  spec : Nat
  first : Bool
  entry : Option B32
  invalid : Bool
  deriving DecidableEq, Repr

/-- Promote (R114): write under `ACC` 0 the first time, add otherwise; an addition to an invalid entry is refused. -/
def promote (acc : Bool) (x : Narrow) : Narrow :=
  let v : Fl := match x.spec with
    | 0 => ofUnits x.n x.win false
    | 1 => .nan
    | 2 => .inf false
    | _ => .inf true
  let y := { x with n := 0, open_ := false, spec := 0, first := false }
  if x.first ∧ ¬ acc then { y with entry := some (toB32 v) }
  else
    match x.entry with
    | some a => { y with entry := some (toB32 (flAdd (b32Val a) v)) }
    | none => { y with invalid := true }

/-- A group of products: the exact sum in units of 2^(g_w+g_a), the combined scale exponent, or a special state
(R109, R115). -/
inductive Group where
  | num (sum : Int) (s : Int)
  | special (k : Nat)
  deriving DecidableEq, Repr

/-- Product of two elements. -/
def elemMul : Elem → Elem → Elem
  | .nan, _ => .nan
  | _, .nan => .nan
  | .inf a, .inf b => .inf (a != b)
  | .inf a, .num v => if v = 0 then .nan else .inf (a != decide (v < 0))
  | .num v, .inf b => if v = 0 then .nan else .inf (decide (v < 0) != b)
  | .num v, .num w => .num (v * w)

/-- Sum of a group's products with the group's scales. -/
def groupOf_ (ps : List Elem) (ew ea : Option Int) : Group :=
  match ew, ea with
  | some e, some f =>
    let sp := ps.foldl (fun (k : Nat) p => match p with
      | .nan => 1
      | .inf s => if k = 0 then (if s then 3 else 2) else if k = (if s then 3 else 2) then k else 1
      | .num _ => k) 0
    if sp = 0 then .num (ps.foldl (fun a p => match p with
      | .num v => a + v
      | _ => a) 0) (e + f)
    else .special sp
  | _, _ => .special 1

/-- Integer division by 2^k toward zero, or multiplication for negative k. -/
def truncUnits (v : Int) (s : Int) : Int :=
  if 0 ≤ s then v * 2 ^ s.toNat else if v < 0 then -((v.natAbs >>> (-s).toNat : Nat) : Int) else ((v.natAbs >>> (-s).toNat : Nat) : Int)

/-- One group enters the window (R111-R113, R115). `gg` is g_w + g_a, `B` the window offset. -/
def enterGroup (acc : Bool) (gg B : Int) (x : Narrow) (g : Group) : Narrow :=
  match g with
  | .special k =>
    let x := if x.open_ then x else { x with open_ := true, n := 0 }
    { x with spec := if x.spec = 0 then k else if x.spec = k then k else 1 }
  | .num sum s =>
    let x1 := if x.open_ then x else { x with open_ := true, win := s + B, n := 0 }
    let v := truncUnits sum (gg + s - x1.win)
    if x1.spec ≠ 0 then x1
    else if x1.n + v < -2 ^ 31 ∨ 2 ^ 31 - 1 < x1.n + v then
      let y := promote acc x1
      { y with open_ := true, win := s + B, n := truncUnits sum (gg - B) }
    else { x1 with n := x1.n + v }

/-- Window offset B of a pair (R110). -/
def winOffset (fw fa : Packed) : Int := fw.h + fa.h - 22

/-- The groups of one lane row against one column, in index order (R109), each with its block number. -/
def laneGroups (fw fa : Packed) (gsize kblk : Nat) (ws as_ : List Line) : List (Nat × Group) :=
  (List.range (32 * kblk / gsize)).map (fun j =>
    let i0 := gsize * j
    let ps := (List.range gsize).map (fun t =>
      elemMul (elemOf fw (runCode fw ws (i0 + t))) (elemOf fa (runCode fa as_ (i0 + t))))
    (i0 / 32, groupOf_ ps (scaleExp fw (runScale fw ws i0)) (scaleExp fa (runScale fa as_ i0))))

/-- Feed the groups, promoting after every P blocks and after the last (R61, R116). -/
def feedGroups (acc : Bool) (gg B : Int) (P : Nat) : List (Nat × Group) → Narrow → Narrow
  | [], x => if x.open_ then promote acc x else x
  | (b, g) :: rest, x =>
    let y := enterGroup acc gg B x g
    let y' := match rest with
      | (b', _) :: _ => if b' ≠ b ∧ (b + 1) % P = 0 then promote acc y else y
      | [] => y
    feedGroups acc gg B P rest y'

/-- The result of one lane and column: the final entry, or refused for an invalid entry. -/
def laneResult (fw fa : Packed) (gsize kblk P : Nat) (acc : Bool) (ws as_ : List Line) (entry : Option B32) : Narrow :=
  feedGroups acc (fw.g + fa.g) (winOffset fw fa) P (laneGroups fw fa gsize kblk ws as_)
    { n := 0, win := 0, open_ := false, spec := 0, first := true, entry := entry, invalid := false }

/-- Combined scale exponents of the groups of one lane row against one column, each with its block number; a NaN scale
gives none. -/
def groupScales (fw fa : Packed) (gsize kblk : Nat) (ws as_ : List Line) : List (Nat × Int) :=
  (List.range (32 * kblk / gsize)).filterMap (fun j =>
    match scaleExp fw (runScale fw ws (gsize * j)), scaleExp fa (runScale fa as_ (gsize * j)) with
    | some e, some g => some (gsize * j / 32, e + g)
    | _, _ => none)

/-- The window part of the truncation allowance and the number of promotions (R128): the runs follow from P and the
scales alone; `w` is the window exponent of the run in progress. -/
def runTerms (B : Int) (P : Nat) : List (Nat × Int) → Option Int → Fl × Nat
  | [], w => (.fin false 0 0, b2n w.isSome)
  | (b, s) :: rest, w =>
    let L := w.getD (s + B)
    let ends : Bool := match rest with
      | (b', _) :: _ => b' != b && (b + 1) % P == 0
      | [] => false
    let r := runTerms B P rest (if ends then none else some L)
    (flAdd (.fin false 1 (max L (s + B))) r.1, r.2 + b2n ends)

/-! ### The check lane (R118) -/

/-- Four binary32 partial sums over products in ascending index, then (p0+p1)+(p2+p3). -/
def checkSum (ps : List Fl) : B32 :=
  let go := ps.foldl (fun (a : Nat × B32 × B32 × B32 × B32) p =>
    let (k, p0, p1, p2, p3) := a
    let ad (x : B32) : B32 := toB32 (flAdd (b32Val x) p)
    match k % 4 with
    | 0 => (k + 1, ad p0, p1, p2, p3)
    | 1 => (k + 1, p0, ad p1, p2, p3)
    | 2 => (k + 1, p0, p1, ad p2, p3)
    | _ => (k + 1, p0, p1, p2, ad p3)) (0, 0, 0, 0, 0)
  add32 (add32 go.2.1 go.2.2.1) (add32 go.2.2.2.1 go.2.2.2.2)

/-- One output of the check lane: a lane row of weights against activations. -/
def checkDot (fw : Packed) (ws : List Line) (xs : List Fl) : B32 :=
  checkSum ((List.range xs.length).map (fun i => flMul (b32Val (runVal fw ws i)) (xs.getD i .nan)))

/-- The absolute product sum A (R126). -/
def checkAbs (fw : Packed) (ws : List Line) (xs : List Fl) : B32 :=
  checkSum ((List.range xs.length).map (fun i => flAbs (flMul (b32Val (runVal fw ws i)) (xs.getD i .nan))))

/-- Exponent of the output unit u (R126): floor(log2 A) - 23, or -149 when A is 0. -/
def unitExp (a : B32) : Int :=
  match b32Val a with
  | .fin _ m e => if m = 0 then -149 else e + (log2 m : Nat) - 23
  | _ => 0

/-- |a - b| / 2^u rounded down to an integer, the difference formed exactly; what is not finite saturates. -/
def ulpRatio (a b : B32) (u : Int) : Nat :=
  match flAdd (b32Val a) (flNeg (b32Val b)) with
  | .fin _ m e => sat32 (shiftTrunc m (e - u))
  | _ => 0xFFFFFFFF

/-- Output divergence d = |a - b| / 2^u in binary32, capped at 2^24 (R126). -/
def divergence (a b : B32) (u : Int) : B32 :=
  match flAdd (b32Val a) (flNeg (b32Val b)) with
  | .fin _ m e =>
    let d := toB32 (.fin false m (e - u))
    if lt32 0x4B800000 d then 0x4B800000 else d
  | _ => 0x4B800000

/-- The mean of 2^k divergences in binary32, added in index order (DEDUCED, log entry 42), rounded down (R126). -/
def meanFloor (k : Nat) (ds : List B32) : Nat :=
  match b32Val (mul32 (ds.foldl add32 0) (toB32 (.fin false 1 (-(k : Int))))) with
  | .fin _ m e => shiftTrunc m e
  | _ => 0

end Sys2Proof.Machine
end

