-- ==== Sys2Proof/Machine/Flags.lean ====
section
/-! DEFINITION. Fault classes, the fault latch of a core, sync tokens, event flags of the regions. -/
namespace Sys2Proof.Machine
open Sys2Proof

/-- Class of a core fault code (R77); the codes from 0x28 up are the gateway's, of class Plan (R370). -/
def coreFaultClass (code : Nat) : FaultClass :=
  if code < 0x10 ∨ 0x28 ≤ code then .plan else if code = 0x11 then .memory else .core

/-- A core fault about to be raised: code, `INFO`, address (R77, R79). -/
structure Trap where
  code : Nat
  info : Nat
  addr : Nat
  deriving DecidableEq, Repr

/-- Send a fault report to Ringmaster over the control network (R78, R204): the partition and the fault. -/
def report (m : Mod) (p : Nat) (n : FaultNote) : Mod :=
  { m with fabric := { m.fabric with reports := m.fabric.reports ++ [(p, n)] } }

/-- Remember the first fault of a region since start-up (R469 `RG_FAULT`): site, code, class. -/
def noteRegionFault (m : Mod) (r site code : Nat) (cls : FaultClass) : Mod :=
  updRegion m r (fun x => match x.firstFault with
    | some _ => x
    | none => { x with firstFault := some (site, code, faultClassCode cls) })

/-- The fault is a `POISON_IN` that a partner's line causes (R371). -/
def partnerPoison (m : Mod) (s : Nat) (t : Trap) : Bool :=
  t.code == 0x11 && poisonOf (siteOf m s).core t.addr == some .partner

/-- A core raises a fault (R78): the first is latched and reported, later ones are counted. The core no longer counts as
arrived, so its partition waits at the barrier. -/
def latch (m : Mod) (s engine list index : Nat) (t : Trap) : Mod :=
  match (siteOf m s).core.fault with
  | some _ => updCore m s (fun c => { c with faultCount := sat32 (c.faultCount + 1) })
  | none =>
    let m1 := updCore m s (fun c => { c with
      state := .faulted, atBarrier := false,
      fault := some { code := t.code, engine := engine, list := list, instr := index, info := t.info, addr := t.addr } })
    let m2 := noteRegionFault m1 (regionOf s) s t.code (coreFaultClass t.code)
    match partAtSite m s with
    | some p => report m2 p { site := s, code := t.code, cls := coreFaultClass t.code, partner := partnerPoison m s t }
    | none => m2

/-! ### Sync tokens (R46) -/

/-- Count of token `t`. -/
def tokenCount (c : Core) (t : Nat) : Nat := c.tokens.getD t 0
/-- Take one count of a token. -/
def tokenTake (c : Core) (t : Nat) : Core := { c with tokens := lupd c.tokens t (fun n => n - 1) }
/-- Signal a token; none when the count stands at 63. -/
def tokenSignal (c : Core) (t : Nat) : Option Core :=
  if tokenCount c t < 63 then some { c with tokens := lupd c.tokens t (fun n => n + 1) } else none
/-- Some token is not zero: the lowest. -/
def residue? (c : Core) : Option Nat := (List.range 32).find? (fun t => tokenCount c t != 0)

/-- Set a W1C bit of `MEM_EVENT`. -/
def memFlag (m : Mod) (s b : Nat) : Mod := updRegion m (regionOf s) (fun x => { x with memEvent := setBit x.memEvent b true })
/-- Set a W1C bit of `FAB_EVENT`. -/
def fabFlag (m : Mod) (r b : Nat) : Mod := updRegion m r (fun x => { x with fabEvent := setBit x.fabEvent b true })
/-- Set a W1C bit of `RG_EVENT`. -/
def rgFlag (m : Mod) (r b : Nat) : Mod := updRegion m r (fun x => { x with rgEvent := setBit x.rgEvent b true })
/-- Set a W1C bit of `PWR_EVENT`. -/
def pwrFlag (m : Mod) (b : Nat) : Mod := { m with pwr := { m.pwr with event := setBit m.pwr.event b true } }
/-- Set a W1C bit of `THM_EVENT`. -/
def thmFlag (m : Mod) (b : Nat) : Mod := { m with thm := { m.thm with event := setBit m.thm.event b true } }
/-- Set a W1C bit of a port group's event register. -/
def pgFlag (m : Mod) (g b : Nat) : Mod := updGroup m g (fun x => { x with event := setBit x.event b true })
/-- Set a W1C bit of a host site's event register. -/
def hostFlag (m : Mod) (h b : Nat) : Mod := updHost m h (fun x => { x with event := setBit x.event b true })

end Sys2Proof.Machine
end

