-- ==== Sys2Proof/Machine/Memory.lean ====
section
/-! DEFINITION. Vertical memory: units, codes, retirement, refresh, and its commands (05_vertical_memory.md). -/
namespace Sys2Proof.Machine
open Sys2Proof

/-! ### The address map (R147, R148) -/

/-- Channel of a unit. -/
def unitChannel (u : Nat) : Nat := u % 64
/-- Column of a unit within its row. -/
def unitColumn (u : Nat) : Nat := u / 64 % 16
/-- Bank of a unit. -/
def unitBank (u : Nat) : Nat := u / 1024 % 8
/-- Logical row of a unit. -/
def unitRow (u : Nat) : Nat := u / 8192
/-- Bank number 8·channel + bank of a unit. -/
def bankKey (u : Nat) : Nat := 8 * unitChannel u + unitBank u
/-- Key of the unwritten flag of a unit's row. -/
def rowKey (u : Nat) : Nat := 512 * unitRow u + bankKey u
/-- Units of one slice (R146). -/
def unitsPerSlice : Nat := 2 ^ 24
/-- Spare rows of a bank. -/
def spareRows : Nat := 21
/-- Unit at a channel, bank, row and column. -/
def unitAt (ch b row col : Nat) : Nat := 8192 * row + 1024 * b + 64 * col + ch
/-- A bank of a slice. -/
def bankOf (x : Slice) (k : Nat) : Bank := mget x.banks k Bank.reset
/-- Change a bank. -/
def updBank (m : Mod) (s k : Nat) (f : Bank → Bank) : Mod :=
  updSlice m s (fun x => { x with banks := mset x.banks k (f (bankOf x k)) })
/-- Physical row of a logical row (R148). -/
def physRow (b : Bank) (row : Nat) : Nat :=
  match b.remap.find? (fun p => p.1 = row) with
  | some p => 2048 + p.2
  | none => row
/-- The line stored in an unwritten row (R169). -/
def initLine : Line := 0
/-- A stored line. -/
def sliceLine (x : Slice) (a : Nat) : Line := mget x.lines a initLine
/-! ### The outer code (R149-R151) -/

/-- Product in GF(2^16) modulo x^16 + x^12 + x^3 + x + 1; `n` counts the bits of `b` left. -/
def gfMulGo : Nat → Nat → Nat → Nat → Nat
  | 0, _, _, acc => acc
  | n + 1, a, b, acc =>
    gfMulGo n (if a.testBit 15 then (2 * a) ^^^ 0x1100B else 2 * a) (b / 2) (if b.testBit 0 then acc ^^^ a else acc)
/-- Product in GF(2^16). -/
def gfMul (a b : Nat) : Nat := gfMulGo 16 a b 0
/-- α to a power; α is the element x. -/
def gfPow (n : Nat) : Nat := (List.range n).foldl (fun a _ => gfMul a 2) 1
/-- The inverse in GF(2^16): the power 2^16 - 2. -/
def gfInv (a : Nat) : Nat := ((List.range 15).foldl (fun (r : Nat × Nat) _ => let q := gfMul r.1 r.1; (q, gfMul r.2 q)) (a, 1)).2
/-- Coefficients of the generator polynomial, lowest first: the product of x - α^i for i = 0 to 7 (R150). -/
def rsGenerator : List Nat :=
  (List.range 8).foldl (fun g i => List.zipWith (· ^^^ ·) (0 :: g) (g.map (gfMul (gfPow i)) ++ [0])) [1]
/-- The check symbols 72-79 that make the codeword divisible by the generator: one step for each data symbol keeps what
lies above it, divided by x modulo the generator. -/
def rsCheck (ds : List Nat) : List Nat :=
  let g := rsGenerator
  let inv := gfInv (g.headD 1)
  ds.foldl (fun r d =>
    let q := gfMul (r.headD 0 ^^^ d) inv
    List.zipWith (· ^^^ ·) (r.drop 1 ++ [0]) ((g.drop 1).map (gfMul q))) (List.replicate 8 0)
/-- The 80 symbols of a two-line unit as they are written (R149, R150). -/
def unitCode (lo hi : Line) : BitVec 1280 :=
  let data := lo.toNat + 2 ^ 576 * hi.toNat
  let ds := (List.range 72).map (fun k => (data >>> (16 * k)) % 65536)
  BitVec.ofNat 1280 (data + 2 ^ 1152 * ((rsCheck ds).foldr (fun c a => c + 65536 * a) 0))

/-- Mask of the wrong bits of symbol `k`. -/
def symErr (e : BitVec 1280) (k : Nat) : Nat := fld e (16 * k) 16
/-- Symbols outside the erasure mask that are wrong. -/
def badSymbols (e : BitVec 1280) (mask : BitVec 80) : List Nat :=
  (List.range 80).filter (fun k => symErr e k != 0 && !bit mask k)
/-- The outer decoder corrects (R151). -/
def outerOk (e : BitVec 1280) (mask : BitVec 80) : Bool :=
  2 * (badSymbols e mask).length + (bitsOf mask).length ≤ 6

/-! ### The inner code (R153) -/

/-- What the inner code makes of the wrong bits of a unit: the cells corrected (word, bit), the words flagged, the wrong
bits of the 80 symbols that leave the array. Three wrong bits and more in one word are flagged too (DESIGN CHOICE, log entry
15). -/
structure InnerRead where
  fixed : List (Nat × Nat)
  flagged : Nat
  out : BitVec 1280
  deriving DecidableEq, Repr

/-- Wrong bits of inner word `w`. -/
def innerBits (e : BitVec 1360) (w : Nat) : List Nat := (List.range 136).filter (fun k => bit e (136 * w + k))

/-- Decode the ten inner words of a unit (R153). -/
def innerDecode (e : BitVec 1360) : InnerRead :=
  if e = 0 then ⟨[], 0, 0⟩
  else
    (List.range 10).foldl (fun r w => match innerBits e w with
      | [] => r
      | [k] => { r with fixed := r.fixed ++ [(w, k)] }
      | _ => { r with flagged := r.flagged + 1, out := r.out ||| BitVec.ofNat 1280 (at_ (128 * w) 128 (fld e (136 * w) 128)) })
      ⟨[], 0, 0⟩

/-! ### Events (R174) -/

/-- Payload of a memory event. -/
def memPayload (m : Mod) (s ch b row sym line count : Nat) : BitVec 192 :=
  payload [(0, 11, s), (16, 6, ch), (24, 3, b), (32, 12, row), (48, 8, sym), (64, 25, line), (96, 32, count), timeField m]

/-- Post a memory event about a unit. -/
def memPost (m : Mod) (code s u sym line count : Nat) : Mod :=
  post m code none (memPayload m s (unitChannel u) (unitBank u) (unitRow u) sym line count)

/-- Post a memory event about a unit and enter it in the ledger. -/
def memPostLedger (m : Mod) (code flags s u sym line count : Nat) : Mod :=
  postLedger m code none 3 flags (memPayload m s (unitChannel u) (unitBank u) (unitRow u) sym line count)

/-! ### Retirement (R160-R163) -/

/-- Retire a bank (R163): event, ledger entry, memory fault report; once a bank. -/
def retireBank (m : Mod) (s u line : Nat) : Mod :=
  let k := bankKey u
  if (bankOf (siteOf m s).slice k).retired then m
  else
    let m1 := updBank m s k (fun b => { b with retired := true })
    let m2 := updSlice m1 s (fun x => { x with bankRetired := some (x.bankRetired.getD k) })
    let m3 := memPostLedger (memFlag m2 s 3) 0x0204 4 s u 0xFF line 0
    let m4 := { m3 with ledger := { m3.ledger with store :=
      { m3.ledger.store with banks := m3.ledger.store.banks ++ [(s, k)] } } }
    let m5 := noteRegionFault m4 (regionOf s) s 0 .memory
    report m5 ((partAtSite m s).getD 16) { site := s, code := 0, cls := .memory, partner := false }

/-- One corrected unit counts against symbol column `k` (R162). -/
def countColumn (s u : Nat) (m : Mod) (k : Nat) : Mod :=
  let b := bankOf (siteOf m s).slice (bankKey u)
  let us := mget b.colUnits k []
  if us.contains u then m
  else
    let us' := us ++ [u]
    if us'.length < 16 then updBank m s (bankKey u) (fun b => { b with colUnits := mset b.colUnits k us' })
    else if 2 ≤ (bitsOf b.erasure).length then retireBank m s u (2 * u)
    else
      let m1 := updBank m s (bankKey u) (fun b =>
        { b with erasure := setBit b.erasure k true, colUnits := mdel b.colUnits k })
      memPostLedger (memFlag m1 s 1) 0x0203 0 s u k (2 * u) ((bitsOf b.erasure).length + 1)

/-- Retire a row, or queue it while the bank copies another; without a spare row it is denied (R160, R161). -/
def retireRow (m : Mod) (s k row : Nat) : Mod :=
  let b := bankOf (siteOf m s).slice k
  match b.copying with
  | some rc => if rc.row = row ∨ b.rowQ.contains row then m else updBank m s k (fun b => { b with rowQ := b.rowQ ++ [row] })
  | none =>
    if b.remap.length < spareRows then
      updBank m s k (fun b => { b with copying := some { row := row, spare := b.remap.length } })
    else updSlice m s (fun x => { x with retireDenied := sat16 (x.retireDenied + 1) })

/-- Enter a read with inner corrections into the row trackers; a row that now qualifies is retired (R160, R161). A bit
position is a cell of the row: column, inner word and bit. -/
def trackRow (m : Mod) (s u : Nat) (fixed : List (Nat × Nat)) : Mod :=
  if fixed.isEmpty then m
  else
    let ts := mget (siteOf m s).slice.trackers (unitChannel u) []
    let pos := fixed.map (fun p => 1360 * unitColumn u + 136 * p.1 + p.2)
    let same (t : RowTrack) : Bool := t.bank = unitBank u && t.row = unitRow u
    let old := (ts.find? same).getD { bank := unitBank u, row := unitRow u, reads := 0, fixes := 0, bits := [], prevBits := [] }
    let new : RowTrack := { old with
      reads := old.reads + 1, fixes := old.fixes + fixed.length, bits := old.bits ++ pos.filter (fun q => !old.bits.contains q) }
    let others := ts.filter (fun t => !same t)
    let least := others.foldl (fun a t => min a t.fixes) 0xFFFFFFFF
    let room :=
      if others.length < 64 then others
      else match others.findIdx? (fun t => t.fixes = least) with
        | some i => others.eraseIdx i
        | none => others
    let m1 := updSlice m s (fun x => { x with trackers := mset x.trackers (unitChannel u) (room ++ [new]) })
    if new.reads = 8 ∨ pos.any (fun q => new.prevBits.contains q && !old.bits.contains q) then retireRow m1 s (bankKey u) (unitRow u)
    else m1

/-! ### Access (R154, R155, R166, R169) -/

/-- Count one activation of a unit's row (R166, R167). -/
def activate (m : Mod) (s u : Nat) : Mod :=
  updSlice m s (fun x =>
    let b := bankOf x (bankKey u)
    let r := physRow b (unitRow u)
    let cs := match b.counters.find? (fun p => p.1 = r) with
      | some p => b.counters.map (fun q => if q.1 = r then (r, p.2 + 1) else q)
      | none =>
        if b.counters.length < 32 then b.counters ++ [(r, 1)]
        else
          let least := b.counters.foldl (fun a q => min a q.2) 0xFFFFFFFF
          match b.counters.findIdx? (fun q => q.2 = least) with
          | some i => b.counters.set i (r, least + 1)
          | none => b.counters
    { x with act := x.act + 1, banks := mset x.banks (bankKey u) { b with counters := cs } })

/-- What one unit read finds: the two lines as delivered, and whether the outer code corrected it or gave up. -/
structure UnitRead where
  lo : Line
  hi : Line
  fixed : Bool
  lost : Bool
  deriving DecidableEq, Repr

/-- Wrong bits of a unit in the array: those stored and those this read shows. -/
def unitErr (x : Slice) (u : Nat) (fs : List MemFault) : BitVec 1360 :=
  (fs.filter (fun f => f.unit.val = u)).foldl (fun e f => e ||| f.bad) (mget x.errs u 0)

/-- The lines a unit read delivers, `e` being the wrong bits that leave the array (R154, R169). -/
def unitLines (x : Slice) (u : Nat) (e : BitVec 1280) : UnitRead :=
  let mask := (bankOf x (bankKey u)).erasure
  let lo := sliceLine x (2 * u)
  let hi := sliceLine x (2 * u + 1)
  if !x.written.contains (rowKey u) then ⟨initLine, initLine, false, false⟩
  else if outerOk e mask then ⟨lo, hi, !(badSymbols e mask).isEmpty, false⟩
  else
    let word := unitCode lo hi ^^^ e
    ⟨poisonLine (BitVec.ofNat 576 (fld word 0 576)), poisonLine (BitVec.ofNat 576 (fld word 576 576)), false, true⟩

/-- An outer error of a unit is counted, unless the other kind of read, demand or scrub, has counted it since (R157). -/
def countsOuter (x : Slice) (u : Nat) (scrub : Bool) : Bool := mget? x.counted u != some (!scrub)

/-- Note which kind of read found the outer error of a unit; a second kind settles it. -/
def noteOuter (x : Slice) (u : Nat) (scrub : Bool) : SMap Bool :=
  if countsOuter x u scrub then mset x.counted u scrub else mdel x.counted u

/-- Read one unit: counts, trackers, events (R153, R154, R157, R160-R163, R169). `scrub` says that scrub reads. -/
def readUnit (m : Mod) (s u : Nat) (fs : List MemFault) (scrub act : Bool) : Mod × UnitRead :=
  let m0 := if act then activate m s u else m
  let x0 := (siteOf m0 s).slice
  let raw := unitErr x0 u fs
  let inner := innerDecode raw
  let e := inner.out
  let r := unitLines x0 u e
  let one := b2n (countsOuter x0 u scrub)
  if !x0.written.contains (rowKey u) then
    let m1 := updSlice m0 s (fun x => { x with
      unwrittenReads := sat32 (x.unwrittenReads + 1), unwrittenPosted := true, lastErrAddr := 2 * u, lastErrKind := 3,
      lastErrSym := 0, lastErrSyms := 0, lastErrScrub := scrub })
    let m2 := memFlag m1 s 5
    (if x0.unwrittenPosted then m2 else memPost m2 0x0208 s u 0xFF (2 * u) 0, r)
  else
    let m1 := updSlice m0 s (fun x => { x with
      innerCE := sat32 (x.innerCE + inner.fixed.length), innerUE := sat32 (x.innerUE + inner.flagged), errs := mput 0 x.errs u raw })
    let m2 := trackRow m1 s u inner.fixed
    let syms := badSymbols e (bankOf x0 (bankKey u)).erasure
    if r.lost then
      let m3 := updSlice m2 s (fun x => { x with
        outerUE := sat32 (x.outerUE + one), counted := noteOuter x u scrub, lastErrAddr := 2 * u, lastErrKind := 2, lastErrSym := 0,
        lastErrSyms := 0, lastErrScrub := scrub })
      (retireBank (memPost (memFlag m3 s 2) 0x0201 s u 0xFF (2 * u) 0) s u (2 * u), r)
    else if r.fixed then
      let m3 := updSlice m2 s (fun x => { x with
        outerCE := sat32 (x.outerCE + one), counted := noteOuter x u scrub, lastErrAddr := 2 * u, lastErrKind := 1,
        lastErrSym := syms.headD 0, lastErrSyms := syms.length, lastErrScrub := scrub,
        scrubQ := if scrub || x.scrubQ.contains u then x.scrubQ else x.scrubQ ++ [u] })
      (syms.foldl (countColumn s u) m3, r)
    else (m2, r)

/-- The first access of a run to a row of a bank: it activates the row (log entry 19). -/
def firstOfRow (u0 u : Nat) : Bool := decide (u < u0 + 64) || decide ((u - 64) / 1024 ≠ u / 1024)

/-- Read `n` lines from line `a` upward (R154): the module and the lines. -/
def readLines (m : Mod) (s a n : Nat) (fs : List MemFault) : Mod × List Line :=
  if n = 0 then (m, [])
  else
    let u0 := a / 2
    let units := (List.range ((a + n - 1) / 2 + 1 - u0)).map (fun i => u0 + i)
    let go := units.foldl (fun (acc : Mod × List Line) u =>
      let r := readUnit acc.1 s u fs false (firstOfRow u0 u)
      (r.1, acc.2 ++ (if a ≤ 2 * u ∧ 2 * u < a + n then [r.2.lo] else [])
        ++ (if a ≤ 2 * u + 1 ∧ 2 * u + 1 < a + n then [r.2.hi] else []))) (m, [])
    go

/-- Write one unit: one line or both (R155, R169). -/
def writeUnit (m : Mod) (s u : Nat) (lo hi : Option Line) (fs : List MemFault) (act : Bool) : Mod :=
  let fresh := !((siteOf m s).slice.written.contains (rowKey u))
  let store (m : Mod) (l h : Line) : Mod :=
    updSlice m s (fun x => { x with
      lines := mput initLine (mput initLine x.lines (2 * u) l) (2 * u + 1) h, errs := mdel x.errs u, counted := mdel x.counted u,
      written := if x.written.contains (rowKey u) then x.written else x.written ++ [rowKey u] })
  let m0 := if act then activate m s u else m
  match lo, hi with
  | some l, some h => store m0 l h
  | some l, none =>
    if fresh then store m0 l initLine
    else
      let r := readUnit m0 s u fs false false
      store r.1 l r.2.hi
  | none, some h =>
    if fresh then store m0 initLine h
    else
      let r := readUnit m0 s u fs false false
      store r.1 r.2.lo h
  | none, none => m

/-- Write lines from line `a` upward. -/
def writeLines (m : Mod) (s a : Nat) (ls : List Line) (fs : List MemFault) : Mod :=
  if ls.isEmpty then m
  else
    let u0 := a / 2
    let units := (List.range ((a + ls.length - 1) / 2 + 1 - u0)).map (fun i => u0 + i)
    let at? (b : Nat) : Option Line := if a ≤ b then ls[b - a]? else none
    units.foldl (fun m u => writeUnit m s u (at? (2 * u)) (at? (2 * u + 1)) fs (firstOfRow u0 u)) m

/-! ### Commands -/

/-- A unit's stored errors end: scrub or a row copy wrote the corrected unit back. -/
def healUnit (m : Mod) (s u : Nat) : Mod :=
  updSlice m s (fun x => { x with errs := mdel x.errs u, counted := mdel x.counted u, scrubQ := x.scrubQ.filter (fun v => v != u) })

/-- Scrub one unit: read, decode, write back if corrected (R158). -/
def scrubUnit (m : Mod) (s u : Nat) (fs : List MemFault) : Mod :=
  let r := readUnit m s u fs true true
  if r.2.fixed then healUnit r.1 s u else r.1

/-- The start of a scrub pass: trackers and column counts of the pass begin anew (R160, R162). -/
def newPass (x : Slice) : Slice :=
  { x with
    scrubPos := 0, scrubPasses := sat32 (x.scrubPasses + 1), fastScrub := false,
    banks := x.banks.map (fun p => (p.1, { p.2 with colUnits := [] })),
    trackers := x.trackers.map (fun p =>
      (p.1, (p.2.filter (fun t => !t.bits.isEmpty)).map (fun t => { t with reads := 0, fixes := 0, prevBits := t.bits, bits := [] }))) }

/-- The slice is powered (R168). -/
def slicePowered (x : Slice) : Bool := x.state == .init || x.state == .test || x.state == .ready

/-- The slice runs: it is powered and has passed its test. -/
def sliceRuns (m : Mod) (s : Nat) : Bool := decide ((siteOf m s).slice.state = .ready)

/-- Patrol scrub of the next unit of the pass (R158). -/
def doPatrolScrub (m : Mod) (s : Nat) (fs : List MemFault) : Mod :=
  if sliceRuns m s then
    let u := (siteOf m s).slice.scrubPos
    updSlice (scrubUnit m s u fs) s (fun x =>
      if u + 1 = unitsPerSlice then newPass x else { x with scrubPos := u + 1 })
  else m

/-- Early scrub visit of the oldest queued unit (R159). -/
def doEarlyScrub (m : Mod) (s : Nat) (fs : List MemFault) : Mod :=
  match sliceRuns m s, (siteOf m s).slice.scrubQ with
  | true, u :: _ => updSlice (scrubUnit m s u fs) s (fun x => { x with scrubQ := x.scrubQ.filter (fun v => v != u) })
  | _, _ => m

/-- The next row that waits for the bank's copy engine (R160). -/
def nextRow (m : Mod) (s k : Nat) : Mod :=
  match (bankOf (siteOf m s).slice k).rowQ with
  | [] => m
  | row :: rest => retireRow (updBank m s k (fun b => { b with rowQ := rest })) s k row

/-- The copy of a retired row is complete (R160): remap, counts, event, ledger; its tracker entry ends, and the next row
follows. -/
def doRowCopyDone (m : Mod) (s ch b : Nat) : Mod :=
  let k := 8 * ch + b
  match (bankOf (siteOf m s).slice k).copying with
  | none => m
  | some rc =>
    let us := (List.range 16).map (fun col => unitAt ch b rc.row col)
    let m1 := forAll m us (fun m u => scrubUnit m s u [])
    let m2 := updBank m1 s k (fun x => { x with copying := none, remap := (rc.row, rc.spare) :: x.remap })
    let m3 := updSlice m2 s (fun x => { x with
      rowsRetired := sat16 (x.rowsRetired + 1),
      trackers := mset x.trackers ch ((mget x.trackers ch []).filter (fun t => !(t.bank = b && t.row = rc.row))) })
    let u := unitAt ch b rc.row 0
    let left := spareRows - (rc.spare + 1)
    let m4 := memPostLedger (memFlag m3 s 0) 0x0202 0 s u 0xFF (2 * u) left
    let m5 := if left = 3 ∧ ¬ (bankOf (siteOf m4 s).slice k).lowPosted then
      memPost (memFlag (updBank m4 s k (fun x => { x with lowPosted := true })) s 4) 0x0205 s u 0xFF (2 * u) left
    else m4
    nextRow m5 s k

/-- One row of a bank is refreshed (R165). -/
def doPeriodicRefresh (m : Mod) (s ch b : Nat) : Mod :=
  if sliceRuns m s then updBank m s (8 * ch + b) (fun x => { x with refreshRow := (x.refreshRow + 1) % 2069 }) else m

/-- A refresh interval of a bank ends: its activation counters clear (R166). -/
def doRefreshIntervalEnd (m : Mod) (s ch b : Nat) : Mod :=
  if sliceRuns m s then updBank m s (8 * ch + b) (fun x => { x with counters := [] }) else m

/-- Targeted refresh of the neighbours of every row whose counter reached `TR_THRESHOLD` (R166). -/
def doTargetedRefresh (m : Mod) (s ch b : Nat) : Mod :=
  let k := 8 * ch + b
  let th := (regionAt m (regionOf s)).trThreshold
  let due := (bankOf (siteOf m s).slice k).counters.filter (fun p => th ≤ p.2)
  if due.isEmpty ∨ ¬ sliceRuns m s then m
  else
    let m1 := updBank m s k (fun x => { x with counters := x.counters.filter (fun p => p.2 < th) })
    updSlice m1 s (fun x => { x with tref := x.tref + due.length })

/-- The two DRAM temperatures of a slice are sampled (R165). -/
def doMemHotRefresh (m : Mod) (s lo hi : Nat) : Mod :=
  let x := (siteOf m s).slice
  let t := max lo hi
  let hot := if 85 < t then true else if t < 82 then false else x.hot
  let m1 := updSlice m s (fun x => { x with tempLower := lo, tempUpper := hi, hot := hot })
  if !slicePowered x || hot == x.hot then m1
  else post m1 0x0207 none (memPayload m s 0x3F 0 0 0xFF 0 (b2n hot))

/-- A slice powered for a takeover is READY (R171): every row unwritten, its first pass fast. -/
def readySlice (x : Slice) : Slice :=
  { x with
    state := .ready, lines := [], errs := [], counted := [], written := [], unwrittenPosted := false, fastScrub := true, scrubPos := 0,
    scrubQ := [], trackers := [],
    banks := x.banks.map (fun p => (p.1, { p.2 with counters := [], colUnits := [], copying := none, rowQ := [] })) }

/-- Power off a slice: its contents are lost (R168). -/
def slicePowerOff (x : Slice) : Slice :=
  { x with
    state := .off, lines := [], errs := [], counted := [], written := [], scrubQ := [], trackers := [], fastScrub := false, hot := false,
    unwrittenPosted := false,
    banks := x.banks.map (fun p => (p.1, { p.2 with counters := [], colUnits := [], copying := none, rowQ := [] })) }

/-- `PATROL_SCRUB`. -/
def execPatrolScrub (site : SiteId) (mem : List MemFault) (s : State) : Host.Outcome State Fault Refusal :=
  lift (fun m => doPatrolScrub m site.val mem) s
/-- `EARLY_SCRUB`. -/
def execEarlyScrub (site : SiteId) (mem : List MemFault) (s : State) : Host.Outcome State Fault Refusal :=
  lift (fun m => doEarlyScrub m site.val mem) s
/-- `ROW_COPY_DONE`. -/
def execRowCopyDone (site : SiteId) (channel : RegionId) (bank : Fin 8) (s : State) : Host.Outcome State Fault Refusal :=
  lift (fun m => doRowCopyDone m site.val channel.val bank.val) s
/-- `PERIODIC_REFRESH`. -/
def execPeriodicRefresh (site : SiteId) (channel : RegionId) (bank : Fin 8) (s : State) :
    Host.Outcome State Fault Refusal :=
  lift (fun m => doPeriodicRefresh m site.val channel.val bank.val) s
/-- `REFRESH_INTERVAL_END`. -/
def execRefreshIntervalEnd (site : SiteId) (channel : RegionId) (bank : Fin 8) (s : State) :
    Host.Outcome State Fault Refusal :=
  lift (fun m => doRefreshIntervalEnd m site.val channel.val bank.val) s
/-- `TARGETED_REFRESH`. -/
def execTargetedRefresh (site : SiteId) (channel : RegionId) (bank : Fin 8) (s : State) :
    Host.Outcome State Fault Refusal :=
  lift (fun m => doTargetedRefresh m site.val channel.val bank.val) s
/-- `MEM_HOT_REFRESH`. -/
def execMemHotRefresh (site : SiteId) (lowerC upperC : Fin 256) (s : State) : Host.Outcome State Fault Refusal :=
  lift (fun m => doMemHotRefresh m site.val lowerC.val upperC.val) s

end Sys2Proof.Machine
end

