-- ==== Sys2Proof/Machine/Operands.lean ====
section
/-! DEFINITION. Instruction words, beat programs, issue, and every operand form of the engines (02_core.md). -/
namespace Sys2Proof.Machine
open Sys2Proof

/-! ### The instruction word (R45) -/

/-- `OPCODE`. -/
def wOpcode (w : InstrWord) : Nat := fld w 0 6
/-- `ENGINE`. -/
def wEngine (w : InstrWord) : Nat := fld w 6 3
/-- `ACC`. -/
def wAcc (w : InstrWord) : Bool := bit w 9
/-- `SQ_EN`. -/
def wSqEn (w : InstrWord) : Bool := bit w 22
/-- `SQ`. -/
def wSq (w : InstrWord) : Nat := fld w 23 4
/-- `LAYER`. -/
def wLayer (w : InstrWord) : Nat := fld w 116 12
/-- The 32-bit word `w` of program memory from instruction `idx` on (R50). -/
def progWord (c : Core) (idx w : Nat) : Nat := fld (mget c.prog (idx + w / 4) 0) (32 * (w % 4)) 32
/-- Byte `b` of program memory from instruction `idx` on. -/
def progByte (c : Core) (idx b : Nat) : Nat := fld (mget c.prog (idx + b / 16) 0) (8 * (b % 16)) 8

/-- The opcodes of an engine (R55, R60, R65, R68, R74). -/
def opcodeKnown (e op : Nat) : Bool :=
  match e with
  | 0 => 1 ≤ op && op ≤ 6
  | 1 => op == 1
  | 2 => op == 1
  | 3 => op ≤ 6 || (8 ≤ op && op ≤ 0xE) || (0x10 ≤ op && op ≤ 0x15) || op == 0x3E
  | _ => 1 ≤ op && op ≤ 4

/-- The instruction writes the accumulator file (R45): `MMUL`, `DAPPLY`, and vector instructions with a result and
`DKIND` 1. -/
def writesAcc (e : Nat) (w : InstrWord) : Bool :=
  match e with
  | 1 | 2 => true
  | 3 => bit w 73 && ((1 ≤ wOpcode w && wOpcode w ≤ 6) || (8 ≤ wOpcode w && wOpcode w ≤ 0xD))
  | _ => false

/-- The word breaks a rule of the common header for list `e` (R45, R46). -/
def badHeader (e : Nat) (w : InstrWord) : Bool :=
  wEngine w != e || !opcodeKnown e (wOpcode w) || fld w 28 4 != 0
    || (e == 0 && (bit w 10 || bit w 16 || wSqEn w))
    || (wAcc w && !writesAcc e w)
    || (e == 2 && !wAcc w)

/-! ### Beat programs (R50, R51) -/

/-- A beat list: start index and count; lists 0-15 access, 16 matrix, 17 delta, 18 vector, 19 transfer. -/
def listAt (c : Core) (h l : Nat) : Nat × Nat := (progWord c h l % 65536, progWord c h l / 65536)

/-- End of the instructions of the beat program whose header is at `h`. -/
def progEnd (c : Core) (h : Nat) : Nat :=
  (List.range 20).foldl (fun a l => let p := listAt c h l; if p.2 = 0 then a else max a (p.1 + p.2)) (h + 6)

/-- Header index of beat program `j` (DESIGN CHOICE, log entry 18). -/
def headerAt (c : Core) : Nat → Nat
  | 0 => progWord c 0 13
  | j + 1 => progEnd c (headerAt c j)

/-- Length of the schedule of bucket `b`. -/
def schedLen (c : Core) (b : Nat) : Nat := progWord c 0 (2 + 2 * b)
/-- Beat program id at position `k` of the schedule of bucket `b`. -/
def schedId (c : Core) (b k : Nat) : Nat := progByte c (progWord c 0 (1 + 2 * b)) k
/-- `STEP_FIRST` of a program. -/
def progFirst (c : Core) (j : Nat) : Bool := (progWord c (headerAt c j) 20).testBit 0
/-- `STEP_LAST` of a program. -/
def progLast (c : Core) (j : Nat) : Bool := (progWord c (headerAt c j) 20).testBit 1
/-- List `l` of the beat in execution. -/
def curList (c : Core) (l : Nat) : Nat × Nat := listAt c (headerAt c c.program) l

/-- The program `k` beats ahead, and whether its step has begun (R54): the rest of this step, then the next step,
whose bucket was published when this step began. -/
def beatAhead (x : Part) (c : Core) (k : Nat) : Option (Nat × Bool) :=
  let len := schedLen c c.bucket
  let pos := c.schedPos + k
  if pos < len then some (schedId c c.bucket pos, true)
  else if !x.nextBatch.isEmpty && decide (pos - len < schedLen c x.nextBucket) then some (schedId c x.nextBucket (pos - len), false)
  else none

/-- The partition at a site whose beat is in progress, if its core may issue (R53, R78). -/
def issuing (m : Mod) (s : Nat) : Option (Nat × Part) :=
  let c := (siteOf m s).core
  if c.state = .run ∧ c.fault = none then
    match partAtSite m s with
    | some p => match partOf? m p with
      | some x => if x.inStep then some (p, x) else none
      | none => none
    | none => none
  else none

/-- A `DAPPLY` that has issued goes on without waiting again (R66). -/
def resumes (e : Nat) (c : Core) : Bool := e == 2 && c.dapplyOn

/-- The core may issue instruction `i` of engine `e`'s list now: it is the next of the list, the word is the one
program memory holds, the token awaited is not zero and the queue has its head (R46, R47). -/
def computeReady (m : Mod) (e : Nat) (i : Issue) : Option (Nat × Part) :=
  let c := (siteOf m i.site.val).core
  let l := curList c (15 + e)
  let w := i.word
  let n := c.done.getD e 0
  if !c.atBarrier && decide (n < l.2) && i.index.val == l.1 + n && mget c.prog i.index.val 0 == w
      && (!bit w 10 || tokenCount c (fld w 11 5) != 0 || resumes e c)
      && (!wSqEn w || !(c.queues.getD (wSq w) []).isEmpty) then
    issuing m i.site.val
  else none

/-- The wait of an instruction takes its count (R46). -/
def takeWait (w : InstrWord) (c : Core) : Core := if bit w 10 then tokenTake c (fld w 11 5) else c

/-- Completion of an instruction: pop its queue (R47), signal its token (R46); a count of 63 raises
`TOKEN_OVERFLOW`. -/
def completeCore (w : InstrWord) (c : Core) : Except (Core × Trap) Core :=
  let c1 := if bit w 27 then { c with queues := lupd c.queues (wSq w) List.tail } else c
  if bit w 16 then
    match tokenSignal c1 (fld w 17 5) with
    | some c2 => .ok c2
    | none => .error (c1, ⟨0x09, fld w 17 5, 0⟩)
  else .ok c1

/-- Count an instruction of list `e` as issued. -/
def bumpDone (e : Nat) (c : Core) : Core := { c with done := lupd c.done e (fun n => n + 1) }

/-- Code of the unit that executes a list's instruction: at layer-format level 3 the check lane takes every `MMUL` of the
layer (R73, R79). -/
def unitOf (e : Nat) (c : Core) (w : InstrWord) : Nat := if e = 1 ∧ mget c.levels (wLayer w) 0 = 3 then 7 else e

/-- Run an instruction of a compute engine: the reserved fields of `bad` raise `BAD_INSTR`, a failed internal check
`LOGIC`, then `f` acts on the core, then the instruction completes, or a `DAPPLY` waits for more blocks (R45, R46, R66,
R77, R78). `late` leaves completion to acknowledgements (R190). -/
def runCompute (m : Mod) (e op : Nat) (i : Issue) (late : Bool) (bad : InstrWord → Bool)
    (f : Part → Core → Except (Core × Trap) Core) : Mod :=
  match computeReady m e i with
  | none => m
  | some (_, x) =>
    let s := i.site.val
    let c0 := (siteOf m s).core
    let c := if resumes e c0 then c0 else takeWait i.word c0
    let trap (d : Core) (t : Trap) : Mod := latch (updCore m s (fun _ => d)) s (unitOf e c i.word) 0 i.index.val t
    if badHeader e i.word then trap c ⟨0x01, 0, 0⟩
    else if wOpcode i.word ≠ op then m
    else if bad i.word then trap c ⟨0x01, 0, 0⟩
    else if i.logic then trap c ⟨0x12, 0, 0⟩
    else match f x c with
      | .error (d, t) => trap d t
      | .ok d =>
        if resumes e d then updCore m s (fun _ => d)
        else if late then updCore m s (fun _ => bumpDone e d)
        else match completeCore i.word d with
          | .error (d', t) => trap d' t
          | .ok d' => updCore m s (fun _ => bumpDone e d')

/-! ### Scratch operands (R41, R43) -/

/-- Effective word address of a scratch operand of `n` words, or `SEG_BOUNDS`. -/
def segAddr (c : Core) (seg off n : Nat) : Except (Core × Trap) Nat :=
  let g := c.seg.getD seg (0, 0)
  if off + n ≤ g.2 then .ok (g.1 + off) else .error (c, ⟨0x02, seg, g.1 + off⟩)

/-- Effective line address of a vertical memory operand, or `VSEG_BOUNDS`. -/
def vsegAddr (c : Core) (v off n : Nat) : Except (Core × Trap) Nat :=
  let g := c.vseg.getD v (0, 0)
  if off + n ≤ g.2 then .ok (g.1 + off) else .error (c, ⟨0x03, v, g.1 + off⟩)

/-- Fault code of a poison cause (R77). -/
def poisonCode : PoisonCause → Nat
  | .uninit => 0x08
  | .ue => 0x10
  | .inbound => 0x11
  | .partner => 0x11

/-- The errors a read finds in one word (R41): corrected and counted, or poisoned. -/
def scratchError (c : Core) (f : ScratchFault) : Core :=
  if f.ue then setPoison { c with scratchUE := sat32 (c.scratchUE + 1) } f.addr.val (some .ue)
  else { c with scratchCE := sat32 (c.scratchCE + 1) }

/-- Read words `a` to `a + n - 1`: what the reads find is counted, and a poisoned word raises its fault (R41). -/
def readWords (sf : List ScratchFault) (c : Core) (a n : Nat) : Except (Core × Trap) (Core × List Word) :=
  let c1 := (sf.filter (fun f => a ≤ f.addr.val && f.addr.val < a + n)).foldl scratchError c
  match (List.range n).find? (fun t => (poisonOf c1 (a + t)).isSome) with
  | some t => .error (c1, ⟨match poisonOf c1 (a + t) with
      | some k => poisonCode k
      | none => 0, 0, a + t⟩)
  | none => .ok (c1, mgets c1.scratch 0 a n)

/-! ### Cache lines (R258) -/

/-- Lines of one run of 256 positions (R258). -/
def runLen (f : Packed) : Nat := runLines f 1024
/-- Lines delivered for `k` positions (R258). -/
def linesFor (f : Packed) (k : Nat) : Nat :=
  match f.perLine with
  | 128 => k
  | 80 => 2 * cdiv (4 * k) 5
  | _ => 2 * k

/-! ### Staging rings (R44, R47) -/

/-- Lines a staging ring holds at most. -/
def ringLines (c : Core) (q : Nat) : Nat := (c.stage.getD q (0, 0)).2 / 9

/-- Scratch word address of the ring line that holds line `j` of an entry (DESIGN CHOICE, log entry 83: entries follow
one another round the ring). -/
def stageWord (c : Core) (q : Nat) (e : QEntry) (j : Nat) : Nat :=
  (c.stage.getD q (0, 0)).1 + 9 * ((e.place + j) % max 1 (ringLines c q))

/-- An entry enters its staging ring: whole words are written, so their poison clears, but for lines that arrive
poisoned (R41, R58). -/
def stageEntry (c : Core) (q : Nat) (e0 : QEntry) : Core :=
  let e := { e0 with place := c.stageNext.getD q 0 }
  let c1 := (List.range e.lines.length).foldl (fun d j =>
    let v := if tagPoison (e.lines.getD j 0) then some (if e.remote then PoisonCause.partner else .inbound) else none
    (List.range 9).foldl (fun d t => setPoison d (stageWord c q e j + t) v) d) c
  { c1 with
    queues := lupd c1.queues q (fun l => l ++ [e]),
    stageNext := lupd c1.stageNext q (fun n => (n + e.lines.length) % max 1 (ringLines c q)) }

/-- An engine reads lines `js` of a staged entry: what the reads find in scratch is counted, and a poisoned word raises
its fault (R41, R58). -/
def readStaged (sf : List ScratchFault) (c : Core) (q : Nat) (e : QEntry) (js : List Nat) : Except (Core × Trap) Core :=
  let hit (a : Nat) (j : Nat) : Bool := stageWord c q e j ≤ a && a < stageWord c q e j + 9
  let c1 := (sf.filter (fun f => js.any (hit f.addr.val))).foldl scratchError c
  let poisoned (j : Nat) : Option (Nat × PoisonCause) :=
    if tagPoison (e.lines.getD j 0) then some (stageWord c q e j, if e.remote then .partner else .inbound)
    else (List.range 9).findSome? (fun t => (poisonOf c1 (stageWord c q e j + t)).map (fun k => (stageWord c q e j + t, k)))
  match js.findSome? poisoned with
  | some (a, k) => .error (c1, ⟨poisonCode k, 0, a⟩)
  | none => .ok c1

/-- Format codes match (R97). -/
def fmtMatch (have_ want : Nat) : Bool :=
  if have_ = 0x12 ∨ have_ = 0x13 then want = 0x12 || want = 0x13
  else have_ == want && (packedOf have_).isSome

/-- Compare the tags of lines with the format resolved (R49, R97); `FAULT_INFO` gets the format resolved (DESIGN CHOICE,
log entry 84). -/
def checkTags (c : Core) (want a : Nat) (ls : List Line) : Except (Core × Trap) Unit :=
  match ls.findIdx? (fun l => !fmtMatch (tagFmt l) want) with
  | some j => .error (c, ⟨0x05, want, a + 9 * j⟩)
  | none => .ok ()

/-- Read `n` scratch lines of a format. -/
def readScrLines (sf : List ScratchFault) (c : Core) (fmt a n : Nat) : Except (Core × Trap) (Core × List Line) := do
  let (c1, ws) ← readWords sf c a (9 * n)
  let ls := (chunksOf 9 ws).map wordsLine
  checkTags c1 fmt a ls
  pure (c1, ls)

/-! ### Formats and levels (R48, R133) -/

/-- Layer table entry of a layer. -/
def layerEntry? (x : Part) (l : Nat) : Option LayerEntry := x.plan.bind (fun p => p.layers.find? (fun e => e.layer = l))

/-- The latched level of a layer (R48). -/
def coreLevel (c : Core) (l : Nat) : Nat := mget c.levels l 0

/-- Activation format of a layer at a level (R133). -/
def levelFormat (x : Part) (l lev : Nat) : Nat :=
  match lev, layerEntry? x l with
  | 0, _ => 0x01
  | 1, some e => e.l1Fmt
  | 1, none => 0x02
  | 2, some e => e.l2Fmt
  | 2, none => 0x04
  | _, _ => 0x10

/-- Resolve a format field (R48). -/
def resolveFmt (x : Part) (c : Core) (l f : Nat) : Nat := if f = 0x3F then levelFormat x l (coreLevel c l) else f

/-- A format code of R80, or the layer-format indirection. -/
def fmtKnown (f : Nat) : Bool := (packedOf f).isSome || (0x10 ≤ f && f ≤ 0x13) || f == 0x3F

/-- Codes a vector operand may have: the formats permitted as weights only are reserved here (R80, R82). -/
def fmtVector (f : Nat) : Bool := fmtKnown f && f != 0x08 && f != 0x09

/-- Words an operand of `n` elements occupies in scratch (R100, R94). -/
def operandWords (fmt n : Nat) : Nat :=
  match fmt with
  | 0x10 => cdiv n 4
  | 0x11 => cdiv n 2
  | 0x12 => 9 * cdiv n 16
  | 0x13 => 9 * cdiv n 16
  | _ => match packedOf fmt with
    | some f => 9 * runLines f (cdiv n 32)
    | none => 0

/-- Decode `n` elements of an operand from its words, with the tag comparison of R97. -/
def decodeOperand (c : Core) (fmt a n : Nat) (ws : List Word) : Except (Core × Trap) (List B32) :=
  if fmt = 0x10 then .ok ((unpackB16 n ws).map b16ToB32)
  else if fmt = 0x11 then .ok (unpackB32 n ws)
  else do
    let ls := (chunksOf 9 ws).map wordsLine
    checkTags c fmt a ls
    match packedOf fmt with
    | some f => pure ((List.range n).map (runVal f ls))
    | none => pure ((ls.flatMap lineVals32).take n)

/-! ### The accumulator file (R63) -/

/-- Highest accumulator entry plus one. -/
def accEntries : Nat := 32768

/-- Entries `a` to `a + n - 1` lie in the file, or `ACC_RANGE`. -/
def accRange (c : Core) (a n : Nat) : Except (Core × Trap) Unit :=
  if a + n ≤ accEntries then .ok () else .error (c, ⟨0x07, a + n - 1, 0⟩)

/-- Write or add one entry under `ACC` (R62, R63); an addition to an invalid entry raises `ACC_INVALID`. -/
def accPut (acc : Bool) (c : Core) (a : Nat) (v : B32) : Except (Core × Trap) Core :=
  if acc then
    match mget? c.acc a with
    | some o => .ok { c with acc := mset c.acc a (add32 o v) }
    | none => .error (c, ⟨0x06, a, 0⟩)
  else .ok { c with acc := mset c.acc a v }

/-- Write or add a run of entries. -/
def accPuts (acc : Bool) (c : Core) (a : Nat) : List B32 → Except (Core × Trap) Core
  | [] => .ok c
  | v :: vs => do
    let c1 ← accPut acc c a v
    accPuts acc c1 (a + 1) vs

/-- Read a run of entries; an invalid entry raises `ACC_INVALID` and nothing is delivered. -/
def accRead (c : Core) (a n : Nat) : Except (Core × Trap) (List B32) := do
  accRange c a n
  match (List.range n).find? (fun t => (mget? c.acc (a + t)).isNone) with
  | some t => .error (c, ⟨0x06, a + t, 0⟩)
  | none => pure (mgets c.acc 0 a n)

/-! ### Vector operands (R67) -/

/-- `COUNT` of a vector instruction. -/
def vCount (w : InstrWord) : Nat := fld w 96 15 + 1
/-- Its parameter descriptor (R69). -/
def vParam (w : InstrWord) (c : Core) : Param := c.params.getD (fld w 112 4) ⟨0, 0, 0, 0⟩

/-- The whole of a vector instruction's operands lies within their segments and the accumulator file, else the
instruction raises its fault before any access (R43, R61, R67, R69). `param` says that it reads the parameter operand. -/
def vBounds (param : Bool) (x : Part) (w : InstrWord) (c : Core) : Except (Core × Trap) Unit := do
  let n := vCount w
  if bit w 47 then accRange c (fld w 48 15) n
  else let _ ← segAddr c (fld w 44 3) (fld w 48 22) (operandWords (resolveFmt x c (wLayer w) (fld w 32 6)) n)
  if bit w 73 then accRange c (fld w 74 22) n
  else let _ ← segAddr c (fld w 70 3) (fld w 74 22) (operandWords (resolveFmt x c (wLayer w) (fld w 38 6)) n)
  if param then
    let p := vParam w c
    let _ ← segAddr c p.seg p.off p.len

/-- The source operand, decoded to binary32 (R67, R63). -/
def vSource (sf : List ScratchFault) (x : Part) (w : InstrWord) (c : Core) :
    Except (Core × Trap) (Core × List B32) :=
  let n := vCount w
  if bit w 47 then do
    let a := fld w 48 15
    let vs ← accRead c a n
    pure (if bit w 111 then { c with acc := mdelRange c.acc a (a + n) } else c, vs)
  else do
    let fmt := resolveFmt x c (wLayer w) (fld w 32 6)
    let k := operandWords fmt n
    let a ← segAddr c (fld w 44 3) (fld w 48 22) k
    let (c1, ws) ← readWords sf c a k
    let vs ← decodeOperand c1 fmt a n ws
    pure (c1, vs)

/-- The parameter operand: `n` binary32 values; a shorter operand repeats (DESIGN CHOICE, log entry 20). -/
def vParamVals (sf : List ScratchFault) (w : InstrWord) (c : Core) (n : Nat) :
    Except (Core × Trap) (Core × List B32) := do
  let p := vParam w c
  let a ← segAddr c p.seg p.off p.len
  let k := min p.len (cdiv n 2)
  let (c1, ws) ← readWords sf c a k
  let vs := unpackB32 (2 * k) ws
  pure (c1, (List.range n).map (fun i => vs.getD (i % (2 * k)) 0))

/-- Count quantised blocks for a layer (R106, R132). -/
def countBlocks (c : Core) (l : Nat) (bs : List QBlock) : Core :=
  let q := mget c.qcounts l ⟨0, 0, 0, 0⟩
  let q' : QCount :=
    { sat := q.sat + (bs.filter (fun b => b.sat)).length, zero := q.zero + (bs.filter (fun b => b.zero)).length,
      flushed := q.flushed + (bs.filter (fun b => b.flushed)).length, blocks := q.blocks + bs.length }
  { c with qcounts := mset c.qcounts l q' }

/-- Zero-flood threshold of a layer (R105). -/
def zfThreshold (x : Part) (l : Nat) : Nat :=
  match layerEntry? x l with
  | some e => e.zfThreshold
  | none => 24

/-- Words of values in a destination format: plain, line or packed (R100, R96). Answers the blocks when it packs. -/
def encodeOperand (x : Part) (c : Core) (l fmt : Nat) (static : Option Nat) (vs : List B32) : List Word × List QBlock :=
  match fmt with
  | 0x10 => (packB16 (vs.map b32ToB16), [])
  | 0x11 => (packB32 vs, [])
  | 0x12 => ((packLines32 0x12 vs).flatMap lineWords, [])
  | 0x13 => ((packLines32 0x13 vs).flatMap lineWords, [])
  | _ => match packedOf fmt with
    | some f =>
      let bs := quantRun f static (zfThreshold x l) vs
      ((packRun f (coreLevel c l) bs).flatMap lineWords, bs)
    | none => ([], [])

/-- Write a vector result to its destination. -/
def vDest (x : Part) (w : InstrWord) (c : Core) (vs : List B32) : Except (Core × Trap) Core :=
  if bit w 73 then do
    let a := fld w 74 22
    accRange c a vs.length
    accPuts (wAcc w) c a vs
  else do
    let fmt := resolveFmt x c (wLayer w) (fld w 38 6)
    let a ← segAddr c (fld w 70 3) (fld w 74 22) (operandWords fmt vs.length)
    pure (writeWords c a (encodeOperand x c (wLayer w) fmt none vs).1)

/-- A format field of a vector instruction holds a reserved value, whatever kind of operand it goes with (R80). -/
def badVecFmt (w : InstrWord) : Bool := !fmtVector (fld w 32 6) || !fmtVector (fld w 38 6)

end Sys2Proof.Machine
end

