-- ==== Sys2Proof/Machine/Packets.lean ====
section
/-! DEFINITION. Packets, their headers, transfers in progress (06_fabric_beats_frames.md R178-R191). -/
namespace Sys2Proof.Machine
open Sys2Proof

/-- `ROUTE`. -/
def hRoute (h : Header) : Nat := fld h 0 12
/-- `EPOCH`. -/
def hEpoch (h : Header) : Bool := bit h 12
/-- `CORRIDOR`. -/
def hCorridor (h : Header) : Bool := bit h 13
/-- `KIND`. -/
def hKind (h : Header) : Nat := fld h 14 3
/-- `PARTITION`. -/
def hPart (h : Header) : Nat := fld h 17 4
/-- `SRC_SITE`. -/
def hSrc (h : Header) : Nat := fld h 21 11
/-- `DEST_SITE`. -/
def hDest (h : Header) : Nat := fld h 32 11
/-- `RTAG`. -/
def hRtag (h : Header) : Nat := fld h 43 8
/-- `DOFF`. -/
def hDoff (h : Header) : Nat := fld h 51 16
/-- `PKT_SEQ`. -/
def hSeq (h : Header) : Nat := fld h 70 12
/-- `GWIN` of a `GREQ` or `GWR`. -/
def hGwin (h : Header) : Nat := fld h 82 6
/-- Window offset of a `GREQ` or `GWR`. -/
def hOffset (h : Header) : Nat := fld h 88 34
/-- Lines requested by a `GREQ`. -/
def hLines (h : Header) : Nat := fld h 122 16 + 1

/-- A header (R179): route, epoch, kind, partition, source, tag, offset, lines, packet number, kind-specific bits. -/
def mkHeader (route : Nat) (epoch : Bool) (kind p src rtag doff lines seq spec : Nat) : Header :=
  BitVec.ofNat 144 (fields [(0, 12, route), (12, 1, b2n epoch), (14, 3, kind), (17, 4, p), (21, 11, src), (43, 8, rtag),
    (51, 16, doff), (67, 3, lines - 1), (70, 12, seq), (82, 56, spec)])

/-- Put a packet at a router input. -/
def addFlight (m : Mod) (s port slot : Nat) (pkt : Packet) : Mod :=
  { m with fabric := { m.fabric with flights := m.fabric.flights ++ [{ site := s, port := port, slot := slot, pkt := pkt }] } }

/-- Send an acknowledgement of a packet from the site that received it to its source (R180). -/
def addAck (m : Mod) (s : Nat) (h : Header) : Mod :=
  { m with fabric := { m.fabric with acks := m.fabric.acks ++ [{ src := hSrc h, seq := hSeq h, site := s, kind := hKind h }] } }

/-- The window of a plan. -/
def windowOf (x : Part) (g : Nat) : Option Window := x.plan.bind (fun p => p.windows.find? (fun w => w.gwin = g))

/-- Bank a core stamps on its packets (R184). -/
def epochOf (m : Mod) (s : Nat) : Bool := (regionAt m (regionOf s)).activeBank

/-- Bank the packets of a partition are stamped with: all its regions stamp the same one (R184). -/
def partEpoch (m : Mod) (x : Part) : Bool := (partRegions m x).head?.any (fun r => (regionAt m r).activeBank)

/-- The partition number a core stamps. -/
def partStamp (m : Mod) (s : Nat) : Nat := (partAtSite m s).getD 0

/-- Inject packets of lines from a core's local port and open a transfer (R178, R190). `spec` gives the kind-specific
bits of the packet that starts at a line. -/
def sendLines (m : Mod) (s route kind rtag doff : Nat) (spec : Nat → Nat) (ls : List Line) (t : Xfer) : Mod :=
  let n0 := (siteOf m s).core.pktSeq
  let cs := chunksOf 8 ls
  let pk (j : Nat) : Packet :=
    let c := cs.getD j []
    { header := mkHeader route (epochOf m s) kind (partStamp m s) s rtag (doff + 8 * j) c.length ((n0 + j) % 4096) (spec (8 * j)),
      lines := c }
  let m1 := forAll m (List.range cs.length) (fun m j => addFlight m s 4 0 (pk j))
  updCore m1 s (fun c => { c with
    pktSeq := (n0 + cs.length) % 4096,
    xfers := c.xfers ++ [{ t with open_ := (List.range cs.length).map (fun j => ((n0 + j) % 4096, 1)) }] })

/-- A reply tag no transfer of the core uses (R191). -/
def freeReplyTag (c : Core) : Nat :=
  (pickFree 3 [c.pktSeq] ((List.range 256).filter (fun t => !(c.xfers.any (fun x => x.replyTag = some t))))).getD 0

/-- Send a `GREQ` on a window's request route and open the transfer that awaits its lines (R191). -/
def sendRequest (m : Mod) (s : Nat) (win : Window) (off n : Nat) (t : Xfer) : Mod :=
  let c := (siteOf m s).core
  let tag := freeReplyTag c
  let spec := fields [(0, 6, win.gwin), (6, 34, off), (40, 16, n - 1)]
  let h := mkHeader win.reqRoute (epochOf m s) 1 (partStamp m s) s tag 0 1 c.pktSeq spec
  let m1 := addFlight m s 4 0 { header := h, lines := [] }
  updCore m1 s (fun c => { c with
    pktSeq := (c.pktSeq + 1) % 4096, xfers := c.xfers ++ [{ t with replyTag := some tag }] })

end Sys2Proof.Machine
end

