-- ==== Sys2Proof/Machine/Access.lean ====
section
/-! DEFINITION. The access engine (02_core.md R54-R58, 08_sequences_and_kv_cache.md R256-R269). -/
namespace Sys2Proof.Machine
open Sys2Proof

/-! ### Issue (R54) -/

/-- The program of absolute beat `b`, and whether its step has begun: of a beat gone by, the one the core remembers. -/
def progAt (x : Part) (c : Core) (b : Nat) : Option (Nat × Bool) :=
  if c.beatCount ≤ b then beatAhead x c (b - c.beatCount) else (mget? c.beats b).map (fun j => (j, true))

/-- The next instruction of access list `q` from beat `b`, place `pos` on, at most 16 beats ahead: beat, place, index,
step begun. -/
def accessNext (x : Part) (c : Core) (q : Nat) : Nat → Nat → Nat → Option (Nat × Nat × Nat × Bool)
  | 0, _, _ => none
  | n + 1, b, pos =>
    if c.beatCount + 16 < b then none
    else match progAt x c b with
      | some (j, begun) =>
        let l := listAt c (headerAt c j) q
        if pos < l.2 then some (b, pos, l.1 + pos, begun) else accessNext x c q n (b + 1) 0
      | none => if b < c.beatCount then accessNext x c q n (b + 1) 0 else none

/-- What an access instruction does when it may issue. -/
inductive AccOut where
  | wait
  | trap (m : Mod) (t : Trap)
  | more (m : Mod)
  | done (m : Mod)

/-- Run an access instruction (R45, R54, R77, R78): `begun` says that its step must have begun. -/
def runAccess (m : Mod) (op : Nat) (i : Issue) (begun : Bool) (bad : InstrWord → Bool) (f : Part → AccOut) : Mod :=
  let s := i.site.val
  let q := i.list.val
  let c := (siteOf m s).core
  match issuing m s with
  | none => m
  | some (_, x) =>
    match accessNext x c q (c.beatCount + 17 - c.accessBeat.getD q 0) (c.accessBeat.getD q 0) (c.accessPos.getD q 0) with
    | none => m
    | some (b, pos, idx, inStep) =>
      if i.ahead ≠ b - c.beatCount ∨ idx ≠ i.index.val ∨ mget c.prog idx 0 ≠ i.word
          ∨ c.xfers.any (fun t => t.opcode = 0x40 && t.list = q) then m
      else if badHeader 0 i.word then latch m s 0 q idx ⟨0x01, 0, 0⟩
      else if wOpcode i.word ≠ op then m
      else if bad i.word then latch m s 0 q idx ⟨0x01, 0, 0⟩
      else if i.logic then latch m s 0 q idx ⟨0x12, 0, 0⟩
      else if begun && !inStep then m
      else match f x with
        | .wait => m
        | .more m' => m'
        | .trap m' t => latch m' s 0 q idx t
        | .done m' => updCore m' s (fun d => { d with
            accessBeat := lupd d.accessBeat q (fun _ => b), accessPos := lupd d.accessPos q (fun _ => pos + 1),
            accessPart := lupd d.accessPart q (fun _ => 0), runahead := max d.runahead (b - c.beatCount) })

/-! ### Staging (R44, R47, R54) -/

/-- Lines of queue `q` in its ring. -/
def stagedLines (c : Core) (q : Nat) : Nat := (c.queues.getD q []).foldl (fun a e => a + e.lines.length) 0
/-- Push an entry. -/
def pushEntry (m : Mod) (s q : Nat) (e : QEntry) : Mod := updCore m s (fun c => stageEntry c q e)
/-- Check the ring for a transfer of `n` lines: `STAGING_OVERFLOW`, wait, or go on. An instruction that stages nothing
needs no room in the ring (DEDUCED, log entry 87). -/
def staging (m : Mod) (s q n : Nat) (go : AccOut) : AccOut :=
  let c := (siteOf m s).core
  if ringLines c q < n then .trap m ⟨0x04, q, 0⟩
  else if ringLines c q < stagedLines c q + n ∨ 64 ≤ (c.queues.getD q []).length then .wait
  else go

/-! ### Weights (R55, R457, R458) -/

/-- A PRESENT companion store lists the weight image of the plan (R246, R365, R457): refill prefers it to the source named at
PLAN_LOAD. -/
def registered (m : Mod) (pl : Plan) : Bool :=
  m.partners.any (fun q => q.state == .present && q.role == 2 && q.images.any (fun e => fld e 0 512 == pl.weightDigest.toNat))

/-- A line of a chunk from the refill source (R457). -/
def refillLine (m : Mod) (x : Part) (pl : Plan) (ch : Chunk) (j : Nat) : Line :=
  if pl.source = 0 ∧ ¬ registered m pl then bytesLine (hostRead (hostOf m (partHost x)) (pl.weightAddr + ch.offset + 72 * j) 72)
  else Config.storeLine (ch.offset + 72 * j)

/-- The chunk not yet refilled that covers line `a` of a site, with the line's place in it (R458). -/
def unrefilled (x : Part) (s : Nat) (c : Core) (a : Nat) : Option (Plan × Chunk × Nat) :=
  match x.plan with
  | none => none
  | some pl => (x.refill.find? (fun r => r.1 = s && (match pl.chunks[r.2]? with
      | some ch => let b := (c.vseg.getD ch.vseg (0, 0)).1 + ch.voff
                   b ≤ a && a < b + ch.lines
      | none => false))).bind (fun r => (pl.chunks[r.2]?).map (fun ch =>
        (pl, ch, a - ((c.vseg.getD ch.vseg (0, 0)).1 + ch.voff))))

/-- Read weight lines: from the slice, or from the refill source where a chunk is not yet refilled. -/
def weightLines (m : Mod) (x : Part) (s a n : Nat) (fs : List MemFault) : Mod × List Line :=
  if x.refill.any (fun r => r.1 = s) then
    let c := (siteOf m s).core
    (List.range n).foldl (fun (acc : Mod × List Line) t =>
      match unrefilled x s c (a + t) with
      | some (pl, ch, j) => (acc.1, acc.2 ++ [refillLine m x pl ch j])
      | none =>
        let r := readLines acc.1 s (a + t) 1 fs
        (r.1, acc.2 ++ r.2)) (m, [])
  else readLines m s a n fs

/-- `WSTREAM`. -/
def doWstream (i : Issue) (m : Mod) : Mod :=
  let w := i.word
  let s := i.site.val
  let n := fld w 60 16 + 1
  runAccess m 0x01 i false (fun w => fld w 76 40 != 0) (fun x =>
    match vsegAddr (siteOf m s).core (fld w 32 2) (fld w 34 26) n with
    | .error (_, t) => .trap m t
    | .ok a => staging m s i.list.val n (
        let r := weightLines m x s a n i.mem
        .done (pushEntry r.1 s i.list.val { lines := r.2, source := some a, fetched := false, remote := false, place := 0 })))

/-- `WFETCH`: one request on the window's route (R55, R191); the entry is pushed when every line has arrived. -/
def doWfetch (i : Issue) (m : Mod) : Mod :=
  let w := i.word
  let s := i.site.val
  let n := fld w 72 16 + 1
  runAccess m 0x02 i false (fun w => fld w 88 28 != 0) (fun x =>
    staging m s i.list.val n (
      match windowOf x (fld w 32 6) with
      | none => .trap m ⟨0x28, fld w 32 6, fld w 38 34⟩
      | some win => .done (sendRequest m s win (fld w 38 34) n
          { opcode := 0x40, open_ := [], sigTok := none, replyTag := none, scratch := 0, awaited := n, gwin := win.gwin,
            list := i.list.val, buf := [], index := i.index.val })))

/-- `VMWRITE`: lines from scratch, tags kept (R96). -/
def doVmwrite (i : Issue) (m : Mod) : Mod :=
  let w := i.word
  let s := i.site.val
  let n := fld w 60 16 + 1
  runAccess m 0x06 i false (fun w => fld w 101 15 != 0) (fun _ =>
    match (do
      let c := (siteOf m s).core
      let v ← vsegAddr c (fld w 32 2) (fld w 34 26) n
      let a ← segAddr c (fld w 76 3) (fld w 79 22) (9 * n)
      let (c1, ws) ← readWords i.scratch c a (9 * n)
      pure (v, c1, (chunksOf 9 ws).map wordsLine) : Except (Core × Trap) (Nat × Core × List Line)) with
    | .error (c, t) => .trap (updCore m s (fun _ => c)) t
    | .ok (v, c, ls) => staging m s i.list.val 0 (.done (writeLines (updCore m s (fun _ => c)) s v ls i.mem)))

/-! ### The cache (R258-R269) -/

/-- Table area in lines (R259). -/
def tableArea (pl : Plan) : Nat := 5120 + 48 * pl.maxSequences
/-- The pairs a virtual core holds, in ascending (layer, head) order. -/
def pairsOf (pl : Plan) (v : Nat) (twin : Bool) : List KvPair := pl.pairs.filter (fun p => p.vcore = v && p.twin = twin)
/-- First line of the key run of a pair in the frame slot of page `g` on the core that holds it (R259, R279). -/
def frameLine (pl : Plan) (f : Packed) (v : Nat) (twin : Bool) (layer head g : Nat) : Option Nat :=
  let ps := pairsOf pl v twin
  match ps.findIdx? (fun p => p.layer = layer && p.head = head), pl.vcores[v]? with
  | some j, some vc =>
    let F := 2 * runLen f * ps.length
    some ((if twin then vc.twinBase else vc.poolBase + tableArea pl) + g * F + 2 * runLen f * j)
  | _, _ => none
/-- The page of a logical page of a sequence, if resident. -/
def residentPage (q : Seq) (i : Nat) : Option Nat :=
  match q.leaves[i]? with
  | some (.resident g) => some g
  | _ => none
/-- A masked line: zero elements, scale code 127 (R263). -/
def maskedLine (f : Packed) : Line :=
  BitVec.ofNat 576 (fields ((544, 6, f.code) :: (List.range (if f.perLine = 80 then 3 else f.perLine / f.block)).map (fun j =>
    (f.scaleBase + f.scaleW * j, f.scaleW, 127))))
/-- Zero the element codes of a line from element `k` on (R262). -/
def zeroFrom (f : Packed) (k : Nat) (l : Line) : Line :=
  if f.perLine ≤ k then l else putFld l (f.w * k) (f.w * (f.perLine - k)) 0
/-- Positions of a page whose elements lie in line `j` of its run. -/
def linePositions (f : Packed) (j : Nat) : List Nat :=
  let a := f.perLine * j / 128
  let b := (f.perLine * (j + 1) - 1) / 128
  (List.range (b + 1 - a)).map (fun t => a + t)

/-- Set the element codes and the scale code of block `d` of a run; a split block keeps its scale in both lines (R93). -/
def setBlock (f : Packed) (codes : Nat → Nat) (sc d : Nat) (ls : List Line) : List Line :=
  let d1 := (List.range 32).foldl (fun ls t =>
    let e := 32 * d + t
    lupd ls (e / f.perLine) (fun l => putFld l (f.w * (e % f.perLine)) f.w (codes t))) ls
  let pl := scalePlace f (32 * d)
  let d2 := lupd d1 pl.1 (fun l => putFld l (f.scaleBase + f.scaleW * pl.2) f.scaleW sc)
  if f.perLine = 80 ∧ d % 5 = 2 then lupd d2 (pl.1 + 1) (fun l => putFld l f.scaleBase f.scaleW sc) else d2

/-- Mask positions `ps` of a run of one page (R263): their blocks become zero elements under scale code 127, and a line
that holds nothing else is a masked line. -/
def maskRun (f : Packed) (ps : List Nat) (ls : List Line) : List Line :=
  if ps.isEmpty then ls
  else
    let cut := ps.foldl (fun ls p => (List.range 4).foldl (fun ls b => setBlock f (fun _ => 0) 127 (4 * p + b) ls) ls) ls
    (List.range cut.length).map (fun j =>
      if (linePositions f j).all (fun p => ps.contains p) then maskedLine f else cut.getD j 0)

/-- What a walk reads of the first `k` positions of one run of one page: the lines, and the positions with a line of
another parity (R98). -/
def readRun (m : Mod) (s a k parity : Nat) (f : Packed) (fs : List MemFault) : Mod × List Line × List Nat :=
  let n := linesFor f k
  let r := readLines m s a n fs
  let js := (List.range n).filter (fun j => tagParity (r.2.getD j 0) != parity)
  (r.1, (List.range n).map (fun j => zeroFrom f (128 * k - f.perLine * j) (r.2.getD j 0)),
   (js.flatMap (linePositions f)).filter (fun p => p < k))

/-- The site and first line from which a page's run of a pair is read: the core's own slot, or the twin's while the
slot is not yet copied (R460). -/
def runPlace (x : Part) (pl : Plan) (f : Packed) (s v layer head g : Nat) : Option (Nat × Nat) :=
  if x.twinLeft.contains (s, g) then
    match pl.pairs.find? (fun p => p.twin && p.layer = layer && p.head = head) with
    | some p => (frameLine pl f p.vcore true layer head g).bind (fun a => (pl.sites[p.vcore]?).map (fun t => (t, a)))
    | none => (frameLine pl f v false layer head g).map (fun a => (s, a))
  else (frameLine pl f v false layer head g).map (fun a => (s, a))

/-- Walk state: the module, the runs read (page, lines), the positions without a frame, those of another parity. -/
structure Walk where
  m : Mod
  runs : List (Nat × List Line)
  missing : List Nat
  parity : List Nat

/-- One page of one run (R56, R262, R263). -/
def walkPage (x : Part) (pl : Plan) (f : Packed) (s v layer head off len : Nat) (q : Seq) (fs : List MemFault) (a : Walk)
    (i : Nat) : Walk :=
  let k := min 256 (len - 256 * i)
  match (residentPage q i).bind (fun g => runPlace x pl f s v layer head g) with
  | some (t, b) =>
    let r := readRun a.m t (b + off) k (handleParity q.handle) f fs
    { a with m := r.1, runs := a.runs ++ [(i, r.2.1)], parity := a.parity ++ r.2.2.map (fun p => 256 * i + p) }
  | none => { a with
      runs := a.runs ++ [(i, List.replicate (linesFor f k) (maskedLine f))],
      missing := a.missing ++ (List.range k).map (fun p => 256 * i + p) }

/-- The lines a walk delivers: a masked position is masked in every run the instruction delivers (R98, R263). -/
def walkLines (f : Packed) (a : Walk) : List Line :=
  a.runs.flatMap (fun r =>
    maskRun f (((a.missing ++ a.parity).eraseDups.filter (fun p => p / 256 = r.1)).map (fun p => p % 256)) r.2)

/-- The reports of a walk: each masked page with its own reason (R56, R98). -/
def walkReports (h : BitVec 32) (s : Nat) (a : Walk) : List (BitVec 32 × Nat × Nat × Nat) :=
  ((a.missing ++ a.parity).map (fun p => p / 256)).eraseDups.map (fun i =>
    (h, i, if a.missing.any (fun p => p / 256 = i) then 1 else 2, s))

/-- Distinct numbers of a list. -/
def countDistinct (l : List Nat) : Nat := l.eraseDups.length

/-- The entry of one member (R262, R263, R265); a walk that masked reports the sequence and each page. -/
def memberEntry (m : Mod) (p : Nat) (x : Part) (pl : Plan) (f : Packed) (s v : Nat) (w : InstrWord) (fs : List MemFault)
    (b : Member) : Mod × QEntry :=
  let heads := (List.range (fld w 61 8 + 1)).map (fun j => fld w 53 8 + j)
  let part := fld w 69 2
  match b.valid, x.seqs.find? (fun q => q.handle = b.handle) with
  | true, some q =>
    let pages := List.range (cdiv b.length 256)
    let offs := (if part = 1 then [] else [0]) ++ (if part = 0 then [] else [runLen f])
    let start : Walk := { m := m, runs := [], missing := [], parity := [] }
    let r := heads.foldl (fun a h => offs.foldl (fun a off =>
      pages.foldl (walkPage x pl f s v (wLayer w) h off b.length q fs) a) a) start
    let total := countDistinct (r.missing ++ r.parity)
    let reason := if !r.missing.isEmpty then 1 else if total ≠ 0 then 2 else 0
    let hd := BitVec.ofNat 576 (fields [(0, 32, b.handle.toNat), (32, 32, b.length), (64, 32, b.posOffset),
      (96, 32, b.length + b.posOffset), (128, 32, b.new), (160, 32, total), (192, 32, reason), (544, 6, 0x12)])
    (updPart r.m p (fun y => { y with maskReports := y.maskReports ++ walkReports b.handle s r }),
     { lines := hd :: walkLines f r, source := none, fetched := false, remote := false, place := 0 })
  | _, _ =>
    let hd := BitVec.ofNat 576 (fields [(0, 32, b.handle.toNat), (544, 6, 0x12)])
    (m, { lines := [hd], source := none, fetched := false, remote := false, place := 0 })

/-- An empty member of a batch (R256). -/
def emptyMember : Member :=
  { handle := 0, length := 0, posOffset := 0, new := 0, valid := false, cow := none, version := 0, newPages := [], fed := [],
    masked := false, cmdNo := 0 }

/-- The batch members an instruction names; one beyond the batch is empty (R262). -/
def membersOf (x : Part) (w : InstrWord) : List (Nat × Member) :=
  (List.range (fld w 42 11)).map (fun j => (fld w 32 10 + j, x.batch.getD (fld w 32 10 + j) emptyMember))

/-- Reserved values of the cache instructions. -/
def badMembers (w : InstrWord) : Bool := fld w 42 11 == 0 || 1024 < fld w 42 11 || fld w 69 2 == 3

/-- Push entries while the queue has room; `k` members were pushed before. -/
def pushMembers (m : Mod) (p : Nat) (x : Part) (pl : Plan) (f : Packed) (s v q : Nat) (w : InstrWord) (fs : List MemFault) :
    List (Nat × Member) → Mod
  | [] => m
  | b :: bs =>
    if 64 ≤ ((siteOf m s).core.queues.getD q []).length then m
    else
      let r := memberEntry m p x pl f s v w fs b.2
      pushMembers (updCore (pushEntry r.1 s q r.2) s (fun c => { c with accessPart := lupd c.accessPart q (fun n => n + 1) }))
        p x pl f s v q w fs bs

/-- Lines of a member's entry. -/
def entryLines (f : Packed) (w : InstrWord) (b : Member) : Nat :=
  if b.valid then
    let per := (List.range (cdiv b.length 256)).foldl (fun a i => a + linesFor f (min 256 (b.length - 256 * i))) 0
    1 + (fld w 61 8 + 1) * (if fld w 69 2 = 2 then 2 else 1) * per
  else 1

/-- `KVREAD`: one entry a member (R55, R262); the ring has room for the whole transfer when it begins, and the queue
never holds more than 64 entries (R47, R54). -/
def doKvread (i : Issue) (m : Mod) : Mod :=
  let w := i.word
  let s := i.site.val
  let q := i.list.val
  runAccess m 0x03 i true (fun w => badMembers w || fld w 71 45 != 0) (fun x =>
    match partAtSite m s, x.plan, x.plan.bind (fun pl => packedOf pl.cacheFormat) with
    | some p, some pl, some f =>
      let c := (siteOf m s).core
      let bs := membersOf x w
      let k := c.accessPart.getD q 0
      let go : AccOut :=
        if 64 ≤ (c.queues.getD q []).length then .wait
        else
          let m1 := pushMembers m p x pl f s ((vcoreAt pl s).getD 0) q w i.mem (bs.drop k)
          if bs.length ≤ (siteOf m1 s).core.accessPart.getD q 0 then .done m1 else .more m1
      if k = 0 then staging m s q (bs.foldl (fun a b => a + entryLines f w b.2) 0) go else go
    | _, _, _ => .wait)

/-- The page a member writes logical page `i` to: the copy, a page new in this step, or the resident page (R267-R269). -/
def writePage (q : Seq) (b : Member) (i : Nat) : Option Nat :=
  match b.cow with
  | some (_, dst, _) => if i = b.length / 256 then some dst else
      ((b.newPages.find? (fun n => n.1 = i)).map Prod.snd).orElse (fun _ => residentPage q i)
  | none => ((b.newPages.find? (fun n => n.1 = i)).map Prod.snd).orElse (fun _ => residentPage q i)

/-- The tag of a stored line that takes blocks of a source line (R96): format and level of the source, `ZFLOOD` and `SAT`
of either, `POISON` of what was there, the owner's parity. -/
def mergeTag (src l : Line) (parity : Nat) : Line :=
  putFld l 544 32 (fields [(0, 6, fld src 544 6), (6, 2, fld src 550 2 ||| fld l 550 2), (8, 1, fld l 552 1),
    (9, 3, fld src 553 3), (12, 4, parity)])

/-- Put block `k` of a source run into block `d` of a stored run: element codes and scale, into both lines of a split
block, with their tags (R93, R96). -/
def putBlock (f : Packed) (src : List Line) (k d parity : Nat) (dst : List Line) : List Line :=
  let d1 := setBlock f (fun t => runCode f src (32 * k + t)) (runScale f src (32 * k)) d dst
  let tag (ls : List Line) (k' j : Nat) : List Line := lupd ls j (fun l => mergeTag (src.getD k' 0) l parity)
  let a := 32 * k / f.perLine
  let b := (32 * k + 31) / f.perLine
  ((List.range (b + 1 - a)).map (fun t => a + t)).foldl (fun ls k' =>
    tag (tag ls k' (32 * d / f.perLine)) k' ((32 * d + 31) / f.perLine)) d1

/-- Write `n` positions of a run into a stored run from position `p0` of the page on; a line that also holds earlier
positions keeps them. -/
def putPositions (m : Mod) (s a p0 n parity : Nat) (f : Packed) (src : List Line) (fs : List MemFault) (k0 : Nat) : Mod :=
  if f.perLine = 80 then
    let j0 := p0 * 128 / 80 / 2 * 2
    let j1 := linesFor f (p0 + n)
    let stored : Bool := (siteOf m s).slice.written.contains (rowKey ((a + j0) / 2)) && decide (p0 ≠ 0)
    let old := if stored then readLines m s (a + j0) (j1 - j0) fs else (m, [])
    let base := (List.range (j1 - j0)).map (fun t => if 80 * (j0 + t) < 128 * p0 then old.2.getD t 0 else 0)
    let new := (List.range (4 * n)).foldl (fun ls t =>
      putBlock f src (4 * k0 + t) (4 * p0 + t - j0 / 2 * 5) parity ls) base
    writeLines old.1 s (a + j0) new fs
  else
    let per := 128 / f.perLine
    let ls := ((src.drop (per * k0)).take (per * n)).map (fun l => putFld l 556 4 parity)
    writeLines m s (a + per * p0) ls fs

/-- Copy `n` positions of a stored run to another page's run (R269). -/
def copyRun (m : Mod) (s src dst n : Nat) (f : Packed) (fs : List MemFault) : Mod :=
  let r := readLines m s src (linesFor f n) fs
  writeLines r.1 s dst r.2 fs

/-- Append the new positions of one run of one member, page by page (R55, R269). -/
def appendRun (m : Mod) (pl : Plan) (f : Packed) (s v : Nat) (layer head off : Nat) (q : Seq) (b : Member) (src : List Line)
    (fs : List MemFault) : Mod :=
  let par := handleParity q.handle
  let twin := (pairsOf pl v false).all (fun p => !(p.layer = layer && p.head = head))
  let place (g : Nat) : Option Nat := (frameLine pl f v twin layer head g).map (fun a => a + off)
  let m1 := match b.cow with
    | some (g, d, n) => match place g, place d with
      | some a, some c => copyRun m s a c n f fs
      | _, _ => m
    | none => m
  let pages := (List.range (cdiv (b.length % 256 + b.new) 256)).map (fun t => b.length / 256 + t)
  pages.foldl (fun m i =>
    let lo := max b.length (256 * i)
    let hi := min (b.length + b.new) (256 * i + 256)
    match (writePage q b i).bind place with
    | some a => putPositions m s a (lo - 256 * i) (hi - lo) par f src fs (lo - b.length)
    | none => m) m1

/-- Words a member's new lines take in scratch: heads, parts, runs of `NEW` positions. -/
def appendLines (f : Packed) (w : InstrWord) (b : Member) : Nat :=
  if b.valid then (fld w 61 8 + 1) * (if fld w 69 2 = 2 then 2 else 1) * linesFor f b.new else 0

/-- Lines a `KVAPPEND` takes from scratch. -/
def appendTotal (f : Packed) (x : Part) (w : InstrWord) : Nat := (membersOf x w).foldl (fun a b => a + appendLines f w b.2) 0

/-- Append the new positions of one member; `ls` are the lines not yet taken. -/
def appendMember (x : Part) (pl : Plan) (f : Packed) (s v : Nat) (w : InstrWord) (fs : List MemFault) (a : Mod × List Line)
    (b : Nat × Member) : Mod × List Line :=
  match b.2.valid, x.seqs.find? (fun q => q.handle = b.2.handle) with
  | true, some q =>
    let n := linesFor f b.2.new
    let offs := (if fld w 69 2 = 1 then [] else [0]) ++ (if fld w 69 2 = 0 then [] else [runLen f])
    (List.range (fld w 61 8 + 1)).foldl (fun (a : Mod × List Line) h => offs.foldl (fun (a : Mod × List Line) off =>
      (appendRun a.1 pl f s v (wLayer w) (fld w 53 8 + h) off q b.2 (a.2.take n) fs, a.2.drop n)) a) a
  | true, none => (a.1, a.2.drop (appendLines f w b.2))
  | false, _ => a

/-- Append the new positions of every member an instruction names. -/
def appendAll (x : Part) (pl : Plan) (f : Packed) (s v : Nat) (w : InstrWord) (fs : List MemFault) (m : Mod) (ls : List Line) :
    Mod :=
  ((membersOf x w).foldl (appendMember x pl f s v w fs) (m, ls)).1

/-- `KVAPPEND`: the lines lie in scratch member by member, head by head, keys then values, each a run of the member's
`NEW` positions (DESIGN CHOICE, log entry 21). -/
def doKvappend (i : Issue) (m : Mod) : Mod :=
  let w := i.word
  let s := i.site.val
  runAccess m 0x04 i true (fun w => badMembers w || fld w 96 20 != 0) (fun x =>
    match x.plan, x.plan.bind (fun pl => packedOf pl.cacheFormat) with
    | some pl, some f =>
      let total := appendTotal f x w
      match (do
        let c := (siteOf m s).core
        let a ← segAddr c (fld w 71 3) (fld w 74 22) (9 * total)
        readScrLines i.scratch c f.code a total : Except (Core × Trap) (Core × List Line)) with
      | .error (c, t) => .trap (updCore m s (fun _ => c)) t
      | .ok (c, ls) =>
        staging m s i.list.val 0 (.done (appendAll x pl f s ((vcoreAt pl s).getD 0) w i.mem (updCore m s (fun _ => c)) ls))
    | _, _ => .wait)

/-! ### Adapter blocks (R57, R334, R335) -/

/-- Order of the delta queue: row block, column block, member. -/
def blkLe (a b : DeltaBlk) : Bool :=
  a.rblk < b.rblk || (a.rblk == b.rblk && (a.cblk < b.cblk || (a.cblk == b.cblk && a.member ≤ b.member)))
/-- Insert a block, with its lines' addresses, in order. -/
def insertBlk (b : DeltaBlk × List Nat) : List (DeltaBlk × List Nat) → List (DeltaBlk × List Nat)
  | [] => [b]
  | c :: cs => if blkLe c.1 b.1 then c :: insertBlk b cs else b :: c :: cs

/-- Where the lines of block `j` of an adapter image lie on virtual core `v` (R333): after the version's header, four a
block. -/
def blockLines (a : Adapter) (v j : Nat) : List Nat :=
  match a.places.find? (fun p => p.vcore = v) with
  | some p => match p.blocks.findIdx? (fun k => k = j) with
    | some i => (p.lines.drop (1 + 4 * i)).take 4
    | none => []
  | none => []

/-- The blocks a `DELTA` on virtual core `v` merges, in order, the last tagged, each with the addresses of its lines. Row
and column blocks count from the instruction's first, members from its first member (DEDUCED, log entry 22); no block at
all is a bare end mark. -/
def mergedBlocks (x : Part) (v : Nat) (w : InstrWord) : List (DeltaBlk × List Nat) :=
  let r0 := fld w 61 16
  let c0 := fld w 81 16
  let all := (membersOf x w).flatMap (fun kb =>
    match kb.2.valid, x.seqs.find? (fun q => q.handle = kb.2.handle) with
    | true, some q => match q.adapter.bind (fun a => x.adapters.find? (fun d => d.id = a && d.version = kb.2.version && !d.loading)) with
      | some d => ((d.blocks.zipIdx).filter (fun b => b.1.matrix = fld w 53 8 && r0 ≤ b.1.rblk && b.1.rblk ≤ r0 + fld w 77 4
          && c0 ≤ b.1.cblk && b.1.cblk ≤ c0 + fld w 97 16)).map (fun b =>
            ({ b.1 with rblk := b.1.rblk - r0, cblk := b.1.cblk - c0, member := kb.1 - fld w 32 10, lines := [], last := false },
             blockLines d v b.2))
      | none => []
    | _, _ => [])
  let sorted := all.foldl (fun l b => insertBlk b l) []
  match sorted.length with
  | 0 => [({ matrix := fld w 53 8, rblk := 0, cblk := 0, member := 0, lines := [], last := true }, [])]
  | n => lupd sorted (n - 1) (fun b => ({ b.1 with last := true }, b.2))

/-- Read the blocks of a `DELTA` from vertical memory, one after another (R57, R58). -/
def fetchBlocks (m : Mod) (s : Nat) (fs : List MemFault) (bs : List (DeltaBlk × List Nat)) : Mod × List DeltaBlk :=
  bs.foldl (fun (a : Mod × List DeltaBlk) b =>
    let r := b.2.foldl (fun (c : Mod × List Line) l =>
      let d := readLines c.1 s l 1 fs
      (d.1, c.2 ++ d.2)) (a.1, [])
    (r.1, a.2 ++ [{ b.1 with lines := r.2 }])) (m, [])

/-- The blocks a `DELTA` issued at site `s` merges. -/
def deltaBlocks (x : Part) (s : Nat) (w : InstrWord) : List (DeltaBlk × List Nat) :=
  mergedBlocks x ((x.plan.bind (fun pl => vcoreAt pl s)).getD 0) w

/-- `DELTA`: blocks enter the queue while it holds fewer than 4,096; the rest waits for space. -/
def doDelta (i : Issue) (m : Mod) : Mod :=
  let w := i.word
  let s := i.site.val
  let q := i.list.val
  runAccess m 0x05 i true (fun w => fld w 42 11 == 0 || 1024 < fld w 42 11 || fld w 113 3 != 0) (fun x =>
    let c := (siteOf m s).core
    let k := c.accessPart.getD q 0
    let bs := (deltaBlocks x s w).drop k
    let now := bs.take (4096 - c.deltaQ.length)
    if now.isEmpty ∧ ¬ bs.isEmpty then .wait
    else
      let r := fetchBlocks m s i.mem now
      let m1 := updCore r.1 s (fun d => { d with
        deltaQ := d.deltaQ ++ r.2, accessPart := lupd d.accessPart q (fun n => n + now.length) })
      staging m s q 0 (if now.length = bs.length then .done m1 else .more m1))

/-- `WSTREAM`. -/
def execWstream (i : Issue) (s : State) : Host.Outcome State Fault Refusal := lift (doWstream i) s
/-- `WFETCH`. -/
def execWfetch (i : Issue) (s : State) : Host.Outcome State Fault Refusal := lift (doWfetch i) s
/-- `KVREAD`. -/
def execKvread (i : Issue) (s : State) : Host.Outcome State Fault Refusal := lift (doKvread i) s
/-- `KVAPPEND`. -/
def execKvappend (i : Issue) (s : State) : Host.Outcome State Fault Refusal := lift (doKvappend i) s
/-- `DELTA`. -/
def execDelta (i : Issue) (s : State) : Host.Outcome State Fault Refusal := lift (doDelta i) s
/-- `VMWRITE`. -/
def execVmwrite (i : Issue) (s : State) : Host.Outcome State Fault Refusal := lift (doVmwrite i) s

end Sys2Proof.Machine
end

