-- ==== Sys2Proof/Machine/Matrix.lean ====
section
/-! DEFINITION. The matrix engine and the delta lane (02_core.md R59-R66, 03_narrow_arithmetic.md R109-R118). -/
namespace Sys2Proof.Machine
open Sys2Proof

/-- Reserved values in an `MMUL` (R60). -/
def badMmul (w : InstrWord) : Bool :=
  !wSqEn w || (packedOf (fld w 32 6)).isNone
    || !((1 ≤ fld w 38 6 && fld w 38 6 ≤ 6) || fld w 38 6 == 0x3F)
    || fld w 44 2 == 3 || 5 < fld w 46 3 || fld w 56 8 != 0 || fld w 96 16 == 0 || fld w 113 3 != 0

/-- Mode default P (R389). -/
def modeP : Mode → Nat
  | .latency => 4
  | .throughput => 8
  | .efficiency => 8
  | .fidelity => 1

/-- The promotion interval in force (R61, R116, R133). -/
def promoteP (x : Part) (level pint : Nat) : Nat :=
  if x.mode = .fidelity then 1
  else
    let p := if pint = 5 then modeP x.mode else 2 ^ pint
    match level with
    | 0 => p
    | 1 => max 1 (p / 2)
    | _ => 1

/-- The sampled tile of a column is captured by the `CHK` instruction of its ordinal (R70). -/
def captureTile (x : Part) (w : InstrWord) (col addr : Nat) (e : QEntry) (res : List B32) (c : Core) : Core :=
  if bit w 49 ∧ ¬ e.fetched then
    { c with reserve := c.reserve.map (fun r =>
        if r.address = addr ∧ r.results.isEmpty then
          if r.seen = r.ordinal then
            { r with results := res, source := e.source.getD 0, word := w, member := col, handle := ((x.batch[col]?).map (fun b => b.handle)).getD 0xFFFFFFFF,
                     interval := promoteP x (coreLevel c (wLayer w)) (fld w 46 3) }
          else { r with seen := r.seen + 1 }
        else r) }
  else c

/-- The weight rows of an `MMUL` from its queue entry: lines of each lane. -/
def weightRow (f : Packed) (kblk : Nat) (e : QEntry) (l : Nat) : List Line :=
  (e.lines.drop (l * runLines f kblk)).take (runLines f kblk)

/-- The weight operand is read from the staging ring of queue `q`: a poisoned line raises its fault, a wrong tag
`TAG_FORMAT` (R41, R58, R97). For an entry with fewer lines than the instruction needs the spec names no fault: the
missing line counts as one of another format (R60, R77; DESIGN CHOICE, log entry 88). -/
def checkWeights (sf : List ScratchFault) (c : Core) (q fmt need : Nat) (e : QEntry) : Except (Core × Trap) Core := do
  let c1 ← readStaged sf c q e (List.range (min need e.lines.length))
  match (List.range need).find? (fun j => !((e.lines[j]?).any (fun l => fmtMatch (tagFmt l) fmt))) with
  | some j => .error (c1, ⟨0x05, fmt, stageWord c q e j⟩)
  | none => pure c1

/-- Write the results of one column, lane by lane; a refused addition raises `ACC_INVALID`. -/
def putLanes (c : Core) (base : Nat) : List (Nat × Option B32) → Except (Core × Trap) Core
  | [] => .ok c
  | (l, some v) :: rest => putLanes { c with acc := mset c.acc (base + l) v } base rest
  | (l, none) :: _ => .error (c, ⟨0x06, base + l, 0⟩)

/-- One column on the matrix engine (R61, R109-R116). -/
def mmulColumn (sf : List ScratchFault) (x : Part) (w : InstrWord) (e : QEntry) (fw fa : Packed) (a0 : Nat) (c : Core)
    (col : Nat) : Except (Core × Trap) Core := do
  let kblk := fld w 96 16
  let rows := if bit w 112 then 128 else 256
  let n := runLines fa kblk
  let a := a0 + 9 * col * n
  let (c1, as_) ← readScrLines sf c fa.code a n
  let base := fld w 56 15 + 256 * col
  let P := promoteP x (coreLevel c (wLayer w)) (fld w 46 3)
  let res := (List.range rows).map (fun l =>
    laneResult fw fa (4 * 2 ^ fld w 44 2) kblk P (wAcc w) (weightRow fw kblk e l) as_ (mget? c1.acc (base + l)))
  let c2 ← putLanes c1 base ((List.range rows).zip (res.map (fun r => if r.invalid then none else r.entry)))
  pure (captureTile x w col a e (res.map (fun r => r.entry.getD 0)) c2)

/-- One column at layer-format level 3, on the check lane (R73, R118): bfloat16 activations, 8·`KBLK` words a column. -/
def mmulWide (sf : List ScratchFault) (w : InstrWord) (e : QEntry) (fw : Packed) (a0 : Nat) (c : Core) (col : Nat) :
    Except (Core × Trap) Core := do
  let kblk := fld w 96 16
  let rows := if bit w 112 then 128 else 256
  let (c1, ws) ← readWords sf c (a0 + 8 * kblk * col) (8 * kblk)
  let xs := (unpackB16 (32 * kblk) ws).map b16Val
  let base := fld w 56 15 + 256 * col
  accPuts (wAcc w) c1 base ((List.range rows).map (fun l => checkDot fw (weightRow fw kblk e l) xs))

/-- Do `f` on every number of a list in turn, stopping at the first fault. -/
def eachM (f : Core → Nat → Except (Core × Trap) Core) : List Nat → Core → Except (Core × Trap) Core
  | [], c => .ok c
  | k :: ks, c => do
    let c1 ← f c k
    eachM f ks c1

/-- `MMUL` on the core (R60-R62): every `MMUL` of a layer at level 3 runs on the check lane, on bfloat16 activations (R73). -/
def mmulCore (i : Issue) (x : Part) (c : Core) : Except (Core × Trap) Core := do
  let w := i.word
  let cols := fld w 50 6 + 1
  let rows := if bit w 112 then 128 else 256
  accRange c (fld w 56 15 + 256 * (cols - 1)) rows
  match packedOf (fld w 32 6), (c.queues.getD (wSq w) []).head? with
  | some fw, some e =>
    let fmt := if coreLevel c (wLayer w) = 3 then 0x10 else resolveFmt x c (wLayer w) (fld w 38 6)
    let a ← segAddr c (fld w 71 3) (fld w 74 22) (cols * operandWords fmt (32 * fld w 96 16))
    let c1 ← checkWeights i.scratch c (wSq w) fw.code (rows * runLines fw (fld w 96 16)) e
    match packedOf fmt with
    | some fa => eachM (mmulColumn i.scratch x w e fw fa a) (List.range cols) c1
    | none => eachM (mmulWide i.scratch w e fw a) (List.range cols) c1
  | _, _ => pure c

/-- `MMUL`. -/
def doMmul (i : Issue) (m : Mod) : Mod := runCompute m 1 1 i false badMmul (mmulCore i)

/-! ### The delta lane (R65, R66, R117) -/

/-- Reserved values in a `DAPPLY`. Bits that R65 does not list are not called reserved there, and are ignored (DESIGN CHOICE,
log entry 89). -/
def badDapply (w : InstrWord) : Bool :=
  !((1 ≤ fld w 38 6 && fld w 38 6 ≤ 6) || fld w 38 6 == 0x3F) || fld w 56 8 != 0 || fld w 96 16 == 0

/-- Activation element `k` of a column in the resolved format, as an exact value. -/
def actValue (fmt : Nat) (ls : List Line) (ws : List Word) (k : Nat) : Fl :=
  match packedOf fmt with
  | some f => scaled f (elemOf f (runCode f ls k)) (scaleExp f (runScale f ls k))
  | none => b16Val ((unpackB16 (k + 1) ws).getD k 0)

/-- Element (r, j) of a delta block with its scale (R331). -/
def deltaValue (ls : List Line) (r j : Nat) : Fl :=
  match packedOf 0x04 with
  | some f =>
    let l := ls.getD (r / 4) 0
    scaled f (elemOf f (fld l (8 * (16 * (r % 4) + j)) 8)) (scaleExp f (fld l (512 + 8 * (r % 4 / 2)) 8))
  | none => .nan

/-- Apply one block (R66, R117): 16 rows, one rounding each. -/
def applyBlock (i : Issue) (x : Part) (a0 : Nat) (c : Core) (b : DeltaBlk) : Except (Core × Trap) Core := do
  let w := i.word
  let cols := fld w 50 6 + 1
  if b.lines.isEmpty then pure c
  else if cols ≤ b.member then pure { c with deltaDiscard := sat32 (c.deltaDiscard + 1) }
  else
    if b.lines.any tagPoison then Except.error (c, ⟨0x11, 0, 0⟩)
    let fmt := resolveFmt x c (wLayer w) (fld w 38 6)
    let kblk := fld w 96 16
    let n := operandWords fmt (32 * kblk)
    let a := a0 + n * b.member
    let (c1, ws) ← readWords i.scratch c a n
    let ls := if fmt = 0x10 then [] else (chunksOf 9 ws).map wordsLine
    checkTags c1 fmt a ls
    let base := fld w 56 15 + 256 * b.member + 16 * b.rblk
    accRange c1 base 16
    let rows := (List.range 16).map (fun r =>
      (List.range 16).foldl (fun (s : Fl) j =>
        flAdd s (flMul (deltaValue b.lines r j) (actValue fmt ls ws (16 * b.cblk + j)))) (.fin false 0 0))
    let add (c : Core) (r : Nat) : Except (Core × Trap) Core :=
      match mget? c.acc (base + r) with
      | some o => .ok { c with acc := mset c.acc (base + r) (toB32 (flAdd (b32Val o) (rows.getD r .nan))) }
      | none => .error (c, ⟨0x06, base + r, 0⟩)
    eachM add (List.range 16) c1

/-- Apply the blocks at the head of the queue up to and including the last of the matrix; without a last block the
instruction goes on waiting (R66). -/
def applyBlocks (i : Issue) (x : Part) (a : Nat) : List DeltaBlk → Core → Except (Core × Trap) Core
  | [], c => .ok { c with dapplyOn := true }
  | b :: bs, c => do
    let c1 ← applyBlock i x a { c with deltaQ := c.deltaQ.tail } b
    if b.last then pure { c1 with dapplyOn := false } else applyBlocks i x a bs c1

/-- `DAPPLY` on the core: its activations lie in their segment, then the blocks apply. -/
def dapplyCore (i : Issue) (x : Part) (c : Core) : Except (Core × Trap) Core := do
  let w := i.word
  let fmt := resolveFmt x c (wLayer w) (fld w 38 6)
  let a ← segAddr c (fld w 71 3) (fld w 74 22) ((fld w 50 6 + 1) * operandWords fmt (32 * fld w 96 16))
  applyBlocks i x a c.deltaQ c

/-- `DAPPLY` takes the blocks as they arrive: issued once, it goes on at each further command until the last block of the
matrix has been applied (R66, log entry 22). -/
def doDapply (i : Issue) (m : Mod) : Mod := runCompute m 2 1 i false badDapply (dapplyCore i)

/-- `MMUL`. -/
def execMmul (i : Issue) (s : State) : Host.Outcome State Fault Refusal := lift (doMmul i) s
/-- `DAPPLY`. -/
def execDapply (i : Issue) (s : State) : Host.Outcome State Fault Refusal := lift (doDapply i) s

end Sys2Proof.Machine
end

