-- ==== Sys2Proof/Machine/Digest.lean ====
section
/-! DEFINITION. CRC-32C (the CRC of R227, R244, R275, R280, R355) and SHA-512 (FIPS 180-4, R221). -/
namespace Sys2Proof.Machine
open Sys2Proof

/-! ### CRC-32C -/

/-- One bit of the reflected Castagnoli polynomial. -/
def crcBit (c : Nat) : Nat := if c % 2 = 1 then (c / 2) ^^^ 0x82F63B78 else c / 2

/-- One byte into the register. -/
def crcByte (c : Nat) (b : Byte) : Nat :=
  (List.range 8).foldl (fun a _ => crcBit a) (c ^^^ b.toNat)

/-- CRC-32C of a byte string: register all ones at the start, inverted at the end. -/
def crc32c (bs : List Byte) : BitVec 32 := BitVec.ofNat 32 ((bs.foldl crcByte 0xFFFFFFFF) ^^^ 0xFFFFFFFF)

/-! ### SHA-512

FIPS 180-4 defines its constants: the first 64 bits of the fractional parts of the square roots (starting value) and the cube roots
(one a round) of the first primes. They are computed here from that definition. -/

/-- The largest number below 2^`k` above `r` whose `n`-th power does not exceed `x`, bit by bit. -/
def rootBits (n x : Nat) : Nat → Nat → Nat
  | 0, r => r
  | k + 1, r => rootBits n x k (if (r + 2 ^ k) ^ n ≤ x then r + 2 ^ k else r)

/-- The first 64 bits of the fractional part of the `n`-th root of `p` (a whole part below 8). -/
def fracRoot (n p : Nat) : Nat := rootBits n (p * 2 ^ (64 * n)) 67 0 % 2 ^ 64

/-- The primes below 410, of which there are 80. -/
def shaPrimes : List Nat :=
  (List.range 410).filter (fun p => 2 ≤ p && [2, 3, 5, 7, 11, 13, 17, 19].all (fun d => p == d || p % d != 0))

/-- Constant of each round. -/
def shaK : List Nat := shaPrimes.map (fracRoot 3)
/-- Starting hash value. -/
def shaH : List Nat := (shaPrimes.take 8).map (fracRoot 2)

/-- 64-bit sum. -/
def sum64 (xs : List Nat) : Nat := xs.foldl (fun a b => a + b) 0 % 2 ^ 64
/-- A word rotated right by each of `ns`, the results XORed. -/
def xorRot (x : Nat) (ns : List Nat) : Nat := ns.foldl (fun a n => a ^^^ ((x / 2 ^ n + x * 2 ^ (64 - n)) % 2 ^ 64)) 0

/-- Message schedule word from the previous sixteen (newest last). -/
def shaNextW (w : List Nat) : Nat :=
  let old := w.getD 1 0
  let new := w.getD 14 0
  sum64 [w.getD 0 0, w.getD 9 0, xorRot old [1, 8] ^^^ (old / 2 ^ 7), xorRot new [19, 61] ^^^ (new / 2 ^ 6)]

/-- The working variables as a list, the first one `a`: a round shifts them down and makes two new ones. -/
def shaRound (v : List Nat) (k w : Nat) : List Nat :=
  let at_ (i : Nat) : Nat := v.getD i 0
  let choose := (at_ 4 &&& at_ 5) ^^^ (at_ 6 &&& (at_ 4 ^^^ (2 ^ 64 - 1)))
  let most := (at_ 0 &&& (at_ 1 ||| at_ 2)) ||| (at_ 1 &&& at_ 2)
  let t := sum64 [at_ 7, xorRot (at_ 4) [14, 18, 41], choose, k, w]
  sum64 [t, xorRot (at_ 0) [28, 34, 39], most] :: v.take 3 ++ sum64 [at_ 3, t] :: (v.drop 4).take 3

/-- The rounds of one block: the schedule window slides by one word a round. -/
def shaRounds : List Nat → List Nat → List Nat → List Nat
  | [], _, v => v
  | k :: ks, w, v => shaRounds ks (w.drop 1 ++ [shaNextW w]) (shaRound v k (w.getD 0 0))

/-- Big-endian value of bytes. -/
def beNat (bs : List Byte) : Nat := bs.foldl (fun a b => 256 * a + b.toNat) 0

/-- One 128-byte block into the hash value. -/
def shaBlock (h : List Nat) (blk : List Byte) : List Nat :=
  (h.zip (shaRounds shaK ((chunksOf 8 blk).map beNat) h)).map (fun p => sum64 [p.1, p.2])

/-- The padded message. -/
def shaPad (bs : List Byte) : List Byte :=
  let n := bs.length
  let z := (128 - (n + 17) % 128) % 128
  bs ++ [0x80#8] ++ List.replicate z 0#8 ++ (leBytes 16 (8 * n)).reverse

/-- SHA-512 of a byte string, as the digest's bytes in order, byte 0 lowest. -/
def sha512 (bs : List Byte) : BitVec 512 :=
  let h := (chunksOf 128 (shaPad bs)).foldl shaBlock shaH
  BitVec.ofNat 512 (leNat (h.flatMap (fun x => (leBytes 8 x).reverse)))

/-- The bytes of a digest, byte 0 first. -/
def digestBytes (d : BitVec 512) : List Byte := leBytes 64 d.toNat

end Sys2Proof.Machine
end

