-- ==== Sys2Proof/Machine/Gateway.lean ====
section
/-! DEFINITION. Olix flits and messages, requests to partners, window service at the rim
(11_olix_links_and_partners.md R355-R372). -/
namespace Sys2Proof.Machine
open Sys2Proof

/-! ### Messages (R359) -/

/-- `OP`. -/
def gOp (h : Header) : Nat := fld h 0 4
/-- `SRC_NODE`. -/
def gSrc (h : Header) : Nat := fld h 4 8
/-- `DST_NODE`. -/
def gDst (h : Header) : Nat := fld h 12 8
/-- `TAG`. -/
def gTag (h : Header) : Nat := fld h 20 16
/-- `ADDR`. -/
def gAddr (h : Header) : Nat := fld h 36 56
/-- `LINES`, as a count. -/
def gLines (h : Header) : Nat := fld h 92 3 + 1
/-- `STATUS`. -/
def gStatus (h : Header) : Nat := fld h 96 4
/-- A message header. -/
def mkMessage (op src dst tag addr lines status : Nat) : Header :=
  BitVec.ofNat 144 (fields [(0, 4, op), (4, 8, src), (12, 8, dst), (20, 16, tag), (36, 56, addr), (92, 3, lines - 1), (96, 4, status)])
/-- The units of a line, in the order of R99. -/
def lineUnits (l : Line) : List (BitVec 144) := (List.range 4).map (fun k => BitVec.ofNat 144 (fld l (144 * k) 144))
/-- A line from four units. -/
def unitsLine (us : List (BitVec 144)) : Line := BitVec.ofNat 576 (us.foldr (fun u a => u.toNat + 2 ^ 144 * a) 0)
/-- The units of a message. -/
def messageUnits (x : Message) : List (BitVec 144) := x.header :: x.lines.flatMap lineUnits

/-! ### Flits (R355, R357, R358) -/

/-- Bits of a flit without its `CRC`. -/
def flitBody (us : List (BitVec 144)) (head : Bool) (cls seq ack : Nat) (nak : Bool) (freed : List Nat) : Nat :=
  us.foldr (fun u a => u.toNat + 2 ^ 144 * a) 0
    + fields [(1152, 8, 2 ^ us.length - 1), (1160, 8, b2n (head && !us.isEmpty)), (1168, 2, cls), (1170, 12, seq), (1182, 12, ack),
        (1194, 1, 1), (1195, 1, b2n nak), (1196, 8, freed.getD 0 0), (1204, 8, freed.getD 1 0), (1212, 8, freed.getD 2 0)]
/-- A flit with its `CRC`. -/
def mkFlit (body : Nat) : BitVec 1280 :=
  BitVec.ofNat 1280 (body + (crc32c (leBytes 156 body)).toNat * 2 ^ 1248)
/-- The `CRC` of a flit holds. -/
def flitOk (f : BitVec 1280) : Bool := crc32c (leBytes 156 (fld f 0 1248)) == BitVec.ofNat 32 (fld f 1248 32)

/-- Send one flit on a link: its sequence number, the acknowledgement and the credits freed ride along (R355, R358). -/
def sendFlit (x : Link) (cls : Nat) (us : List (BitVec 144)) (head : Bool) : Link :=
  let f := mkFlit (flitBody us head cls x.txSeq ((x.rxNext + 4095) % 4096) x.nakDue (x.freed.map (fun n => min n 255)))
  { x with
    txSeq := (x.txSeq + 1) % 4096, replay := x.replay ++ [(x.txSeq, f)], tx := x.tx + 1, unackedRx := 0, nakDue := false,
    freed := x.freed.map (fun n => n - min n 255),
    credits := if cls < 3 then lupd x.credits cls (fun n => n - 1) else x.credits }

/-- Send the units of a message, eight a flit. -/
def sendUnits (x : Link) (cls : Nat) (us : List (BitVec 144)) : Link :=
  let cs := chunksOf 8 us
  (List.range cs.length).foldl (fun y j => sendFlit y cls (cs.getD j []) (j == 0)) x

/-- The link can take a message now: UP, credits and replay room for all its flits (R357, R358). -/
def linkTakes (x : Link) (cls units : Nat) : Bool :=
  decide (x.state = .up) && (cls == 3 || cdiv units 8 ≤ x.credits.getD cls 0) && x.replay.length + cdiv units 8 ≤ 1024

/-- Keep a message until its last flit is acknowledged (R358). -/
def noteSent (x : Message) (k : Link) : Link :=
  if x.cls = 3 then k else { k with sent := k.sent ++ [((k.txSeq + 4095) % 4096, x)] }

/-- Send waiting messages in order while their links take them; the rest waits. -/
def pump : List Message → Mod → Mod
  | [], m => m
  | x :: xs, m =>
    let us := messageUnits x
    if linkTakes (linkAt m x.group x.link) x.cls us.length then
      pump xs (updLink m x.group x.link (fun k => noteSent x (sendUnits k x.cls us)))
    else pump xs { m with outMsgs := m.outMsgs ++ [x] }

/-- Send what waits. -/
def pumpAll (m : Mod) : Mod := pump m.outMsgs { m with outMsgs := [] }

/-- Hand a message to its link. -/
def sendMessage (m : Mod) (x : Message) : Mod := pump (m.outMsgs ++ [x]) { m with outMsgs := [] }

/-! ### Partners and requests (R364, R366, R369, R372) -/

/-- The partner that holds a node id. -/
def partnerOf (m : Mod) (node : Nat) : Option Partner := m.partners.find? (fun p => p.node = node && p.state = .present)
/-- The links of a group that reach a node: those that are UP, or else those that retrain (R358, R369). -/
def linksTo (m : Mod) (g node : Nat) : List Nat :=
  match partnerOf m node with
  | none => []
  | some p =>
    let ks := (List.range 4).filter (fun k => bit p.links (4 * g + k))
    let up := ks.filter (fun k => (linkAt m g k).state = .up)
    if up.isEmpty then ks.filter (fun k => (linkAt m g k).state = .retrain) else up
/-- A link of a group that reaches a node. -/
def linkTo (m : Mod) (g node : Nat) : Option Nat := (linksTo m g node).head?
/-- The group of a partition over which a node is reached. -/
def groupTo (m : Mod) (x : Part) (node : Nat) : Nat :=
  ((bitsOf (configGroups x.config)).find? (fun g => (linkTo m g node).isSome)).getD ((bitsOf (configGroups x.config)).headD 0)

/-- Payload of an Olix event (R379). -/
def olixPayload (m : Mod) (g k idx node cause lane p moduleId : Nat) : BitVec 192 :=
  payload [(0, 4, g), (4, 2, k), (8, 8, idx), (16, 8, node), (24, 8, cause), (32, 4, lane), (40, 4, p), (64, 64, moduleId), timeField m]

/-- Payload of an Olix event that concerns a partner, or none. -/
def linkPayload (m : Mod) (g k cause lane p : Nat) (q : Option Partner) : BitVec 192 :=
  olixPayload m g k ((q.map (fun q => q.index)).getD 0xFF) ((q.map (fun q => q.node)).getD 0) cause lane p
    ((q.map (fun q => q.moduleId)).getD 0)

/-- The partner that a link reaches. -/
def linkPartner (m : Mod) (l : Link) : Option Partner := l.partner.bind (fun i => m.partners.find? (fun q => q.index = i))

/-- The message of a request. -/
def requestMessage (m : Mod) (r : Request) : Message :=
  { group := r.group, link := r.link, cls := r.cls,
    header := mkMessage (if r.write then 3 else 1) m.nodeId r.node r.tag r.addr r.lines 0, lines := r.data }

/-- Hold frame 0 with cause PARTNER (R372). -/
def holdForPartner (m : Mod) (p g node : Nat) : Mod :=
  match partOf? m p with
  | some x =>
    if x.holdPartner then m
    else
      let m1 := settleHold (updPart m p (fun y => { y with holdPartner := true })) p
      post m1 0x0707 (some p) (olixPayload m1 g 0 0xFF node 1 0 p 0)
  | none => m

/-- Keep a request until its partner is back (R372); only plan traffic holds the partition. -/
def keepRequest (m : Mod) (r : Request) : Mod :=
  let m1 := { m with requests := m.requests ++ [{ r with kept := true }] }
  if r.cls = 0 then holdForPartner m1 r.part r.group r.node else m1

/-- Issue a request over one of the links that reach its node, in turn, or keep it where there is none (R369, R372). -/
def issueRequest (m : Mod) (r : Request) : Mod :=
  let ks := linksTo m r.group r.node
  match ks[r.tag % ks.length]?, partnerOf m r.node with
  | some k, some q =>
    let r' := { r with link := k, moduleId := q.moduleId, kept := false }
    sendMessage { m with requests := m.requests ++ [r'] } (requestMessage m r')
  | _, _ => keepRequest m r

/-- Cut an access into messages of at most 8 lines (R369); `mid` is the module it was meant for, 0 where any. -/
def remoteAccess (m : Mod) (g node mid : Nat) (write : Bool) (cls addr lines : Nat) (data : List Line) (p : Nat)
    (site : Option Nat) (rtag doff : Nat) : Mod :=
  (List.range (cdiv lines 8)).foldl (fun m j =>
    let n := min 8 (lines - 8 * j)
    issueRequest { m with nextTag := (m.nextTag + 1) % 65536 }
      { tag := m.nextTag, group := g, link := 0, node := node, moduleId := mid, write := write, cls := cls, addr := addr + 576 * j,
        lines := n, data := (data.drop (8 * j)).take n, part := p, site := site, rtag := rtag, doff := doff + 8 * j, kept := false }) m

/-! ### Window service at the rim (R191, R235, R369, R370) -/

/-- A gateway fault: reported to Ringmaster, naming the requesting site; entered in the ledger, never against a site
(R370, R474). `q` is the partner concerned, with the link its answer came over. -/
def gatewayFault (m : Mod) (p src code : Nat) (g : Option Nat) (k : Nat) (q : Option Partner) : Mod :=
  let m1 := report m p { site := src, code := code, cls := .plan, partner := true }
  match g with
  | some g => postLedger m1 0x0708 none 1 0 (linkPayload m1 g k code 0 p q)
  | none => m1

/-- Inject `GRSP` packets at a rim router (R178, R361), numbered by the rim element there (R179). -/
def injectGrsp (m : Mod) (s p route rtag doff : Nat) (ls : List Line) : Mod :=
  let cs := chunksOf 8 ls
  forAll m (List.range cs.length) (fun m j =>
    let c := cs.getD j []
    addFlight (updRouter m s (fun r => { r with rimSeq := (r.rimSeq + 1) % 4096 })) s ((outwardPort s).getD 0) 0
      { header := mkHeader route (epochOf m s) 2 p s rtag (doff + 8 * j) c.length (siteOf m s).router.rimSeq 0, lines := c })

/-- The group's injection router (R361). -/
def injectSite (m : Mod) (g : Nat) : Nat := (groupSites g).getD (groupOf m g).inject 0

/-- Serve a `GREQ` or `GWR` that left the mesh at a rim router (R191, R369). -/
def serveRim (m : Mod) (s : Nat) (pkt : Packet) : Mod :=
  let h := pkt.header
  let p := hPart h
  let write := hKind h == 3
  let n := if write then pkt.lines.length else hLines h
  match partOf? m p with
  | none => m
  | some x =>
    match windowOf x (hGwin h) with
    | none => gatewayFault m p (hSrc h) 0x28 (groupAt s) 0 none
    | some w =>
      if w.lines < hOffset h + n ∨ ¬ w.access.testBit (b2n write) then gatewayFault m p (hSrc h) 0x28 (groupAt s) 0 none
      else if w.kind = 1 then
        let a := w.base % 2 ^ 52 + 72 * hOffset h
        let hs := partHost x
        if write then addAck (updHost m hs (fun y => hostWrite y a (pkt.lines.flatMap lineBytes))) s h
        else injectGrsp m s p w.rspRoute (hRtag h) 0 (bytesLines (hostRead (hostOf m hs) a (72 * n)))
      else
        let ga := (w.base + 72 * hOffset h) % 2 ^ 64
        remoteAccess m (w.rim - 16) (w.base / 2 ^ 56 % 256) w.moduleId write 0 (ga % 2 ^ 56) n pkt.lines p (some (hSrc h))
          (if write then hSeq h else hRtag h) 0

end Sys2Proof.Machine
end

