-- ==== Sys2Proof/Machine/Transfer.lean ====
section
/-! DEFINITION. The transfer engine (02_core.md R74-R76, 03_narrow_arithmetic.md R120, 06_fabric_beats_frames.md R178-R191). -/
namespace Sys2Proof.Machine
open Sys2Proof

/-- `FENCE` holds an instruction back until every earlier transfer of the core has completed (R190). -/
def fenceHolds (m : Mod) (i : Issue) : Bool :=
  bit i.word 44 && (siteOf m i.site.val).core.xfers.any (fun t => t.opcode != 0x40)

/-- A transfer opened by an instruction: its token and queue wait for completion. -/
def xferOf (i : Issue) (n scratch gwin : Nat) : Xfer :=
  let w := i.word
  { opcode := wOpcode w, open_ := [], sigTok := if bit w 16 then some (fld w 17 5) else none, replyTag := none,
    scratch := scratch, awaited := n, gwin := gwin, list := if bit w 27 then wSq w + 1 else 0, buf := [], index := i.index.val }

/-- Run an instruction that completes by acknowledgement (R190): the issue counts, then `f` injects. -/
def runTransfer (m : Mod) (op : Nat) (i : Issue) (bad : InstrWord → Bool)
    (prep : Part → Core → Except (Core × Trap) Core) (f : Part → Mod → Mod) : Mod :=
  if fenceHolds m i then m
  else match computeReady m 4 i with
    | none => m
    | some (_, x) =>
      let m1 := runCompute m 4 op i true bad prep
      let c0 := (siteOf m i.site.val).core
      let c1 := (siteOf m1 i.site.val).core
      if c1.done.getD 4 0 = c0.done.getD 4 0 then m1 else f x m1

/-- The lines a transfer reads from scratch at its segment and offset. -/
def scratchSource (i : Issue) (n : Nat) (c : Core) : Except (Core × Trap) (Core × List Line) := do
  let w := i.word
  let a ← segAddr c (fld w 53 3) (fld w 56 22) (9 * n)
  let (c1, ws) ← readWords i.scratch c a (9 * n)
  pure (c1, (chunksOf 9 ws).map wordsLine)

/-- The lines already checked, for injection. -/
def sourceLines (i : Issue) (n : Nat) (m : Mod) : List Line :=
  match scratchSource { i with scratch := [] } n (siteOf m i.site.val).core with
  | .ok (_, ls) => ls
  | .error _ => []

/-- `SEND`. -/
def doSend (i : Issue) (m : Mod) : Mod :=
  let w := i.word
  let n := fld w 78 16 + 1
  runTransfer m 0x01 i (fun w => fld w 110 18 != 0) (fun _ c => (scratchSource i n c).map Prod.fst)
    (fun _ m => sendLines m i.site.val (fld w 32 12) 0 (fld w 45 8) (fld w 94 16) (fun _ => 0) (sourceLines i n m) (xferOf i n 0 0))

/-- Register one `RECV` of the transfer list (R75). -/
def registerRecv (c : Core) (w : InstrWord) : Except (Core × Trap) Core := do
  let n := fld w 78 16 + 1
  let a ← segAddr c (fld w 53 3) (fld w 56 22) (9 * n)
  pure { c with recvs := c.recvs ++ [{ tag := fld w 45 8, base := a, expected := n, received := 0 }] }

/-- `RECV` completes at its issue; its receive was registered when the beat began (R75, log entry 23). -/
def doRecv (i : Issue) (m : Mod) : Mod :=
  runCompute m 4 0x02 i false (fun w => fld w 32 13 != 0 || fld w 94 34 != 0) (fun _ c => pure c)

/-- Reserved fields of `GREAD` and `GWRITE`: the bits that R74 does not list are taken as reserved (DESIGN CHOICE, log entry
91). -/
def badWindow (w : InstrWord) : Bool := fld w 32 12 != 0 || fld w 51 2 != 0

/-- `GREAD`: one request; the data is written as it arrives (R76, R191). -/
def doGread (i : Issue) (m : Mod) : Mod :=
  let w := i.word
  let n := fld w 78 16 + 1
  runTransfer m 0x03 i badWindow (fun _ c => (segAddr c (fld w 53 3) (fld w 56 22) (9 * n)).map (fun _ => c))
    (fun x m =>
      let s := i.site.val
      match windowOf x (fld w 45 6), segAddr (siteOf m s).core (fld w 53 3) (fld w 56 22) (9 * n) with
      | some win, .ok a => sendRequest m s win (fld w 94 34) n (xferOf i n a win.gwin)
      | _, _ => latch m s 4 0 i.index.val ⟨0x28, fld w 45 6, fld w 94 34⟩)

/-- `GWRITE`: packets to the window's rim element (R191). -/
def doGwrite (i : Issue) (m : Mod) : Mod :=
  let w := i.word
  let n := fld w 78 16 + 1
  runTransfer m 0x04 i badWindow (fun _ c => (scratchSource i n c).map Prod.fst)
    (fun x m =>
      let s := i.site.val
      match windowOf x (fld w 45 6) with
      | some win => sendLines m s win.reqRoute 3 0 0 (fun k => fields [(0, 6, win.gwin), (6, 34, fld w 94 34 + k)])
          (sourceLines i n m) (xferOf i n 0 win.gwin)
      | none => latch m s 4 0 i.index.val ⟨0x28, fld w 45 6, fld w 94 34⟩)

/-! ### Completion and landing -/

/-- A window of the core's plan leads to a partner (R235, R371). -/
def fromPartner (m : Mod) (s gwin : Nat) : Bool :=
  (((partAtSite m s).bind (partOf? m)).bind (fun x => windowOf x gwin)).any (fun w => w.kind != 1)

/-- Complete a transfer: signal, pop (R46, R47, R190). -/
def finishXfer (m : Mod) (s : Nat) (t : Xfer) : Mod :=
  let c := (siteOf m s).core
  let c1 := { c with xfers := c.xfers.erase t }
  if t.opcode = 0x40 then
    updCore m s (fun _ => stageEntry c1 t.list
      { lines := (List.range t.buf.length).map (fun k => mget t.buf k 0), source := none, fetched := true, remote := fromPartner m s t.gwin,
        place := 0 })
  else
    let c2 := if t.list = 0 then c1 else { c1 with queues := lupd c1.queues (t.list - 1) List.tail }
    match t.sigTok with
    | none => updCore m s (fun _ => c2)
    | some k => match tokenSignal c2 k with
      | some c3 => updCore m s (fun _ => c3)
      | none => latch (updCore m s (fun _ => c2)) s 4 0 t.index ⟨0x09, k, 0⟩

/-- One acknowledgement reaches the sender (R190). -/
def takeAck (m : Mod) (s seq : Nat) : Mod :=
  match (siteOf m s).core.xfers.find? (fun t => t.open_.any (fun o => o.1 = seq)) with
  | none => m
  | some t =>
    let t' := { t with open_ := (t.open_.map (fun o => if o.1 = seq then (o.1, o.2 - 1) else o)).filter (fun o => o.2 != 0) }
    let m1 := updCore m s (fun c => { c with xfers := c.xfers.map (fun y => if y = t then t' else y) })
    if t'.open_.isEmpty then finishXfer m1 s t' else m1

/-- A fork adds copies of a packet that the sender must see acknowledged (R190, R193). -/
def addCopies (m : Mod) (s seq k : Nat) : Mod :=
  updCore m s (fun c => { c with xfers := c.xfers.map (fun t =>
    { t with open_ := t.open_.map (fun o => if o.1 = seq then (o.1, o.2 + k) else o) }) })

/-- Land one line of a receive (R75, R120): visible from the next beat; partial lines of one location add up, and where
ranges overlap the last arrival wins (R251). -/
def landLine (c : Core) (a : Nat) (l : Line) : Core :=
  let v := match c.landed.find? (fun d => d.addr = a) with
    | some d => if tagFmt d.line = 0x13 ∧ tagFmt l = 0x13 then addPartial d.line l else l
    | none => l
  { c with landed := c.landed.filter (fun d => d.addr != a) ++ [{ addr := a, line := v }] }

/-- Land the lines of a `DATA` packet one by one; a line beyond the count or the window raises `RECV_OVERRUN`. -/
def landAll (tag off : Nat) : List Line → Nat → Core → Except (Core × Trap) Core
  | [], _, c => .ok c
  | l :: ls, j, c =>
    match c.recvs.find? (fun r => r.tag = tag) with
    | none => .error (c, ⟨0x0B, tag, 0⟩)
    | some r =>
      if r.expected ≤ r.received ∨ r.expected ≤ off + j then .error (c, ⟨0x0C, tag, r.base + 9 * (off + j)⟩)
      else
        let c1 := landLine c (r.base + 9 * (off + j)) l
        landAll tag off ls (j + 1) { c1 with recvs := c1.recvs.map (fun y =>
          if y.tag = tag then { y with received := y.received + 1 } else y) }

/-- The lines of a `GRSP` packet are written to scratch, or gathered for a stream queue (R76, R191). -/
def landReply (m : Mod) (s : Nat) (pkt : Packet) : Mod :=
  let h := pkt.header
  match (siteOf m s).core.xfers.find? (fun t => t.replyTag = some (hRtag h)) with
  | none => m
  | some t =>
    let n := pkt.lines.length
    let t' : Xfer :=
      { t with awaited := t.awaited - n,
               buf := if t.opcode = 0x40 then
                  (List.range n).foldl (fun b k => mset b (hDoff h + k) (pkt.lines.getD k 0)) t.buf else t.buf }
    let m1 := updCore m s (fun c =>
      let c1 := { c with xfers := c.xfers.map (fun y => if y = t then t' else y) }
      if t.opcode = 0x40 then c1
      else (List.range n).foldl (fun d k => writeReply d (fromPartner m s t.gwin) (t.scratch + 9 * (hDoff h + k)) (pkt.lines.getD k 0)) c1)
    if t'.awaited = 0 then finishXfer m1 s t' else m1

/-- `SPILL` and `SVC` lines reach their target (R179): scratch words, lines of vertical memory, program memory, the route and
ownership banks that packets are not using (R184). How instructions and entries lie in a line the spec does not say: four
instructions, and sixteen entries, one a 32-bit word (DESIGN CHOICE, log entry 92). What a region controller makes of bulk
data is not stated, and changes nothing. -/
def deliverSpill (m : Mod) (s : Nat) (h : Header) (ls : List Line) : Mod :=
  let a := fld h 86 26
  let ks := List.range ls.length
  let put {α : Type} (n w : Nat) (f : Nat → α) (b : SMap α) : SMap α :=
    ks.foldl (fun b k => (List.range n).foldl (fun b t => mset b (a + n * k + t) (f (fld (ls.getD k 0) (w * t) w))) b) b
  let old := epochOf m s
  match fld h 82 4 with
  | 0 => updCore m s (fun c => ks.foldl (fun d k => writeLine d (a + 9 * k) (ls.getD k 0)) c)
  | 1 => writeLines m s a ls []
  | 2 => updCore m s (fun c => { c with prog := put 4 128 (BitVec.ofNat 128) c.prog })
  | 3 => updRouter m s (fun r => if old then { r with routesA := put 16 32 (BitVec.ofNat 32) r.routesA }
      else { r with routesB := put 16 32 (BitVec.ofNat 32) r.routesB })
  | 4 =>
    let own (b : SMap Nat) : SMap Nat :=
      (put 16 32 id b).filterMap (fun e => if b.contains e || e.2.testBit 4 then some (e.1, e.2 % 16) else none)
    updRouter m s (fun r => if old then { r with ownA := own r.ownA } else { r with ownB := own r.ownB })
  | _ => m

/-- Deliver a packet to the core of a site and acknowledge it (R75, R180, R194, R196). A fault that an arriving line raises
names no instruction: its index is a free value (R79, log entry 90). -/
def deliverLocal (m : Mod) (s : Nat) (pkt : Packet) : Mod :=
  let h := pkt.header
  match hKind h with
  | 0 => match landAll (hRtag h) (hDoff h) pkt.lines 0 (siteOf m s).core with
    | .ok c => addAck (updCore m s (fun _ => c)) s h
    | .error (c, t) => latch (updCore m s (fun _ => c)) s 4 0 (Config.arrivalInstr t.code % 65536) t
  | 2 => addAck (landReply m s pkt) s h
  | 4 => addAck (deliverSpill m s h pkt.lines) s h
  | 5 => addAck (if fld h 82 4 < 2 then deliverSpill m s h pkt.lines else m) s h
  | _ => m

/-- `SEND`. -/
def execSend (i : Issue) (s : State) : Host.Outcome State Fault Refusal := lift (doSend i) s
/-- `RECV`. -/
def execRecv (i : Issue) (s : State) : Host.Outcome State Fault Refusal := lift (doRecv i) s
/-- `GREAD`. -/
def execGread (i : Issue) (s : State) : Host.Outcome State Fault Refusal := lift (doGread i) s
/-- `GWRITE`. -/
def execGwrite (i : Issue) (s : State) : Host.Outcome State Fault Refusal := lift (doGwrite i) s

end Sys2Proof.Machine
end

