-- ==== Sys2Proof/Machine/Fabric.lean ====
section
/-! DEFINITION. Routers, the corridor, the seam, mesh links (06_fabric_beats_frames.md R175-R202, R214-R217). -/
namespace Sys2Proof.Machine
open Sys2Proof

/-! ### Events and faults -/

/-- Payload of a fabric event (R217). -/
def fabPayload (m : Mod) (s p code route other : Nat) : BitVec 192 :=
  payload [(0, 16, s), (16, 4, p), (24, 8, code), (32, 12, route), (48, 11, other),
    (64, 64, match partOf? m p with
      | some x => x.beatCount
      | none => 0), timeField m]

/-- A router raises a fault (R214): latched once, flagged, reported, `FAB_FAULT` posted. -/
def routerFault (m : Mod) (s port slot : Nat) (h : Header) (code : Nat) : Mod :=
  let info := fields [(0, 12, hRoute h), (12, 4, hPart h), (16, 3, port), (19, 3, slot), (22, 8, code)]
  let m1 := updRouter m s (fun r => if fld r.faultInfo 22 8 = 0 then { r with faultInfo := BitVec.ofNat 30 info } else r)
  let hw := code = 0x24
  let cls : FaultClass := if hw then .fabric else .plan
  let m2 := noteRegionFault (fabFlag m1 (regionOf s) (if hw then 0 else 1)) (regionOf s) s code cls
  let m3 := report m2 (hPart h) { site := s, code := code, cls := cls, partner := false }
  post m3 0x0306 none (fabPayload m3 s (hPart h) code (hRoute h) 0)

/-! ### Where a packet goes -/

/-- A mesh link carries nothing now: it lost lock or stays down, or it crosses a seam that is down (R202, R214). -/
def linkBlocked (m : Mod) (s p : Nat) : Bool :=
  (neighbour s p).isSome && (m.fabric.linkDown.contains (linkOf s p) || m.fabric.linkDead.contains (linkOf s p)
    || (m.fabric.seamDown && isSeamPort s p))

/-- Slot field of a route entry for a port (R181). -/
def entrySlot (e : BitVec 32) (p : Nat) : Nat := fld e (6 + 3 * p) 3

/-- The slot of an output is a corridor slot: 7 on a mesh link, 3 and above on a seam crossing (R176, R200). -/
def isCorridorSlot (s p slot : Nat) : Bool := if isSeamPort s p then 3 ≤ slot else slot == 7

/-- The entry of a route in the bank a packet names. -/
def routeEntry (r : Router) (h : Header) : BitVec 32 := mget (if hEpoch h then r.routesB else r.routesA) (hRoute h) 0

/-- The partition owns an output slot in the bank a packet names (R185). -/
def slotOwned (r : Router) (h : Header) (p slot : Nat) : Bool :=
  mget? (if hEpoch h then r.ownB else r.ownA) (8 * p + slot) == some (hPart h)

/-- Outputs a route entry names among ports 0-3. -/
def outPorts (e : BitVec 32) : List Nat := (List.range 4).filter (fun p => bit e (1 + p))

/-- The claim a header makes: its route id and its partition. -/
def claimOf (h : Header) : Nat := hRoute h + 4096 * hPart h

/-- What a router makes of a scheduled packet (R183, R187): a fault code, or its outputs and whether it is delivered. -/
def routeLookup (r : Router) (check : Bool) (s : Nat) (h : Header) : Except Nat (List (Nat × Nat) × Bool) :=
  let e := routeEntry r h
  let outs := (outPorts e).map (fun p => (p, entrySlot e p))
  if ¬ bit e 0 then .error 0x20
  else if check && fld e 18 4 != hPart h then .error 0x21
  else if check && outs.any (fun o => !isCorridorSlot s o.1 o.2 && !slotOwned r h o.1 o.2) then .error 0x21
  else if outs.any (fun o => isCorridorSlot s o.1 o.2) then .error 0x23
  else if outs.any (fun o => match mget? r.claims (8 * o.1 + o.2) with
      | some c => c != claimOf h
      | none => false) then .error 0x22
  else .ok (outs, bit e 5)

/-- Next port of the dimension-order path (R198): along x, then along y; none at the destination. -/
def corridorPort (s d : Nat) : Option Nat :=
  if xOf s < xOf d then some 1 else if xOf d < xOf s then some 3
  else if yOf s < yOf d then some 2 else if yOf d < yOf s then some 0 else none

/-- Count flits a router forwards. -/
def countFlits (m : Mod) (s n : Nat) (corridor : Bool) : Mod :=
  let m1 := updRouter m s (fun r => { r with flits := r.flits + n })
  if corridor then updRegion m1 (regionOf s) (fun y => { y with corridor := y.corridor + n }) else m1

/-- Flits of a packet (R178). -/
def packetFlits (pkt : Packet) : Nat := 1 + 4 * pkt.lines.length

/-- Send a packet out of a port on a slot: to the next router's input, or to the rim element. -/
def emit (m : Mod) (s : Nat) (pkt : Packet) (o : Nat × Nat) : Mod :=
  let m1 := countFlits m s (packetFlits pkt) (hCorridor pkt.header)
  match neighbour s o.1 with
  | some t => addFlight m1 t (facing o.1) o.2 pkt
  | none => serveRim m1 s pkt

/-- Turn a packet onto the corridor towards a site (R197). -/
def toCorridor (pkt : Packet) (d : Nat) : Packet := { pkt with header := putFld (setBit pkt.header 13 true) 32 11 d }

/-- A packet enters the corridor at a router, or moves on along it (R198). -/
def corridorStep (m : Mod) (s : Nat) (pkt : Packet) : Mod :=
  match corridorPort s (hDest pkt.header) with
  | some p => emit m s pkt (p, if isSeamPort s p then 3 else 7)
  | none => addFlight m s 4 0 pkt

/-- Deliver at the local port, or proxy it where a redirect is set and no role is held here (R197). -/
def localPort (m : Mod) (s : Nat) (pkt : Packet) : Mod :=
  match (siteOf m s).router.redirect, partAtSite m s with
  | some d, none => corridorStep m s (toCorridor pkt d)
  | _, _ => deliverLocal m s pkt

/-- Forward a scheduled packet by its route entry (R183, R187). -/
def forwardScheduled (m : Mod) (s port slot : Nat) (pkt : Packet) : Mod :=
  let h := pkt.header
  let r := (siteOf m s).router
  match routeLookup r (!(partOf? m (hPart h)).any (fun x => x.ownCheckOff)) s h with
  | .error code => routerFault m s port slot h code
  | .ok (outs, here) =>
    let m1 := updRouter m s (fun r => { r with
      claims := outs.foldl (fun c o => mset c (8 * o.1 + o.2) (claimOf h)) r.claims })
    let copies := outs.length + (if here then 1 else 0)
    let m2 := if 1 < copies then addCopies m1 (hSrc h) (hSeq h) (copies - 1) else m1
    let m3 := outs.foldl (fun m o => emit m s pkt o) m2
    if here then localPort m3 s pkt else m3

/-- A corridor packet at its destination (R196-R198): injected for the core that moved away, delivered to the core that holds
a role of its partition, or control spill for the router's own tables. Spill is accepted only from a site at a management
port. -/
def corridorArrive (m : Mod) (s port slot : Nat) (pkt : Packet) : Mod :=
  let h := pkt.header
  if hKind h = 4 ∧ ¬ isMgmtSite (hSrc h) then m
  else if hKind h = 4 ∧ 3 ≤ fld h 82 4 then deliverLocal m s pkt
  else match partAtSite m s with
    | some p => if p = hPart h then deliverLocal m s pkt else routerFault m s port slot h 0x21
    | none =>
      if (siteOf m s).router.redirect.isSome ∧ hKind h < 4 then
        forwardScheduled m s port slot { pkt with header := putFld (setBit h 13 false) 32 11 0 }
      else routerFault m s port slot h 0x21

/-- Every output the packet takes from here can carry it (R188, R192, R202). -/
def outputsFree (m : Mod) (s port : Nat) (pkt : Packet) : Bool :=
  let h := pkt.header
  let r := (siteOf m s).router
  if hCorridor h then
    match corridorPort s (hDest h) with
    | some p => !linkBlocked m s p
    | none => true
  else match port, r.redirect, partAtSite m s with
    | 4, some d, some _ => match corridorPort s d with
      | some p => !linkBlocked m s p
      | none => true
    | _, _, _ => (outPorts (routeEntry r h)).all (fun p => !linkBlocked m s p)

/-- Data flits with an uncorrectable error go on with their bits as received, and their lines are poisoned (R177): flit
`4·j + k + 1` carries bits 144·k and up of line `j` (R99); each comes with its wrong bits. -/
def poisonFlits (pkt : Packet) (bad : List (Fin 33 × BitVec 144)) : Packet :=
  bad.foldl (fun p b =>
    if b.1.val = 0 then p
    else
      let n := b.1.val - 1
      { p with lines := lupd p.lines (n / 4) (fun l => poisonLine (l ^^^ BitVec.ofNat 576 (b.2.toNat * 2 ^ (144 * (n % 4))))) }) pkt

/-- Take the oldest packet at a router input one hop further (R177, R179, R183, R197, R198). -/
def doPacketForward (s port slot fixed : Nat) (bad : List (Fin 33 × BitVec 144)) (m : Mod) : Mod :=
  match m.fabric.flights.find? (fun f => f.site = s && f.port = port && f.slot = slot) with
  | none => m
  | some f =>
    if !outputsFree m s port f.pkt then m
    else
      let m1 := { m with fabric := { m.fabric with flights := m.fabric.flights.erase f } }
      let hits := bad.filter (fun b => b.1.val < packetFlits f.pkt)
      let m2 := updRouter m1 s (fun r => { r with flitCE := sat32 (r.flitCE + fixed), flitUE := sat32 (r.flitUE + hits.length) })
      let m3 := if hits.isEmpty then m2 else fabFlag m2 (regionOf s) 0
      if hits.any (fun b => b.1.val = 0) then routerFault m3 s port slot f.pkt.header 0x24
      else if 6 ≤ hKind f.pkt.header then routerFault m3 s port slot f.pkt.header 0x20
      else
        let pkt := poisonFlits f.pkt hits
        if hCorridor pkt.header then
          (if hDest pkt.header = s then corridorArrive m3 s port slot pkt else corridorStep m3 s pkt)
        else match port, (siteOf m3 s).router.redirect, partAtSite m3 s with
          | 4, some d, some _ => corridorStep m3 s (toCorridor pkt d)
          | _, _, _ => forwardScheduled m3 s port slot pkt

/-- The dimension-order path from a site as (site, port) hops; `n` bounds its length. -/
def corridorPath : Nat → Nat → Nat → List (Nat × Nat)
  | 0, _, _ => []
  | n + 1, s, d => match corridorPort s d with
    | none => []
    | some p => (s, p) :: (match neighbour s p with
      | some t => corridorPath n t d
      | none => [])

/-- An acknowledgement can travel: no link of its dimension-order path is blocked (R180, R202, R214). -/
def ackFree (m : Mod) (a : Ack) : Bool := (corridorPath 78 a.site a.src).all (fun h => !linkBlocked m h.1 h.2)

/-- Deliver the oldest acknowledgement of a sender that can travel (R180, R190): those of `DATA` and `GWR` packets count
towards the core's transfers. -/
def doPacketAck (s : Nat) (m : Mod) : Mod :=
  match m.fabric.acks.find? (fun a => a.src = s && ackFree m a) with
  | none => m
  | some a =>
    let m1 := { m with fabric := { m.fabric with acks := m.fabric.acks.erase a } }
    if a.kind = 0 ∨ a.kind = 3 then takeAck m1 s a.seq else m1

/-! ### Epochs (R184) -/

/-- Drop the entries of a partition from a bank. -/
def releaseBank (p : Nat) (b : SMap (BitVec 32)) : SMap (BitVec 32) := b.filter (fun e => fld e.2 18 4 != p)

/-- The routers of a partition: those of its configuration's regions and of the regions that stand in for them. -/
def partRouters (m : Mod) (x : Part) : List Nat :=
  (configRegions x.config ++ (partRegions m x).filter (fun r => !(configRegions x.config).contains r)).flatMap sitesOf

/-- The router holds an entry or a slot of a partition. -/
def touches (p : Nat) (r : Router) : Bool :=
  r.routesA.any (fun e => fld e.2 18 4 == p) || r.routesB.any (fun e => fld e.2 18 4 == p)
    || r.ownA.any (fun e => e.2 == p) || r.ownB.any (fun e => e.2 == p)

/-- Every router a partition's tables concern (R184): its regions' and any other that holds an entry or a slot of it. -/
def concerned (m : Mod) (p : Nat) (x : Part) : List Nat :=
  let own := partRouters m x
  own ++ (m.sites.filter (fun e => touches p e.2.router && !own.contains e.1)).map Prod.fst

/-- Claims of a partition clear, at whatever router they stand (R187). -/
def clearClaims (m : Mod) (p : Nat) : Mod :=
  { m with sites := m.sites.map (fun e => (e.1, { e.2 with router := { e.2.router with
      claims := e.2.router.claims.filter (fun c => c.2 / 4096 != p) } })) }

/-- Flits held at a router that were stamped with another bank than their sender stamps now (R184, R216). -/
def oldFlits (m : Mod) (s : Nat) (f : Flight → Bool) : Nat :=
  (m.fabric.flights.filter (fun y => y.site = s && f y && hEpoch y.pkt.header != epochOf m (hSrc y.pkt.header))).foldl
    (fun a y => a + packetFlits y.pkt) 0

/-- Stage the switch to the bank just written at every region controller of the partition (R184 step 2, R392), or leave it
until the previous switch has drained. -/
def stageEpoch (m : Mod) (p : Nat) : Mod :=
  match partOf? m p with
  | none => m
  | some x =>
    if !x.draining.isEmpty then updPart m p (fun y => { y with epochDue := true })
    else
      let m1 := forAll m (partRegions m x) (fun m r => updRegion m r (fun y => { y with switchPending := true }))
      updPart m1 p (fun y => { y with epochDue := false, staged := y.staged ++
        [{ kind := .epoch, waiting := partRegions m x, beat := y.beatCount, committed := false, cmd := none, time := m.time }] })

/-- A router reports that it holds no flit of the old epoch; the last report releases the old bank, and a switch that waited
is staged (R184). -/
def doEpochDrain (p s : Nat) (m : Mod) : Mod :=
  match partOf? m p with
  | none => m
  | some x =>
    if ¬ x.draining.contains s ∨ oldFlits m s (fun f => hPart f.pkt.header == p) ≠ 0 then m
    else
      let left := x.draining.filter (fun t => t != s)
      let m1 := updPart m p (fun y => { y with draining := left })
      if left.isEmpty then
        let b := partEpoch m1 x
        let m2 := forAll m1 (concerned m1 p x) (fun m t =>
          updRouter m t (fun r => if b then { r with routesA := releaseBank p r.routesA } else { r with routesB := releaseBank p r.routesB }))
        let m3 := forAll m2 (partRegions m2 x) (fun m r => updRegion m r (fun y => { y with switchPending := false }))
        let m4 := post m3 0x0301 none (fabPayload m3 0xFFFF p 0 0 0)
        if x.epochDue then stageEpoch m4 p else m4
      else m1

/-! ### The seam (R202) and mesh links (R214) -/

/-- The partition owns a slot direction of a port, in either bank. -/
def ownsPort (m : Mod) (p s port : Nat) : Bool :=
  let r := (siteOf m s).router
  (List.range 8).any (fun k => mget? r.ownA (8 * port + k) == some p || mget? r.ownB (8 * port + k) == some p)

/-- The partition owns a slot direction of a link. -/
def ownsLink (m : Mod) (p l : Nat) : Bool :=
  let e := linkEnds l
  ownsPort m p e.1.1 e.1.2 || ownsPort m p e.2.1 e.2.2

/-- The link of the crossing in row `y`. -/
def seamLink (y : Nat) : Nat := 31 * y + 15

/-- The partition owns a seam slot direction. -/
def ownsSeam (m : Mod) (p : Nat) : Bool := (List.range 48).any (fun y => ownsLink m p (seamLink y))

/-- The regions at the seam. -/
def seamRegions : List Nat := (List.range 64).filter (fun r => r % 8 = 3 || r % 8 = 4)

/-- The existing partitions. -/
def partIds (m : Mod) : List Nat := m.parts.map Prod.fst

/-- Mark the two ends of a link trained or not. -/
def setLinkUp (m : Mod) (l : Nat) (up : Bool) : Mod :=
  let e := linkEnds l
  updRouter (updRouter m e.1.1 (fun r => { r with linkUp := setBit r.linkUp e.1.2 up })) e.2.1
    (fun r => { r with linkUp := setBit r.linkUp e.2.2 up })

/-- Mark a link trained or not, and the crossing where it is one (R215, R216). -/
def markLink (m : Mod) (l : Nat) (up : Bool) : Mod :=
  let m1 := setLinkUp m l up
  if isSeamLink l then
    let y := l / 31
    let f (m : Mod) (r : Nat) : Mod := updRegion m r (fun d => { d with seamUp := setBit d.seamUp (y % 6) up })
    f (f m1 (8 * (y / 6) + 3)) (8 * (y / 6) + 4)
  else m1

/-- The regions `lost` no longer see a forwarded clock, and every crossing goes down (R202). -/
def seamFalls (lost : Nat → Bool) (m : Mod) : Mod :=
  let m0 := forAll m seamRegions (fun m r => updRegion m r (fun y => { y with seamClockLost := y.seamClockLost || lost r }))
  if m.fabric.seamDown then m0
  else
    let m1 := forAll { m0 with fabric := { m0.fabric with seamDown := true } } (List.range 48) (fun m y => markLink m (seamLink y) false)
    let m2 := forAll m1 seamRegions (fun m r => fabFlag m r 4)
    let m3 := forAll m2 (partIds m2) (fun m p =>
      if ownsSeam m p then settleHold (updPart m p (fun y => { y with holdSeam := true })) p else m)
    post m3 0x0302 none (fabPayload m3 0xFFFF 0 0 0 0)

/-- `SEAM_DOWN`: the clock that one half forwards is gone (R202). -/
def doSeamDown (west : Bool) : Mod → Mod := seamFalls (fun r => eastRegion r == west)

/-- `SEAM_UP`: both seam domains are on, both clocks are back, and the crossings have retrained (R22, R202). -/
def doSeamUp (m : Mod) : Mod :=
  if !m.fabric.seamDown || m.pwr.seamOn != 3 || !(m.clk.fclkWLock && m.clk.fclkELock && m.clk.sclkLock) then m
  else
    let m1 := { m with fabric := { m.fabric with seamDown := false } }
    let m2 := forAll (forAll m1 seamRegions (fun m r => updRegion m r (fun y => { y with seamClockLost := false })))
      ((List.range 48).filter (fun y => !(m.fabric.linkDown ++ m.fabric.linkDead).contains (seamLink y)))
      (fun m y => markLink m (seamLink y) true)
    let m3 := post m2 0x0303 none (fabPayload m2 0xFFFF 0 0 0 0)
    forAll m3 (partIds m3) (fun m p => match partOf? m p with
      | some x => if x.holdSeam then settleHold (updPart m p (fun y => { y with holdSeam := false })) p else m
      | none => m)

/-- The router at one end of a link latches that it lost the link (R214, R216). -/
def latchLink (m : Mod) (q : Nat × Nat) : Mod :=
  updRouter m q.1 (fun r => if fld r.faultInfo 22 8 = 0 then
    { r with faultInfo := BitVec.ofNat 30 (fields [(16, 3, q.2), (22, 8, 0x25)]) } else r)

/-- A mesh link loses lock or fails training: `LINK_DOWN` is raised, the link retrains, and what needs it waits (R214). The
partitions that own a slot direction of it remember the fault for the beat in progress (R208). -/
def doLinkDown (l : Nat) (m : Mod) : Mod :=
  if m.fabric.linkDown.contains l ∨ m.fabric.linkDead.contains l then m
  else
    let e := linkEnds l
    let m1 := markLink { m with fabric := { m.fabric with linkDown := m.fabric.linkDown ++ [l] } } l false
    let m2 := fabFlag (fabFlag (latchLink (latchLink m1 e.1) e.2) (regionOf e.1.1) 2) (regionOf e.2.1) 2
    let m3 := noteRegionFault m2 (regionOf e.1.1) e.1.1 0x25 .fabric
    let m4 := forAll m3 (partIds m3) (fun m p => if ownsLink m p l then updPart m p (fun y => { y with linkFault := true }) else m)
    let owner := ((partIds m4).find? (fun p => ownsLink m4 p l)).getD 0
    let m5 := ledgerAdd m4 0 4 0 (fabPayload m4 e.1.1 owner 0x25 0 e.2.1)
    post m5 0x0306 none (fabPayload m5 e.1.1 owner 0x25 0 0)

/-- The link is back in service; a crossing also needs the seam up. -/
def doLinkRetrained (l : Nat) (m : Mod) : Mod :=
  if m.fabric.linkDown.contains l then
    let m1 := { m with fabric := { m.fabric with linkDown := m.fabric.linkDown.filter (fun k => k != l) } }
    if isSeamLink l && m.fabric.seamDown then m1 else markLink m1 l true
  else m

/-- Put a partition into FAULTED and remember its first fault (R211, R213). -/
def faultPart (m : Mod) (p site code : Nat) : Mod :=
  lossStop (updPart m p (fun y => { y with
    frame0 := if y.frame0 = .idle then .idle else .faulted,
    firstSite := if y.frame0 = .faulted then y.firstSite else site,
    firstCode := if y.frame0 = .faulted then y.firstCode else code })) p

/-- Retraining ends without the link: it stays down, and every partition that owns a slot direction is FAULTED (R214). -/
def doLinkRetrainFail (l : Nat) (m : Mod) : Mod :=
  if m.fabric.linkDown.contains l then
    let s := (linkEnds l).1.1
    let m1 := { m with fabric := { m.fabric with
      linkDown := m.fabric.linkDown.filter (fun k => k != l), linkDead := m.fabric.linkDead ++ [l] } }
    let m2 := forAll m1 (partIds m1) (fun m p =>
      if ownsLink m p l then updPart (faultPart m p s 0x25) p (fun y => { y with frame0 := .faulted, faultLink := true }) else m)
    let owner := ((partIds m2).find? (fun p => ownsLink m2 p l)).getD 0
    post m2 0x0306 none (fabPayload m2 s owner 0x25 0 0)
  else m

/-- `PACKET_FORWARD`. -/
def execPacketForward (site : SiteId) (port : Fin 5) (slot : Fin 8) (flitFixed : Nat) (flitBad : List (Fin 33 × BitVec 144))
    (s : State) : Host.Outcome State Fault Refusal :=
  lift (doPacketForward site.val port.val slot.val flitFixed flitBad) s
/-- `PACKET_ACK`. -/
def execPacketAck (site : SiteId) (s : State) : Host.Outcome State Fault Refusal := lift (doPacketAck site.val) s
/-- `EPOCH_DRAIN_REPORT`. -/
def execEpochDrainReport (p : PartId) (site : SiteId) (s : State) : Host.Outcome State Fault Refusal :=
  lift (doEpochDrain p.val site.val) s
/-- `SEAM_DOWN`. -/
def execSeamDown (west : Bool) (s : State) : Host.Outcome State Fault Refusal := lift (doSeamDown west) s
/-- `SEAM_UP`. -/
def execSeamUp (s : State) : Host.Outcome State Fault Refusal := lift doSeamUp s
/-- `LINK_DOWN`. -/
def execLinkDown (link : Fin 2992) (s : State) : Host.Outcome State Fault Refusal := lift (doLinkDown link.val) s
/-- `LINK_RETRAIN_FAIL`. -/
def execLinkRetrainFail (link : Fin 2992) (s : State) : Host.Outcome State Fault Refusal := lift (doLinkRetrainFail link.val) s
/-- `LINK_RETRAINED`. -/
def execLinkRetrained (link : Fin 2992) (s : State) : Host.Outcome State Fault Refusal := lift (doLinkRetrained link.val) s

end Sys2Proof.Machine
end

