-- ==== Sys2Proof/Machine/Sampler.lean ====
section
/-! DEFINITION. The sampler: count table, token window, stages (10_priorities_adapters_sampling.md R338-R346). -/
namespace Sys2Proof.Machine
open Sys2Proof

/-! ### The parameter block (R338) -/

/-- `SEED`. -/
def sSeed (b : BitVec 2048) : Nat := fld b 0 64
/-- A binary32 field of the block at byte `k`. -/
def sF32 (b : BitVec 2048) (k : Nat) : B32 := BitVec.ofNat 32 (fld b (8 * k) 32)
/-- `TOP_K`, 0 read as 1,024. -/
def sTopK (b : BitVec 2048) : Nat := if fld b 256 16 = 0 then 1024 else fld b 256 16
/-- `WINDOW`. -/
def sWindow (b : BitVec 2048) : Nat := fld b 272 16
/-- `STOP_COUNT`. -/
def sStops (b : BitVec 2048) : Nat := fld b 288 8
/-- `BIAS_COUNT`. -/
def sBiases (b : BitVec 2048) : Nat := fld b 296 8
/-- `COUNT_APPENDED`. -/
def sCountAppended (b : BitVec 2048) : Bool := bit b 304
/-- `LIST_ADDR`. -/
def sListAddr (b : BitVec 2048) : Nat := fld b 320 64
/-- `WINDOW_HEAD`. -/
def sHead (b : BitVec 2048) : Nat := fld b 384 16
/-- `REP_PENALTY`, 0 read as 1.0. -/
def sRep (b : BitVec 2048) : B32 := if fld b 160 31 = 0 then 0x3F800000 else sF32 b 20

/-! ### The count table (R341) -/

/-- `TOKEN`. -/
def eToken (e : Word) : Nat := fld e 0 20
/-- `COUNT`. -/
def eCount (e : Word) : Nat := fld e 20 15
/-- `OCCUPIED`. -/
def eOcc (e : Word) : Bool := bit e 35
/-- `STOP`. -/
def eStop (e : Word) : Bool := bit e 36
/-- `BIAS_EN`. -/
def eBiasEn (e : Word) : Bool := bit e 37
/-- `BIAS`. -/
def eBias (e : Word) : B16 := BitVec.ofNat 16 (fld e 38 16)
/-- Home index h(t). -/
def tabHome (t : Nat) : Nat := (t * 0x9E3779B1) % 2 ^ 32 / 2 ^ 17
/-- Table size. -/
def tabSize : Nat := 32768
/-- Probe from `i`: the index that holds `t`, or the first free one. `n` bounds the probes. -/
def tabProbe (tab : SMap Word) (t : Nat) : Nat → Nat → Nat
  | 0, i => i
  | n + 1, i =>
    let e := mget tab i 0
    if !eOcc e || eToken e = t then i else tabProbe tab t n ((i + 1) % tabSize)
/-- Index of token `t` or of the free entry where it goes. -/
def tabSlot (tab : SMap Word) (t : Nat) : Nat := tabProbe tab t tabSize (tabHome t)
/-- The entry of a token, if it has one. -/
def tabEntry? (tab : SMap Word) (t : Nat) : Option Word :=
  let e := mget tab (tabSlot tab t) 0
  if eOcc e then some e else none
/-- A fresh entry of a token. -/
def freshEntry (t : Nat) : Word := BitVec.ofNat 64 (fields [(0, 20, t), (35, 1, 1)])
/-- Change the entry of a token, inserting one if none holds it. -/
def tabUpdate (tab : SMap Word) (t : Nat) (f : Word → Word) : SMap Word :=
  let k := tabSlot tab t
  let e := mget tab k 0
  mput 0 tab k (f (if eOcc e then e else freshEntry t))
/-- `k` lies cyclically after `i` and not after `j`. -/
def cycAfter (i k j : Nat) : Bool := if i ≤ j then i < k && k ≤ j else i < k || k ≤ j
/-- Backward shifting from the emptied index `i`, looking at `j` next (R341). -/
def tabShift (tab : SMap Word) : Nat → Nat → Nat → SMap Word
  | 0, i, _ => mdel tab i
  | n + 1, i, j =>
    let e := mget tab j 0
    if !eOcc e then mdel tab i
    else if cycAfter i (tabHome (eToken e)) j then tabShift tab n i ((j + 1) % tabSize)
    else tabShift (mset tab i e) n j ((j + 1) % tabSize)
/-- Take one occurrence of a token away; remove its entry if nothing keeps it (R341). -/
def tabDecrement (tab : SMap Word) (t : Nat) : SMap Word :=
  let k := tabSlot tab t
  let e := mget tab k 0
  if !eOcc e then tab
  else
    let e' := putFld e 20 15 (eCount e - 1)
    if eCount e' = 0 ∧ ¬ eStop e' ∧ ¬ eBiasEn e' then tabShift tab tabSize k ((k + 1) % tabSize) else mset tab k e'

/-- A token enters the window (R342). -/
def enterWindow (x : Sampler) (t : Nat) : Sampler :=
  let W := sWindow x.block
  if W = 0 then x
  else
    let h := sHead x.block
    let full := x.fill = W
    let tab1 := if full then tabDecrement x.table (mget x.ring ((h + 16384 - x.fill) % 16384) 0).toNat else x.table
    let F := if full then x.fill - 1 else x.fill
    { x with
      table := tabUpdate tab1 t (fun e => putFld e 20 15 (eCount e + 1)),
      ring := mput 0 x.ring h (BitVec.ofNat 32 t),
      block := putFld x.block 384 16 ((h + 1) % 16384),
      fill := F + 1 }

/-- The counter-based generator G (R346). -/
def genG (seed counter : Nat) : Nat :=
  let x0 := (seed + (counter + 1) * 0x9E3779B97F4A7C15) % 2 ^ 64
  let x1 := ((x0 ^^^ (x0 >>> 30)) * 0xBF58476D1CE4E5B9) % 2 ^ 64
  let x2 := ((x1 ^^^ (x1 >>> 27)) * 0x94D049BB133111EB) % 2 ^ 64
  x2 ^^^ (x2 >>> 31)

/-! ### Stages (R344, R345) -/

/-- -Inf. -/
def negInf : B32 := 0xFF800000
/-- A NaN logit is taken as -Inf at every stage. -/
def cleanLogit (v : B32) : B32 := if isNan32 v then negInf else v
/-- The sampler of the sequence at batch place `k`. -/
def memberSampler (x : Part) (k : Nat) : Option Sampler :=
  match x.batch[k]? with
  | some b => if b.valid then (x.seqs.find? (fun q => q.handle = b.handle)).map (fun q => q.samp) else none
  | none => none
/-- Stage 1: biases. -/
def stageBias (q : Sampler) (zs : List B32) : List B32 :=
  q.table.foldl (fun zs p => if eOcc p.2 && eBiasEn p.2 then
    lupd zs (eToken p.2) (fun z => cleanLogit (add32 z (b16ToB32 (eBias p.2)))) else zs) zs
/-- Stage 2: repetition, frequency and presence penalties. -/
def stagePenalty (q : Sampler) (zs : List B32) : List B32 :=
  q.table.foldl (fun zs p => if eOcc p.2 && eCount p.2 != 0 then
    lupd zs (eToken p.2) (fun z =>
      let r := sRep q.block
      let z1 := if lt32 0 z then Config.div32 z r else mul32 z r
      cleanLogit (sub32 z1 (add32 (mul32 (sF32 q.block 24) (nat32 (eCount p.2))) (sF32 q.block 28)))) else zs) zs
/-- The token with the largest value; ties go to the lower id. -/
def argMax (zs : List B32) : Nat :=
  (zs.foldl (fun (a : Nat × Nat × B32) z =>
    let (k, i, best) := a
    if lt32 best z then (k + 1, k, z) else (k + 1, i, best)) (0, 0, negInf)).2.1
/-- Insert in descending order, after equals. -/
def insertDesc (p : Nat × B32) : List (Nat × B32) → List (Nat × B32)
  | [] => [p]
  | q :: qs => if lt32 q.2 p.2 then p :: q :: qs else q :: insertDesc p qs
/-- Tokens by descending probability. -/
def sortDesc (l : List (Nat × B32)) : List (Nat × B32) := l.foldl (fun a p => insertDesc p a) []
/-- Shortest prefix whose running binary32 sum reaches `lim`. -/
def topPrefix (lim : B32) : B32 → List (Nat × B32) → List (Nat × B32)
  | _, [] => []
  | s, p :: ps =>
    let s' := add32 s p.2
    if lt32 s' lim then p :: topPrefix lim s' ps else [p]
/-- Stage 3: the chosen token, or the candidates with q in descending order. -/
def stageFilter (q : Sampler) (zs : List B32) : Option Nat × List (Nat × B32) :=
  let T := sF32 q.block 8
  if lt32 0 T then
    let ys := zs.map (fun z => Config.div32 z T)
    let top := ys.getD (argMax ys) negInf
    if zs.all (fun z => z = negInf) ∨ ¬ flFinite (b32Val top) then (some (argMax zs), [])
    else
      let ps := Config.sampleProb ys
      let all := (List.range zs.length).filterMap (fun t =>
        let p := ps.getD t 0
        if zs.getD t negInf ≠ negInf ∧ lt32 0 p then some (t, p) else none)
      let c1 := (sortDesc all).take (sTopK q.block)
      let tp := sF32 q.block 12
      let c2 := if lt32 0 tp ∧ lt32 tp 0x3F800000 then topPrefix tp 0 c1 else c1
      let mp := sF32 q.block 16
      let best := (c2.headD (0, 0)).2
      let c3 := if lt32 0 mp then c2.filter (fun p => !lt32 p.2 (mul32 mp best)) else c2
      let qs := Config.renorm (c3.map Prod.snd)
      (none, (List.range c3.length).map (fun k => ((c3.getD k (0, 0)).1, qs.getD k 0)))
  else (some (argMax zs), [])
/-- Walk the candidates until the running sum exceeds u; else the last (R346). -/
def drawFrom (u : Fl) : B32 → List (Nat × B32) → Nat
  | _, [] => 0
  | s, p :: ps =>
    let s' := add32 s p.2
    if flLt u (b32Val s') ∨ ps.isEmpty then p.1 else drawFrom u s' ps
/-- Stage 4. -/
def stageDraw (q : Sampler) (cs : List (Nat × B32)) : Nat :=
  drawFrom (.fin false (genG (sSeed q.block) q.counter.toNat / 2 ^ 40) (-24)) 0 cs

/-- The working state of a member whose logits were just read. -/
def freshWork (zs : List B32) : SampWork := { logits := zs, cands := [], token := none, counted := false, stop := false }
/-- Store a member's working state. -/
def setWork (c : Core) (k : Nat) (w : SampWork) : Core := { c with samp := mset c.samp k w }

/-- Run one stage for member `k` on its working state; the logits are the source operand when no stage ran before. -/
def runStage (op k : Nat) (i : Issue) (m : Mod) (f : Sampler → SampWork → SampWork) : Mod :=
  runCompute m 3 op i false badVecFmt (fun x c =>
    match memberSampler x k with
    | none => pure c
    | some q => do
      let old := mget? c.samp k
      match old with
      | some w => pure (setWork c k (f q w))
      | none =>
        let (c1, vs) ← vSource i.scratch x i.word c
        pure (setWork c1 k (f q (freshWork (vs.map cleanLogit)))))

/-- `SAMP_BIAS` begins a member's sampling anew. -/
def doSampBias (i : Issue) (k : Nat) (m : Mod) : Mod :=
  runCompute m 3 0x10 i false badVecFmt (fun x c =>
    match memberSampler x k with
    | none => pure c
    | some q => do
      let (c1, vs) ← vSource i.scratch x i.word c
      pure (setWork c1 k (freshWork (stageBias q (vs.map cleanLogit)))))
/-- `SAMP_PENALTY`. -/
def doSampPenalty (i : Issue) (k : Nat) (m : Mod) : Mod :=
  runStage 0x11 k i m (fun q w => { w with logits := stagePenalty q w.logits })
/-- `SAMP_FILTER`. -/
def doSampFilter (i : Issue) (k : Nat) (m : Mod) : Mod :=
  runStage 0x12 k i m (fun q w =>
    let r := stageFilter q w.logits
    { w with token := r.1, cands := r.2 })
/-- `SAMP_DRAW`: nothing is drawn where the filter chose. -/
def doSampDraw (i : Issue) (k : Nat) (m : Mod) : Mod :=
  runStage 0x13 k i m (fun q w => match w.token with
    | some _ => w
    | none => { w with token := some (stageDraw q w.cands) })
/-- `SAMP_COUNT`: the update of R342 takes effect at commit. -/
def doSampCount (i : Issue) (k : Nat) (m : Mod) : Mod := runStage 0x14 k i m (fun _ w => { w with counted := true })
/-- `SAMP_STOP`. -/
def doSampStop (i : Issue) (k : Nat) (m : Mod) : Mod :=
  runStage 0x15 k i m (fun q w =>
    let st := match w.token.bind (tabEntry? q.table) with
      | some e => eStop e
      | none => false
    { w with stop := st })

/-- `SAMP_BIAS`. -/
def execSampBias (i : Issue) (m : Fin 1024) (s : State) : Host.Outcome State Fault Refusal := lift (doSampBias i m.val) s
/-- `SAMP_PENALTY`. -/
def execSampPenalty (i : Issue) (m : Fin 1024) (s : State) : Host.Outcome State Fault Refusal := lift (doSampPenalty i m.val) s
/-- `SAMP_FILTER`. -/
def execSampFilter (i : Issue) (m : Fin 1024) (s : State) : Host.Outcome State Fault Refusal := lift (doSampFilter i m.val) s
/-- `SAMP_DRAW`. -/
def execSampDraw (i : Issue) (m : Fin 1024) (s : State) : Host.Outcome State Fault Refusal := lift (doSampDraw i m.val) s
/-- `SAMP_COUNT`. -/
def execSampCount (i : Issue) (m : Fin 1024) (s : State) : Host.Outcome State Fault Refusal := lift (doSampCount i m.val) s
/-- `SAMP_STOP`. -/
def execSampStop (i : Issue) (m : Fin 1024) (s : State) : Host.Outcome State Fault Refusal := lift (doSampStop i m.val) s

end Sys2Proof.Machine
end

