-- ==== Sys2Proof/Machine/Cache.lean ====
section
/-! DEFINITION. Sequences, pages, references, leaf tables, store areas (08_sequences_and_kv_cache.md R252-R285). -/
namespace Sys2Proof.Machine
open Sys2Proof

/-! ### Sequences -/

/-- A sequence of a partition by handle. -/
def seqOf? (x : Part) (h : BitVec 32) : Option Seq := x.seqs.find? (fun q => q.handle = h)
/-- Change a sequence within a partition. -/
def pSeq (x : Part) (h : BitVec 32) (f : Seq → Seq) : Part := { x with seqs := x.seqs.map (fun q => if q.handle = h then f q else q) }
/-- Change a sequence of a partition. -/
def updSeq (m : Mod) (p : Nat) (h : BitVec 32) (f : Seq → Seq) : Mod := updPart m p (fun x => pSeq x h f)
/-- Slot of a handle (R252). -/
def hSlot (h : BitVec 32) : Nat := fld h 0 16
/-- Insert a sequence in slot order. -/
def insertSeq (q : Seq) : List Seq → List Seq
  | [] => [q]
  | r :: rs => if hSlot q.handle < hSlot r.handle then q :: r :: rs else r :: insertSeq q rs
/-- `MAX_SEQUENCES` of the loaded plan. -/
def maxSeqs (x : Part) : Nat := match x.plan with
  | some pl => pl.maxSequences
  | none => 0
/-- The free sequence slot an opening takes; the generations issued so far tell one opening from the next. -/
def freeSlot (x : Part) : Option Nat :=
  pickFree 0 (x.gens.map Prod.snd) ((List.range (maxSeqs x)).filter (fun s => x.seqs.all (fun q => hSlot q.handle != s)))
/-- A handle of a slot and generation whose parity is `par` (R252, R98). -/
def mkHandle (slot gen par : Nat) : BitVec 32 :=
  let low := BitVec.ofNat 32 (slot + 65536 * gen)
  BitVec.ofNat 32 (low.toNat + 2 ^ 28 * (handleParity low ^^^ par))
/-- The next generation of a slot, skipping the handles never issued. A root has lineage 0. -/
def nextHandle (x : Part) (slot : Nat) (par : Option Nat) : BitVec 32 × Nat :=
  let g := mget x.gens slot 0
  let mk (g : Nat) : BitVec 32 := match par with
    | some q => mkHandle slot g q
    | none => BitVec.ofNat 32 (slot + 65536 * g)
  let h := mk g
  if h = 0 ∨ h = 0xFFFFFFFF then (mk ((g + 1) % 4096), (g + 2) % 4096) else (h, (g + 1) % 4096)

/-! ### Pages (R267-R271) -/

/-- Page slots of the loaded plan. -/
def pageSlots (x : Part) : Nat := match x.plan with
  | some pl => pl.pageSlots
  | none => 0
/-- The plan has cache cores (R259). -/
def hasCache (x : Part) : Bool := match x.plan with
  | some pl => !pl.pairs.isEmpty
  | none => false
/-- Page slots reserved by unparking commands (R277). -/
def reservedPages (x : Part) : Nat := x.reserved.foldl (fun a r => a + r.2) 0
/-- FREE page slots available for any use. -/
def freePages (x : Part) : Nat := pageSlots x - x.pages.length - reservedPages x
/-- The FREE page slot an allocation takes. -/
def freePage (x : Part) : Nat :=
  (pickFree 1 [x.epoch] ((List.range (pageSlots x)).filter (fun g => (mget? x.pages g).isNone))).getD 0
/-- Allocate a page slot: FILLING, count 1. -/
def allocPage (x : Part) (h : BitVec 32) : Part × Nat :=
  let g := freePage x
  ({ x with pages := mset x.pages g { state := .filling, count := 1, epoch := 0, positions := 0, filler := h, copy := none } }, g)
/-- Change a page slot that is not FREE. -/
def updPage (x : Part) (g : Nat) (f : PageSlot → PageSlot) : Part :=
  match mget? x.pages g with
  | some y => { x with pages := mset x.pages g (f y) }
  | none => x
/-- Add a reference (R268). -/
def addRef (x : Part) (g : Nat) : Part := updPage x g (fun y => { y with count := y.count + 1 })
/-- Drop a reference; at 0 the page is RECLAIM from this epoch on (R267). -/
def dropRef (x : Part) (g : Nat) : Part :=
  updPage x g (fun y => if y.count ≤ 1 then { y with count := 0, state := .reclaim, epoch := x.epoch, copy := none }
    else { y with count := y.count - 1 })
/-- The step epoch advances: RECLAIM pages of epoch s are FREE when epoch s + 2 begins (R271). -/
def advanceEpoch (t : Nat) (x : Part) : Part :=
  { x with epoch := x.epoch + 1, epochTime := t,
           pages := x.pages.filter (fun g => !(g.2.state = .reclaim ∧ g.2.epoch + 2 ≤ x.epoch + 1)) }

/-- Payload of a cache event (R285). -/
def kvPayload (m : Mod) (seq page p reason site count : Nat) : BitVec 192 :=
  payload [(0, 32, seq), (32, 32, page), (64, 4, p), (72, 8, reason), (80, 16, site), (96, 32, count), timeField m]

/-- Post `KV_POOL_LOW` when FREE slots fall below P/64; again only after they exceeded P/32 (R285). -/
def poolCheck (m : Mod) (p : Nat) : Mod :=
  match partOf? m p with
  | none => m
  | some x =>
    let P := pageSlots x
    let n := freePages x
    if ¬ x.poolLow ∧ 64 * n < P then
      post (updPart m p (fun y => { y with poolLow := true })) 0x0504 (some p) (kvPayload m 0xFFFFFFFF n p 0 0xFFFF 0)
    else if x.poolLow ∧ P < 32 * n then updPart m p (fun y => { y with poolLow := false })
    else m

/-! ### Leaf tables and leaves (R260, R261) -/

/-- Leaf tables of a partition. -/
def leafTotal (x : Part) : Nat := 2 * maxSeqs x + 256
/-- Give a sequence leaf tables for `n` logical pages; none when too few are free. -/
def growLeaves (x : Part) (q : Seq) (n : Nat) : Option (Part × Seq) :=
  let need := cdiv n 256
  if need ≤ q.leafTables.length then some (x, q)
  else
    let free := (List.range (leafTotal x)).filter (fun k => !x.leafUsed.contains k)
    let take := pickMany 2 [x.epoch] (need - q.leafTables.length) free
    if take.length + q.leafTables.length < need then none
    else some ({ x with leafUsed := x.leafUsed ++ take }, { q with leafTables := q.leafTables ++ take })
/-- Give back the leaf tables beyond `n` logical pages. -/
def shrinkLeaves (x : Part) (q : Seq) (n : Nat) : Part × Seq :=
  let keep := cdiv n 256
  let gone := q.leafTables.drop keep
  ({ x with leafUsed := x.leafUsed.filter (fun k => !gone.contains k) },
   { q with leafTables := q.leafTables.take keep, leaves := q.leaves.take n })
/-- Set leaf `i`, filling up with EMPTY. -/
def setLeaf (q : Seq) (i : Nat) (l : Leaf) : Seq :=
  let ls := q.leaves ++ List.replicate (i + 1 - q.leaves.length) .empty
  { q with leaves := ls.set i l }
/-- Pages a sequence of this length has (R280). -/
def seqPages (x : Part) (q : Seq) : Nat := if hasCache x then cdiv q.length 256 else 0
/-- The resident pages of a sequence. -/
def residents (q : Seq) : List Nat := q.leaves.filterMap (fun l => match l with
  | .resident g => some g
  | _ => none)
/-- Drop every resident reference of the leaves from logical page `k` on. -/
def dropFrom (x : Part) (q : Seq) (k : Nat) : Part := (residents { q with leaves := q.leaves.drop k }).foldl dropRef x

/-- Store the changed copy of a sequence. -/
def putSeq (x : Part) (q : Seq) : Part := pSeq x q.handle (fun _ => q)

/-! ### The tables in the cache cores (R256, R260, R261) -/

/-- A table line: sixteen 32-bit entries under tag `FORMAT` 0x12. -/
def tableLine (w : Nat → Nat) : Line :=
  BitVec.ofNat 576 (fields ((544, 6, 0x12) :: (List.range 16).map (fun k => (32 * k, 32, w k))))

/-- Entry `e` of the directory of a sequence. -/
def dirWord (q : Seq) (e : Nat) : Nat := match q.leafTables[e]? with
  | some f => fields [(0, 18, f), (18, 1, 1)]
  | none => 0

/-- The entry of a leaf; a page that is LOST reads as a lost one. -/
def leafWord (x : Part) : Leaf → Nat
  | .empty => 0
  | .resident g => if (mget? x.pages g).any (fun y => y.state == .lost) then fields [(24, 3, 3)] else fields [(0, 24, g), (24, 3, 1)]
  | .stored _ => fields [(24, 3, 2)]
  | .lost => fields [(24, 3, 3)]

/-- The directory and the leaf tables of a sequence: lines of the table area. -/
def seqTable (x : Part) (pl : Plan) (q : Seq) : List (Nat × Line) :=
  (List.range 16).map (fun j => (1024 + 16 * hSlot q.handle + j, tableLine (fun k => dirWord q (16 * j + k))))
    ++ q.leafTables.zipIdx.flatMap (fun t => (List.range 16).map (fun j =>
      (1024 + 16 * pl.maxSequences + 16 * t.1 + j, tableLine (fun k => leafWord x (q.leaves.getD (256 * t.2 + 16 * j + k) .empty)))))

/-- The 32 bytes of a member in a batch table. -/
def memberBits (b : Member) : Nat :=
  let c := b.cow.getD (0, 0, 0)
  fields [(0, 32, b.handle.toNat), (32, 32, b.length), (64, 31, b.posOffset), (96, 9, b.new), (112, 1, b2n b.valid),
    (113, 1, b2n b.cow.isSome), (128, 24, c.1), (160, 24, c.2.1), (192, 8, c.2.2)]

/-- The batch table of a step: two tables alternate by the step count (DEDUCED, log entry 31). -/
def batchTable (step : Nat) (bs : List Member) : List (Nat × Line) :=
  (List.range (cdiv bs.length 2)).map (fun j => (512 * (step % 2) + j,
    BitVec.ofNat 576 (fields [(544, 6, 0x12), (0, 256, memberBits (bs.getD (2 * j) emptyMember)),
      (256, 256, memberBits (bs.getD (2 * j + 1) emptyMember))])))

/-- Write table lines into the table area of every cache core, where they differ from what it holds. -/
def putTable (m : Mod) (pl : Plan) (t : List (Nat × Line)) : Mod :=
  (pl.pairs.map (fun k => k.vcore)).eraseDups.foldl (fun m v => match pl.sites[v]?, pl.vcores[v]? with
    | some s, some vc => t.foldl (fun m e =>
        if sliceLine (siteOf m s).slice (vc.poolBase + e.1) = e.2 then m else writeLines m s (vc.poolBase + e.1) [e.2] []) m
    | _, _ => m) m

/-- Ringmaster brings the tables in the cache cores up to its master copy (R256, R260). -/
def writeTables (m : Mod) (p : Nat) : Mod :=
  match partOf? m p with
  | none => m
  | some x => match x.plan with
    | none => m
    | some pl =>
      if pl.pairs.isEmpty then m
      else putTable m pl (x.seqs.flatMap (seqTable x pl) ++ (if x.inStep then batchTable x.stepCount x.batch else [])
        ++ batchTable (x.stepCount + 1) x.nextBatch)

/-! ### Programs (R50) -/

/-- A core that holds nothing but a program. -/
def progCore (ws : List InstrWord) : Core := { Core.reset with prog := (List.range ws.length).zip ws }
/-- Beat programs of a core. -/
def progCount (c : Core) : Nat := progWord c 0 0
/-- The instructions of list `l` of beat program `j`: index and word. -/
def listInstrs (c : Core) (j l : Nat) : List (Nat × InstrWord) :=
  let p := listAt c (headerAt c j) l
  (List.range p.2).map (fun k => (p.1 + k, mget c.prog (p.1 + k) 0))
/-- Every (list, index, word) reachable from a list of any program. -/
def allInstrs (c : Core) : List (Nat × Nat × InstrWord) :=
  (List.range (progCount c)).flatMap (fun j => (List.range 20).flatMap (fun l => (listInstrs c j l).map (fun p => (l, p))))
/-- The core runs sampler stages. -/
def isSampling (ws : List InstrWord) : Bool := (allInstrs (progCore ws)).any (fun p => p.1 == 18 && 0x10 ≤ wOpcode p.2.2 && wOpcode p.2.2 ≤ 0x15)

/-! ### Count tables in the sampling cores (R237, R340, R341) -/

/-- Lines of a count table and its token window. -/
def countLines : Nat := 5120
/-- The lowest free area of the count-table allowance of virtual core `v` (which area, DESIGN CHOICE, log entry 74). -/
def countArea (x : Part) (pl : Plan) (v : Nat) : Option (Nat × Nat) :=
  match pl.vcores[v]? with
  | none => none
  | some vc =>
    if !isSampling vc.prog then none
    else ((List.range (vc.setup.getD 55 0 / countLines)).map (fun k => (v, k))).find? (fun a =>
      x.seqs.all (fun q => q.tableAt != some a))
/-- Where the count table of a sequence that opens lies: on the first sampling core with room. -/
def countPlace (x : Part) : Option (Nat × Nat) :=
  x.plan.bind (fun pl => (List.range pl.vcores.length).findSome? (countArea x pl))
/-- Where the count table of a sequence lies once virtual core `v` samples it: there, where there is room. -/
def countMove (x : Part) (v : Option Nat) (q : Seq) : Option (Nat × Nat) :=
  match v, x.plan with
  | some v, some pl => if q.tableAt.any (fun a => a.1 == v) then q.tableAt else (countArea x pl v).or q.tableAt
  | _, _ => q.tableAt
/-- Line `j` of a count table, 8 entries a line, with its token window after it, 16 tokens a line. -/
def countLine (t : Sampler) (j : Nat) : Line :=
  if j < 4096 then
    BitVec.ofNat 576 (fields ((544, 6, 0x12) :: (List.range 8).map (fun k => (64 * k, 64, (mget t.table (8 * j + k) 0).toNat))))
  else tableLine (fun k => (mget t.ring (16 * (j - 4096) + k) 0).toNat)
/-- Bring the lines of a sequence's count table up to date, where they differ from what the slice holds. -/
def writeCounts (m : Mod) (p : Nat) (h : BitVec 32) : Mod :=
  match (partOf? m p).bind (fun x => x.plan), (partOf? m p).bind (fun x => seqOf? x h) with
  | some pl, some q => match q.tableAt with
    | none => m
    | some a => match pl.sites[a.1]?, pl.vcores[a.1]? with
      | some s, some vc => (List.range countLines).foldl (fun m j =>
          let l := vc.countBase + countLines * a.2 + j
          if sliceLine (siteOf m s).slice l = countLine q.samp j then m else writeLines m s l [countLine q.samp j] []) m
      | _, _ => m
  | _, _ => m

/-! ### Pages that a snapshot still needs (R280) -/

/-- Page `g` has yet to be written for a snapshot. -/
def snapNeeds (t : Snap) (g : Nat) : Bool :=
  t.copies.zipIdx.any (fun e => e.1.isNone && residentPage t.seq e.2 == some g)

/-- A sequence is about to let go of pages, or to change them: those a flushing snapshot still needs are kept for it. -/
def keepSnaps (x : Part) (h : BitVec 32) (gs : List Nat) : Part :=
  let due (t : Snap) : List Nat := if t.seq.handle = h then gs.filter (fun g => snapNeeds t g && !t.held.contains g) else []
  let y : Part := { x with snaps := x.snaps.map (fun t => { t with held := t.held ++ due t }) }
  (x.snaps.flatMap due).foldl addRef y

/-- A snapshot is over: the pages kept for it are released. -/
def endSnap (t : Snap) (x : Part) : Part :=
  t.held.foldl dropRef { x with snaps := x.snaps.filter (fun s => !(s.cid = t.cid && s.ring = t.ring)) }

/-! ### Adapter versions (R334, R335) -/

/-- The newest version of an adapter that is loaded and not retiring. -/
def newestVersion (x : Part) (id : Nat) : Option Nat :=
  let vs := (x.adapters.filter (fun a => a.id = id && !a.retiring && !a.loading)).map (fun a => a.version)
  vs.foldl (fun b v => match b with
    | some w => some (max w v)
    | none => some v) none
/-- A FOLLOW sequence moves to the newest version; it keeps its version when there is no other (R335, R336). -/
def followNewest (x : Part) (q : Seq) : Seq :=
  match q.bind, q.adapter with
  | 1, some a => { q with version := (newestVersion x a).getD q.version }
  | _, _ => q
/-- References of a version: sequences bound to it and the step in progress that uses it. -/
def versionRefs (x : Part) (a : Adapter) : Nat :=
  (x.seqs.filter (fun q => q.adapter = some a.id && q.bind != 0 && q.version = a.version)).length
    + (if x.inStep && x.batch.any (fun b => b.valid && b.version = a.version &&
        (match seqOf? x b.handle with
         | some q => q.adapter = some a.id
         | none => false)) then 1 else 0)

/-! ### Commands of a sequence -/

/-- The oldest pending command of a sequence. -/
def oldestCmd (m : Mod) (q : Seq) : Option (RingRef × Cmd) :=
  match q.pending with
  | (r, cid) :: _ => (cmdOf? m r cid).map (fun c => (r, c))
  | [] => none

/-- A command leaves the queue of its sequence; the next oldest has written no token yet (R324). -/
def unqueue (q : Seq) (e : RingRef × BitVec 16) : Seq :=
  { q with pending := q.pending.filter (fun k => k != e), written := q.written && q.pending.head? != some e }

/-- A sequence without pending commands is OPEN (R254). -/
def settleSeq (q : Seq) : Seq :=
  if q.pending.isEmpty ∧ q.state = .active then { q with state := .opened, hold := false } else q

/-- End the oldest pending command of a sequence with a completion (R254, R303). -/
def endOldest (m : Mod) (p : Nat) (h : BitVec 32) (c : Completion) (r : RingRef) : Mod :=
  complete (updSeq m p h (fun q => settleSeq { q with pending := q.pending.tail, written := false })) r { c with handle := h }

/-- Result completion of a SEQ_APPEND or SEQ_GENERATE: tokens or positions so far, length, stop reason (R303, R304). -/
def runResult (c : Cmd) (q : Seq) (st : Status) (stop : Nat) : Completion :=
  { (compl c.entry.cid st) with
    handle := q.handle, result0 := c.done, result1 := q.length,
    detail := if c.entry.opcode = 0x03 then stop else 0 }

/-- End every pending command of a sequence with a status (R254, R283). -/
def endPending (m : Mod) (p : Nat) (h : BitVec 32) (st : Status) (stop : Nat) (result1 : Nat) : Mod :=
  match (partOf? m p).bind (fun x => seqOf? x h) with
  | none => m
  | some q =>
    let m1 := updSeq m p h (fun q => settleSeq { q with pending := [], written := false })
    q.pending.foldl (fun m rc => match cmdOf? m rc.1 rc.2 with
      | some c => complete m rc.1 { (runResult c q st stop) with result1 := result1 }
      | none => m) m1

/-! ### Loss of cache (R283) -/

/-- A LOST page without a current store copy. -/
def lostUncopied (x : Part) (l : Leaf) : Bool :=
  match l with
  | .resident g => (match mget? x.pages g with
    | some y => y.state = .lost && y.copy.isNone
    | none => true)
  | .lost => true
  | _ => false
/-- A leaf that names a LOST page. -/
def leafLost (x : Part) (l : Leaf) : Bool :=
  match l with
  | .resident g => (match mget? x.pages g with
    | some y => y.state = .lost
    | none => true)
  | .lost => true
  | _ => false
/-- The last good position G (R283) and the page the event names. -/
def lastGood (x : Part) (q : Seq) : Nat × Nat :=
  match (q.leaves.take (seqPages x q)).findIdx? (lostUncopied x) with
  | some j => (256 * j, j)
  | none => (q.length, cdiv q.length 256)

/-- A ring pair by numbers. -/
def ringOf (p q : Nat) : RingRef := .part (Fin.ofNat 16 p) (Fin.ofNat 64 q)
/-- The commands of a partition with their pairs. -/
def ringCmds (p : Nat) (x : Part) : List (RingRef × Cmd) := x.pairs.flatMap (fun q => q.2.cmds.map (fun c => (ringOf p q.1, c)))
/-- The running SEQ_PARK (6), SEQ_UNPARK (7) or SEQ_SNAPSHOT (0x0B) of a sequence. -/
def runningOf (p : Nat) (x : Part) (op : Byte) (h : BitVec 32) : Option (RingRef × Cmd) :=
  (ringCmds p x).find? (fun rc => rc.2.entry.opcode = op && rc.2.phase = .running && rc.2.entry.handle = h)
/-- End the running SEQ_PARK, SEQ_UNPARK and SEQ_SNAPSHOT commands of a sequence. -/
def endTransfers (m : Mod) (p : Nat) (h : BitVec 32) (st : Status) (result1 : Nat) : Mod :=
  match partOf? m p with
  | none => m
  | some x =>
    let m1 := updPart m p (fun y => (y.snaps.filter (fun t => t.seq.handle = h)).foldl (fun z t => endSnap t z) { y with
      reserved := y.reserved.filter (fun r => r.1 != h), storeReads := y.storeReads.filter (fun r => r.handle != h) })
    [6, 7, 0x0B].foldl (fun m op => match runningOf p x op h with
      | some (r, c) =>
        let k := compl c.entry.cid st
        complete m r { k with handle := h, result0 := c.done, result1 := result1 }
      | none => m) m1

/-- A sequence loses cache: LOST, event, pending commands STATE_LOST reporting G, its transfers stop. -/
def loseSeq (m : Mod) (p site : Nat) (h : BitVec 32) : Mod :=
  match (partOf? m p), (partOf? m p).bind (fun x => seqOf? x h) with
  | some x, some q =>
    let g := lastGood x q
    let m1 := post m 0x0502 (some p) (kvPayload m h.toNat g.2 p 0 site g.1)
    let m2 := endTransfers (endPending m1 p h .stateLost 4 g.1) p h .stateLost g.1
    updPart m2 p (fun y => pSeq y h (fun q => { q with state := .lost, hold := false, pausedBefore := false }))
  | _, _ => m

/-- Mark pages LOST, and treat every sequence that names one (R267, R283). -/
def losePages (m : Mod) (p site : Nat) (gs : List Nat) : Mod :=
  let m1 := updPart m p (fun x => { x with pages := x.pages.map (fun g =>
    if gs.contains g.1 ∧ (g.2.state = .filling ∨ g.2.state = .full) then (g.1, { g.2 with state := .lost }) else g) })
  match partOf? m1 p with
  | some x => writeTables ((x.seqs.filter (fun q => q.state != .lost && (residents q).any (fun g => gs.contains g))).foldl
      (fun m q => loseSeq m p site q.handle) m1) p
  | none => m1

/-! ### Store areas (R275) -/

/-- Pairs of a partition, twins apart. -/
def planPairs (pl : Plan) : List KvPair := pl.pairs.filter (fun k => !k.twin)
/-- Lines of one page (R275). -/
def pageLines (pl : Plan) : Nat := match packedOf pl.cacheFormat with
  | some f => 2 * runLen f * (planPairs pl).length
  | none => 0
/-- Bytes of a store slot. -/
def slotBytes (pl : Plan) : Nat := 4096 * cdiv (64 + 72 * pageLines pl) 4096
/-- Insert a pair in (layer, head) order. -/
def insertPair (k : KvPair) : List KvPair → List KvPair
  | [] => [k]
  | y :: ys => if y.layer < k.layer ∨ (y.layer = k.layer ∧ y.head ≤ k.head) then y :: insertPair k ys else k :: y :: ys
/-- The pairs in ascending (layer, head) order. -/
def sortedPairs (pl : Plan) : List KvPair := (planPairs pl).foldl (fun l k => insertPair k l) []
/-- `PAIR_DIGEST`: the first 32 bytes of the digest of the pair list. -/
def pairDigest (pl : Plan) : List Byte :=
  (digestBytes (sha512 ((sortedPairs pl).flatMap (fun k => leBytes 2 k.layer ++ leBytes 2 k.head)))).take 32
/-- The store copies some open sequence still names, RESIDENT or STORED. -/
def namedCopies (x : Part) : List StoreCopy :=
  x.seqs.flatMap (fun q => q.leaves.filterMap (fun l => match l with
    | .resident g => (mget? x.pages g).bind (fun y => y.copy)
    | .stored c => some c
    | _ => none))
/-- Slot `j` of a store area is free for a record (R275); writes on their way count as taken. -/
def slotFree (x : Part) (pl : Plan) (base j : Nat) : Bool :=
  !(namedCopies x).any (fun c => c.location = base + j * slotBytes pl)
    && !x.storeWrites.any (fun w => w.location = base + j * slotBytes pl)
/-- Slot for logical page `i`: slot `i` if it can be, else the lowest free slot. -/
def chooseSlot (x : Part) (pl : Plan) (q : Seq) (i : Nat) : Option Nat :=
  if q.storePages = 0 then none
  else if i < q.storePages ∧ slotFree x pl q.storeBase i then some i
  else (List.range q.storePages).find? (fun j => slotFree x pl q.storeBase j)

/-- The line bytes of a page, read from its frame slots: pairs in order, keys then values (R275). -/
def pageBytes (m : Mod) (pl : Plan) (g : Nat) : List Byte :=
  match packedOf pl.cacheFormat with
  | none => []
  | some f => (sortedPairs pl).flatMap (fun k =>
      match frameLine pl f k.vcore false k.layer k.head g, pl.sites[k.vcore]? with
      | some a, some s => (List.range (2 * runLen f)).flatMap (fun j => lineBytes (sliceLine (siteOf m s).slice (a + j)))
      | _, _ => [])

/-- A page record (R275). -/
def pageRecord (pl : Plan) (positions : Nat) (h : BitVec 32) (slot : Nat) (bytes : List Byte) : List Byte :=
  leBytes 4 0x52475041 ++ leBytes 2 positions ++ leBytes 1 pl.cacheFormat ++ leBytes 1 0 ++ leBytes 4 (planPairs pl).length
    ++ leBytes 4 (pageLines pl) ++ leBytes 4 h.toNat ++ leBytes 4 slot ++ leBytes 4 (crc32c bytes).toNat ++ leBytes 4 0
    ++ pairDigest pl ++ bytes

/-- Begin writing page `g`, logical page `i` of a sequence, as a record to its store area (R276): the page takes a transfer
reference, and the record goes to host memory, or as class 2 messages to the store (R373). None when no slot is free. -/
def startStoreWrite (m : Mod) (p purpose : Nat) (h : BitVec 32) (i g : Nat) : Option Mod :=
  match partOf? m p with
  | none => none
  | some x =>
    match x.plan, seqOf? x h, mget? x.pages g with
    | some pl, some q, some y =>
      match chooseSlot x pl q i with
      | some j =>
        let bytes := pageBytes m pl g
        let loc := q.storeBase + j * slotBytes pl
        let rec_ := pageRecord pl y.positions h j bytes
        let w : StoreWrite := { purpose := purpose, handle := h, page := i, slotPage := g, slot := j, location := loc,
                                crc := crc32c bytes, positions := y.positions, stale := false }
        let m1 := updPart m p (fun y => { addRef y g with storeWrites := y.storeWrites ++ [w] })
        let node := loc / 2 ^ 56 % 256
        if node = 0xFF ∨ node = m.nodeId then
          some (updHost m1 (partHost x) (fun y => hostWrite y (loc % 2 ^ 52) rec_))
        else
          some (remoteAccess m1 (groupTo m1 x node) node 0 true 2 (loc % 2 ^ 56) (cdiv rec_.length 72)
            (bytesLines rec_) p none 0 0)
      | none => none
    | _, _, _ => none

end Sys2Proof.Machine
end

