-- ==== Sys2Proof/Machine/Levels.lean ====
section
/-! DEFINITION. Layer-format levels taking effect at switch boundaries (04_error_watch_and_widening.md R135-R144). -/
namespace Sys2Proof.Machine
open Sys2Proof

/-- The layer table entry of a layer (R234). -/
def layerEntry (x : Part) (layer : Nat) : Option LayerEntry := x.plan.bind (fun pl => pl.layers.find? (fun e => e.layer = layer))

/-- The change is a level change, which takes effect at a switch boundary only (R135). -/
def isLevelKind (t : Staged) : Bool :=
  match t.kind with
  | .level _ _ _ _ => true
  | _ => false

/-- The change switches route tables, and is gone with the plan (R184, R440). -/
def isPlanKind (t : Staged) : Bool :=
  match t.kind with
  | .swap _ => true
  | .epoch => true
  | _ => false

/-- Payload of an error-watch event (R144). -/
def layerPayload (p layer old new cause site step score seq : Nat) : BitVec 192 :=
  payload [(0, 12, layer), (16, 4, p), (24, 3, old), (27, 3, new), (32, 8, cause), (48, 16, site), (64, 64, step),
    (128, 32, sat32 score), (160, 32, seq)]

/-- Change the state of a layer. -/
def updLayer (m : Mod) (p layer : Nat) (f : LayerSt → LayerSt) : Mod :=
  updPart m p (fun x => match mget? x.layers layer with
    | some l => { x with layers := mset x.layers layer (f l) }
    | none => x)

/-- Layers that rose in the aligned window of 256 steps in progress. -/
def rose (x : Part) : Nat := (x.layers.filter (fun l => l.2.roseWindow == some (x.stepCount / 256))).length

/-- Post `WIDEN_MASS` once for a window in which more than half of the layers rose (R142). -/
def massCheck (m : Mod) (p : Nat) : Mod :=
  match partOf? m p with
  | none => m
  | some x =>
    if x.layers.length < 2 * rose x ∧ x.massPosted ≠ some (x.stepCount / 256) then
      post (updPart m p (fun y => { y with massPosted := some (y.stepCount / 256) })) 0x0106 (some p)
        (layerPayload p (rose x) 0 0 0 0xFFFF x.stepCount 0 0xFFFFFFFF)
    else m

/-- A committed level change takes effect (R138, R140): the streak, the clean run and `PENDING` are reset; a fall clears
`CAPPED`. -/
def applyLevel (p : Nat) (m : Mod) (st : Staged) : Mod :=
  match st.kind, partOf? m p with
  | .level layer new cause step, some x =>
    match mget? x.layers layer with
    | none => m
    | some l =>
      let up := decide (l.level < new)
      let m1 := updLayer m p layer (fun l => { l with
        level := new, capped := l.capped && up, pending := false, streak := 0, clean := 0, changeStep := x.stepCount,
        roseWindow := if up then some (x.stepCount / 256) else l.roseWindow })
      let m2 := updPart m1 p (fun y => { y with staged := y.staged.filter (fun t => t != st) })
      let m3 := post m2 (if up then 0x0101 else 0x0102) (some p)
        (layerPayload p layer l.level new cause 0xFFFF step l.lastScore 0xFFFFFFFF)
      if up then massCheck m3 p else m3
  | _, _ => m

/-- The beat at schedule position `pos` of bucket `b` begins at a layer's switch boundary (R135). -/
def switchesAt (x : Part) (b pos : Nat) (st : Staged) : Bool :=
  match st.kind with
  | .level layer _ _ _ => st.committed && (layerEntry x layer).any (fun e => e.switchBeat.getD b 0xFFFF == pos)
  | _ => false

/-- Level changes that take effect at the boundary before a beat (R135, R138). -/
def applyLevels (m : Mod) (p b pos : Nat) : Mod :=
  match partOf? m p with
  | some x => (x.staged.filter (switchesAt x b pos)).foldl (applyLevel p) m
  | none => m

end Sys2Proof.Machine
end

