-- ==== Sys2Proof/Machine/Rings.lean ====
section
/-! DEFINITION. Ring pairs: doorbells, fetching, completions, interrupts (09_host_rings_and_commands.md R294-R302,
R318). -/
namespace Sys2Proof.Machine
open Sys2Proof

/-! ### Rings -/

/-- Submission entries. -/
def sqSize (p : Pair) : Nat := 2 ^ p.sqLog2
/-- Completion entries. -/
def cqSize (p : Pair) : Nat := 2 ^ p.cqLog2
/-- Commands fetched and not yet completed (R294). -/
def outstanding (p : Pair) : Nat :=
  (p.cmds.filter (fun c => !(c.phase = .completed) && !(c.abortBy.any (fun a => isAdmin a.1 && a.2 == c.entry.cid)))).length
/-- Distance from `a` forward to `b` on a ring. -/
def ringDist (size a b : Nat) : Nat := (b % size + size - a % size) % size

/-- A pair enters ERROR (R294-R297): completed commands and their completions are discarded. -/
def pairError (m : Mod) (r : RingRef) (cause : Nat) : Mod :=
  let m1 := updPair m r (fun p => { p with
    state := .error, error := cause, reserve := 0, outbox := [], heldWrites := [], sentWrites := [], sentCompls := [], cqFull := false, posted := [],
    cmds := p.cmds.filter (fun c => !(c.phase = .completed)) })
  match r with
  | .admin _ => m1
  | .part p q => updPart m1 p.val (fun x => { x with pairErr := setBit x.pairErr q.val true })

/-- The link of a pair's host site carries traffic. -/
def ringLink (m : Mod) (r : RingRef) : Bool := (hostOf m (ringHost m r)).linkUp

/-- `SQ_TAIL_DOORBELL` (R296). -/
def doSqTail (r : RingRef) (v : Nat) (m : Mod) : Mod :=
  let p := pairOf m r
  if p.state ≠ .active then m
  else if sqSize p ≤ v then pairError m r 3
  else if sqSize p - 1 - ringDist (sqSize p) p.sqHead p.sqTail < ringDist (sqSize p) p.sqTail v then pairError m r 3
  else updPair m r (fun q => { q with sqTail := v })

/-- A command stays known until every completion it has had or will have is consumed (R297, R301). -/
def stillKnown (p : Pair) (c : Cmd) : Bool :=
  !(c.phase = .completed) || p.posted.contains c.entry.cid || p.outbox.any (fun o => o.cid = c.entry.cid)

/-- `CQ_HEAD_DOORBELL` (R296, R297). -/
def doCqHead (r : RingRef) (v : Nat) (m : Mod) : Mod :=
  let p := pairOf m r
  if p.state ≠ .active then m
  else if cqSize p ≤ v then pairError m r 3
  else
    let d := ringDist (cqSize p) p.cqHead v
    if ringDist (cqSize p) p.cqHead p.cqTail < d then pairError m r 3
    else updPair m r (fun q =>
      let q1 := { q with cqHead := v, posted := q.posted.drop d, cqFull := q.cqFull && d == 0 }
      { q1 with cmds := q1.cmds.filter (stillKnown q1) })

/-! ### Fetching (R297, R298) -/

/-- A submission entry from its 64 bytes. -/
def parseEntry (bs : List Byte) : SqEntry :=
  { opcode := bs.getD 0 0, flags := bs.getD 1 0, cid := BitVec.ofNat 16 (leAt bs 2 2),
    handle := BitVec.ofNat 32 (leAt bs 4 4), addr0 := BitVec.ofNat 64 (leAt bs 8 8),
    addr1 := BitVec.ofNat 64 (leAt bs 16 8), len0 := BitVec.ofNat 32 (leAt bs 24 4),
    len1 := BitVec.ofNat 32 (leAt bs 28 4), args := BitVec.ofNat 256 (leAt bs 32 32) }

/-- Opcodes a ring accepts (R303, R308). -/
def opcodeOn : RingRef → Nat → Bool
  | .admin _, op => [0x19, 0x1F, 0x40, 0x41, 0x42, 0x43, 0x44, 0x48, 0x49, 0x4A, 0x4B, 0x50, 0x51, 0x54, 0x58, 0x5C].contains op
  | .part _ _, op => (1 ≤ op && op ≤ 0xB) || [0x10, 0x11, 0x18, 0x19, 0x1A, 0x1F, 0x20, 0x21].contains op

/-- Register a fetched entry as a known command. -/
def register (m : Mod) (r : RingRef) (e : SqEntry) : Mod :=
  updPair { m with fetchNo := m.fetchNo + 1 } r (fun p => { p with cmds := p.cmds ++
    [{ entry := e, phase := .decoded, fetchNo := m.fetchNo, decodeTime := m.time, done := 0, toks := [], bad := false,
       abortBy := none }] })

/-- Decode a fetched entry: a duplicate CID, a reserved flag or an opcode the ring does not take completes with
BAD_DESCRIPTOR (R297, R298, R308). -/
def decodeFetched (m : Mod) (r : RingRef) (e : SqEntry) : Mod :=
  if (cmdOf? m r e.cid).isSome then pushCompl m r (compl e.cid .badDescriptor)
  else
    let m1 := register m r e
    if fld e.flags 1 7 ≠ 0 ∨ ¬ opcodeOn r e.opcode.toNat then completeS m1 r e.cid .badDescriptor else m1

/-- The pair fetches: it is in service, its ring holds an entry, and fewer than 2^`CQ_LOG2` - 1 commands are outstanding
(R297). -/
def canFetch (m : Mod) (r : RingRef) : Bool :=
  let p := pairOf m r
  p.state == .active && rmAlive m && p.sqHead != p.sqTail && ringLink m r && decide (outstanding p < cqSize p - 1)

/-- Host address of the next entry to fetch. -/
def headAddr (p : Pair) : Nat := p.sqBase.toNat + 64 * p.sqHead

/-- Fetch the entry at the head, whose content is `e`, and decode it; a fetch that the host bus rejects is an error (R297). -/
def fetchEntry (m : Mod) (r : RingRef) (e : SqEntry) : Mod :=
  if rejected (hostOf m (ringHost m r)) (headAddr (pairOf m r)) 64 then pairError m r 1
  else decodeFetched (updPair m r (fun q => { q with sqHead := (q.sqHead + 1) % sqSize q })) r e

/-- `SQ_ENTRY_FETCH`: fetch and decode the next entry (R297). -/
def doSqEntryFetch (r : RingRef) (h : HostSide) (m0 : Mod) : Mod :=
  let m := applySide m0 (ringHost m0 r) h
  if canFetch m r then fetchEntry m r (parseEntry (hostRead (hostOf m (ringHost m r)) (headAddr (pairOf m r)) 64)) else m

/-! ### Completing (R299, R318) -/

/-- The 32 bytes of a completion entry (R299). -/
def complBytes (p : Pair) (pair : Nat) (c : Completion) : List Byte :=
  leBytes 2 c.cid.toNat ++ leBytes 2 p.sqHead ++ leBytes 1 (statusCode c.status) ++ leBytes 1 (b2n p.phase + 2 * b2n c.final)
    ++ leBytes 1 pair ++ leBytes 1 c.detail ++ leBytes 4 c.handle.toNat ++ leBytes 4 c.result0 ++ leBytes 8 c.result1
    ++ leBytes 8 c.time

/-- Number of a pair in its completions. -/
def pairNo : RingRef → Nat
  | .admin _ => 0
  | .part _ q => q.val

/-- The target's ring of an ABORT. -/
def targetRing (r : RingRef) (q : Nat) : RingRef :=
  match r with
  | .admin h => .admin h
  | .part p _ => .part p (Fin.ofNat 64 q)

/-- The completion of an ABORT whose target's completion is not yet written: the target's comes first (R312). -/
def targetUnwritten (m : Mod) (r : RingRef) (c : Completion) : Bool :=
  (cmdOf? m r c.cid).any (fun d =>
    let tr := targetRing r (argN d.entry 0 1)
    d.entry.opcode == 0x1F && tr != r
      && (pairOf m tr).outbox.any (fun o => o.cid == BitVec.ofNat 16 (argN d.entry 2 2)))

/-- Write the oldest completion to the completion ring, and raise the vector when the count is reached or `COAL_US` is 0
(R297, R299, R318). -/
def postOne (r : RingRef) (m : Mod) : Mod :=
  let p := pairOf m r
  match p.outbox with
  | [] => m
  | c :: rest =>
    if p.state ≠ .active ∨ pairHeld m r ∨ ¬ ringLink m r ∨ targetUnwritten m r c then m
    else
      let tail' := (p.cqTail + 1) % cqSize p
      let a := p.cqBase.toNat + 32 * p.cqTail
      if tail' = p.cqHead then updPair m r (fun q => { q with cqFull := true })
      else if rejected (hostOf m (ringHost m r)) a 32 then pairError m r 2
      else
        let m1 := updHost m (ringHost m r) (fun x => hostWrite x a (complBytes p (pairNo r) c))
        let un := p.unannounced + 1
        let fire : Bool := max 1 p.coalCount ≤ un || p.coalUs == 0
        let m2 := updPair m1 r (fun q => { q with
          outbox := rest, cqTail := tail', phase := if tail' = 0 then !q.phase else q.phase, cqFull := false,
          posted := q.posted ++ [c.cid], unannounced := if fire then 0 else un,
          oldest := if q.unannounced = 0 then m.time else q.oldest })
        let m3 := noteOutput m2 r [] [c]
        if fire then raiseVector m3 r p.vector else m3

/-- Write up to `n` waiting completions of a pair. -/
def postMany (r : RingRef) : Nat → Mod → Mod
  | 0, m => m
  | n + 1, m => postMany r n (postOne r m)

/-- `COMPLETION_POST`. -/
def doCompletionPost (r : RingRef) (h : HostSide) (m : Mod) : Mod := postOne r (applySide m (ringHost m r) h)

/-- `IRQ_COALESCE_TIMEOUT`: the oldest unannounced completion has waited `COAL_US` (R318). -/
def doIrqTimeout (r : RingRef) (m : Mod) : Mod :=
  let p := pairOf m r
  if p.unannounced = 0 then m
  else raiseVector (updPair m r (fun q => { q with unannounced := 0 })) r p.vector

/-! ### Taking a command -/

/-- Bits of the arguments outside the fields a command uses are 0, and so are the handle, the buffers and the lengths
it does not use; a buffer it uses is 8-byte aligned (R11, R298). `used` lists (first bit, width). -/
def entryClean (e : SqEntry) (handle buf0 buf1 : Bool) (used : List (Nat × Nat)) : Bool :=
  (handle || e.handle == 0) && (if buf0 then e.addr0.toNat % 8 == 0 else e.addr0 == 0 && e.len0 == 0)
    && (if buf1 then e.addr1.toNat % 8 == 0 else e.addr1 == 0 && e.len1 == 0)
    && (used.foldl (fun a u => putFld a u.1 u.2 0) e.args) == 0

/-- Some earlier command of the pair has not completed (R298 `ORDERED`). -/
def orderedWaits (p : Pair) (c : Cmd) : Bool :=
  bit c.entry.flags 0 && p.cmds.any (fun d => d.fetchNo < c.fetchNo && !(d.phase = .completed))

/-- Let a command wait. -/
def waitCmd (m : Mod) (r : RingRef) (c : Cmd) : Mod := updCmd m r c.entry.cid (fun d => { d with phase := .waiting })
/-- Note that a command has started and goes on. -/
def runningCmd (m : Mod) (r : RingRef) (c : Cmd) : Mod := updCmd m r c.entry.cid (fun d => { d with phase := .running })

/-- After a SHUTDOWN is decoded every command but QUERY, ABORT, LEDGER_READ and PARTNER_LIST is turned away (R487). -/
def shutOut (m : Mod) (c : Cmd) : Bool :=
  m.startup.shutdown && c.phase == .decoded && !(([0x19, 0x1F, 0x50, 0x58] : List Nat).contains c.entry.opcode.toNat)

/-- Bytes a state record says it has (R280); the first 16 hold it. -/
def recordLen (hs : HostSite) (e : SqEntry) : Nat := leAt (hostRead hs e.addr0.toNat 16) 8 8

/-- The longest tokens list a SEQ_GENERATE may write. -/
def genBytes (e : SqEntry) : Nat := 8 + 4 * argN e 0 4

/-- A SEQ_OPEN whose buffer is shorter than its content: a block of 256 bytes, or a state record (R298). -/
def openShort (hs : HostSite) (e : SqEntry) : Bool :=
  if bit e.args 104 then decide (e.len0.toNat < 128) || decide (e.len0.toNat < recordLen hs e) else decide (e.len0.toNat < 256)

/-- A buffer shorter than its command requires, found at decode: the completion (R298). The size of an ATTEST, SEQ_SNAPSHOT or
firmware buffer is known when the command acts (log entry 26). -/
def lenFault (hs : HostSite) (e : SqEntry) : Option Completion :=
  let bad (b : Bool) (d : Nat) : Option Completion := if b then some { (compl e.cid .badDescriptor) with handle := e.handle, detail := d } else none
  let small (len n : Nat) : Option Completion :=
    if len < n then some { (compl e.cid .refusedResources) with handle := e.handle, result1 := n } else none
  match e.opcode.toNat with
  | 0x01 => bad (openShort hs e) 0
  | 0x02 => bad (e.len0.toNat < 4) 0
  | 0x03 => small e.len0.toNat (genBytes e)
  | 0x10 => bad (e.len0.toNat < 64) 0
  | 0x20 => small e.len1.toNat 64
  | 0x40 => bad (e.len0.toNat < 128 + 8 * argN e 4 4) 1
  | 0x44 => small e.len0.toNat 256
  | 0x4A => bad (e.len0.toNat ≠ 4096) 0
  | 0x4B => small e.len0.toNat 4096
  | _ => none

/-- A command that `ORDERED` holds back waits; one whose buffer is too short completes at its decode all the same (R298). -/
def holdOrdered (m : Mod) (r : RingRef) (c : Cmd) : Mod :=
  match lenFault (hostOf m (ringHost m r)) c.entry with
  | some k => complete m r k
  | none => waitCmd m r c

/-- Start a decoded or waiting command unless `ORDERED` holds it back. -/
def startCmd (m : Mod) (r : RingRef) (c : Cmd) (f : Mod → RingRef → Cmd → Mod) : Mod :=
  if shutOut m c then completeS m r c.entry.cid .notPermitted
  else if orderedWaits (pairOf m r) c then holdOrdered m r c
  else f m r c

/-- The command row of an entry; Ringmaster takes it while a member is active (R462). The entry was fetched and decoded
before, or the row stands for its fetch and decode too (log entry 26); then it starts. -/
def takeCmd (r : RingRef) (e : SqEntry) (h : HostSide) (op : Nat) (f : Mod → RingRef → Cmd → Mod) (m0 : Mod) : Mod :=
  let m := applySide m0 (ringHost m0 r) h
  if e.opcode.toNat ≠ op ∨ ¬ rmAlive m then m
  else match cmdOf? m r e.cid with
    | some c =>
      if c.entry = e ∧ (c.phase = .decoded ∨ c.phase = .waiting) then startCmd m r c f
      else if canFetch m r then fetchEntry m r e else m
    | none =>
      if canFetch m r then
        let m1 := fetchEntry m r e
        match cmdOf? m1 r e.cid with
        | some c => if c.phase = .decoded then startCmd m1 r c f else m1
        | none => m1
      else m

/-- A command of a partition's ring (R308): on another ring it completes with BAD_DESCRIPTOR. -/
def onPart (m : Mod) (r : RingRef) (c : Cmd) (f : Nat → Part → Mod) : Mod :=
  match r with
  | .admin _ => completeS m r c.entry.cid .badDescriptor
  | .part p _ => match partOf? m p.val with
    | some x => f p.val x
    | none => m

/-- A command of an admin ring. -/
def onAdmin (m : Mod) (r : RingRef) (c : Cmd) (f : Nat → Mod) : Mod :=
  match r with
  | .admin h => f h.val
  | .part _ _ => completeS m r c.entry.cid .badDescriptor

/-! ### The commands -/

/-- `SQ_TAIL_DOORBELL`. -/
def execSqTailDoorbell (r : RingRef) (value : BitVec 16) (s : State) : Host.Outcome State Fault Refusal :=
  lift (viaRing r (doSqTail r value.toNat)) s
/-- `CQ_HEAD_DOORBELL`. -/
def execCqHeadDoorbell (r : RingRef) (value : BitVec 16) (s : State) : Host.Outcome State Fault Refusal :=
  lift (viaRing r (doCqHead r value.toNat)) s
/-- `SQ_ENTRY_FETCH`. -/
def execSqEntryFetch (r : RingRef) (h : HostSide) (s : State) : Host.Outcome State Fault Refusal := lift (doSqEntryFetch r h) s
/-- `COMPLETION_POST`. -/
def execCompletionPost (r : RingRef) (h : HostSide) (s : State) : Host.Outcome State Fault Refusal :=
  lift (doCompletionPost r h) s
/-- `IRQ_COALESCE_TIMEOUT`. -/
def execIrqCoalesceTimeout (r : RingRef) (s : State) : Host.Outcome State Fault Refusal := lift (doIrqTimeout r) s

end Sys2Proof.Machine
end

