-- ==== Sys2Proof/Machine/Steps.lean ====
section
/-! DEFINITION. The step scheduler, beginning a step, committing a step (08 R256-R271, 10 R323-R335). -/
namespace Sys2Proof.Machine
open Sys2Proof

/-! ### Candidates (R323, R324) -/

/-- Members of bucket `b` (R50). -/
def bucketSize (b : Nat) : Nat := 4 ^ b
/-- Largest bucket of a mode in members (R389). -/
def modeLargest : Mode → Nat
  | .latency => 16
  | _ => 1024
/-- B_max of R326 as a bucket number. -/
def bMax (pl : Plan) (md : Mode) : Nat :=
  ((pl.buckets.filter (fun b => bucketSize b ≤ modeLargest md)).getLast?).getD (pl.buckets.headD 0)
/-- Smallest compiled bucket of at least `n` members, else the largest. -/
def bucketFor (pl : Plan) (n : Nat) : Nat :=
  (pl.buckets.find? (fun b => n ≤ bucketSize b)).getD (pl.buckets.getLastD 0)
/-- Band of a total of new positions (R325). -/
def bandOf (n : Nat) : Nat := if n = 0 then 0 else log2 n + 1
/-- T(b, n): the largest of the last 8 step times (R325); none without a measurement. -/
def predicted (x : Part) (b n : Nat) : Option Nat :=
  (x.predictions.find? (fun e => e.1 = b && e.2.1 = n)).bind (fun e => e.2.2.foldl (fun a t => some (max (a.getD 0) t)) none)
/-- Record a measured step time. -/
def measure (x : Part) (b n t : Nat) : Part :=
  let old := ((x.predictions.find? (fun e => e.1 = b && e.2.1 = n)).map (fun e => e.2.2)).getD []
  let new_ := (t :: old).take 8
  { x with predictions := x.predictions.filter (fun e => !(e.1 = b && e.2.1 = n)) ++ [(b, n, new_)] }

/-- Commands known on the pairs of a partition, in fetch order. -/
def partCmds (x : Part) : List Cmd := x.pairs.flatMap (fun p => p.2.cmds)
/-- The valid member of the step in progress that is this sequence. -/
def memberNow (x : Part) (h : BitVec 32) : Option Member :=
  if x.inStep then x.batch.find? (fun b => b.valid && b.handle = h) else none
/-- Positions the step in progress adds to a sequence. -/
def newNow (x : Part) (h : BitVec 32) : Nat := ((memberNow x h).map (fun b => b.new)).getD 0
/-- `MAX_TOKENS` of a SEQ_GENERATE. -/
def maxTokens (e : SqEntry) : Nat := argN e 0 4
/-- A token of a SEQ_APPEND buffer with a non-zero bit above 19 (R303). -/
def badToken (t : BitVec 32) : Bool := fld t 20 12 != 0

/-- Positions a command has left once the step in progress commits. -/
def cmdLeft (x : Part) (c : Cmd) (h : BitVec 32) : Nat :=
  (if c.entry.opcode = 0x03 then maxTokens c.entry - c.done else c.toks.length) - newNow x h
/-- Positions the next step takes of a command: one token, or up to 256 appended tokens before a bad one (R326, R253). -/
def cmdNew (x : Part) (c : Cmd) (h : BitVec 32) : Nat :=
  if c.entry.opcode = 0x03 then 1
  else (((c.toks.drop (newNow x h)).takeWhile (fun t => !badToken t)).take 256).length

/-- A candidate: its sequence, the pair and command, the positions it takes, its deadline. -/
structure Cand where
  q : Seq
  r : RingRef
  c : Cmd
  new : Nat
  deadline : Option Nat

/-- The present end of step s: the predicted one while it runs, else now (R324, R326). -/
def endOfStep (m : Mod) (x : Part) : Nat :=
  if x.inStep then
    x.stepStart + (predicted x x.bucket (bandOf (x.batch.foldl (fun a b => a + (if b.valid then b.new else 0)) 0))).getD 0
  else m.time

/-- Deadline of a candidate (R324); none is infinity. -/
def deadlineOf (m : Mod) (x : Part) (q : Seq) (c : Cmd) : Option Nat :=
  let t := x.classes.getD q.cls ⟨0, 0, 0, 0, 0, 0⟩
  let now := (memberNow x q.handle).isSome
  if c.entry.opcode = 0x03 ∧ (q.written ∨ now) then
    if t.itlUs = 0 then none else some ((if now then endOfStep m x else q.lastTime) + 1000 * t.itlUs)
  else if t.ftlUs = 0 then none else some (c.decodeTime + 1000 * t.ftlUs)

/-- An ABORT or SEQ_CLOSE acts on the sequence at the next boundary. -/
def stopsNext (x : Part) (q : Seq) (c : Cmd) : Bool :=
  c.abortBy.isSome || (partCmds x).any (fun d => d.entry.opcode = 0x0A && d.phase = .waiting && d.entry.handle = q.handle)

/-- Candidates for the next step (R323). -/
def candidates (m : Mod) (x : Part) : List Cand :=
  x.seqs.filterMap (fun q =>
    if q.state = .active ∧ q.tableReady then
      match oldestCmd m q with
      | some (r, c) =>
        let n := cmdNew x c q.handle
        if (c.entry.opcode = 0x02 ∨ c.entry.opcode = 0x03) ∧ c.phase = .running ∧ ¬ stopsNext x q c
            ∧ 0 < cmdLeft x c q.handle ∧ 0 < n then
          some { q := q, r := r, c := c, new := n, deadline := deadlineOf m x q c }
        else none
      | none => none
    else none)

/-- Order of R324 over sequences with their deadlines: class, deadline, slot. -/
def orderLe (a b : Seq × Option Nat) : Bool :=
  let d (c : Seq × Option Nat) := c.2.getD (2 ^ 80)
  if a.1.cls ≠ b.1.cls then a.1.cls < b.1.cls
  else if d a ≠ d b then d a < d b
  else hSlot a.1.handle ≤ hSlot b.1.handle
/-- Order of R324 over candidates. -/
def candLe (a b : Cand) : Bool := orderLe (a.q, a.deadline) (b.q, b.deadline)
/-- Insert a candidate. -/
def insertCand (a : Cand) : List Cand → List Cand
  | [] => [a]
  | b :: bs => if candLe a b then a :: b :: bs else b :: insertCand a bs
/-- Candidates in the order of R324. -/
def sortCands (l : List Cand) : List Cand := l.foldl (fun a c => insertCand c a) []

/-- The loop of R326 over the buckets from B_max down: the candidates admitted. -/
def admitted (x : Part) (endS : Nat) (cs : List Cand) : List Nat → List Cand
  | [] => []
  | b :: bs =>
    let A := cs.take (bucketSize b)
    let lowest := A.foldl (fun a c => max a c.q.cls) 0
    let ok := match predicted x b (bandOf (A.foldl (fun a c => a + c.new) 0)) with
      | none => true
      | some t => A.all (fun c => !(decide (c.q.cls < lowest)) || (match c.deadline with
          | none => true
          | some d => endS + t ≤ d))
    if ok || bs.isEmpty then A else admitted x endS cs bs

/-- Candidates admitted to the next batch, and the number B_max admits (R326, R327). -/
def pickBatch (m : Mod) (x : Part) (pl : Plan) (cs : List Cand) : List Cand × Nat :=
  let top := bMax pl x.mode
  let kBest := (cs.filter (fun c => c.q.cls = (cs.head?.map (fun d => d.q.cls)).getD 0)).length
  let floor := bucketFor pl (min kBest (bucketSize top))
  let bs := (pl.buckets.filter (fun b => floor ≤ b && b ≤ top)).reverse
  (admitted x (endOfStep m x) cs bs, bucketSize top)

/-! ### Admission: page slots, leaf tables, limits (R253, R261, R270, R278) -/

/-- Why the next step of a command cannot be made: status and stop reason (R304). -/
abbrev Blocked := Status × Nat

/-- Take what the next `n` positions of a sequence from position `L` need: leaf tables and new pages. -/
def takePages (x : Part) (q : Seq) (L n : Nat) : Except Blocked (Part × List (Nat × Nat)) :=
  if 2 ^ 24 < L + n then .error (.refusedResources, 2)
  else if 2 ^ 31 < L + q.posOffset + n then .error (.notPermitted, 2)
  else if !hasCache x then .ok (x, [])
  else
    let last := (L + n - 1) / 256
    let first := cdiv L 256
    let is := ((List.range (last + 1 - first)).map (fun k => first + k)).filter (fun i => (residentPage q i).isNone)
    let full := configJournal x.config && is.any (fun i => q.storePages ≤ i ||
      (match x.plan with
       | some pl => (chooseSlot x pl q i).isNone
       | none => false))
    if full then .error (.refusedResources, 6)
    else match growLeaves x q (last + 1) with
      | none => .error (.refusedResources, 5)
      | some (x1, q1) =>
        if freePages x1 < is.length then .error (.refusedResources, 5)
        else
          let r := is.foldl (fun (a : Part × Seq × List (Nat × Nat)) i =>
            let g := allocPage a.1 q.handle
            (g.1, setLeaf a.2.1 i (.resident g.2), a.2.2 ++ [(i, g.2)])) (x1, q1, [])
          .ok (putSeq r.1 r.2.1, r.2.2)

/-- Give back what a member took that its step will not use: its new pages and its copy. -/
def dropMember (x : Part) (b : Member) : Part :=
  let x1 := match b.cow with
    | some (_, dst, _) => dropRef x dst
    | none => x
  b.newPages.foldl (fun x n =>
    match seqOf? x b.handle with
    | some q => if residentPage q n.1 = some n.2 then dropRef (putSeq x (setLeaf q n.1 .empty)) n.2 else x
    | none => x) x1

/-- End a command whose next step is blocked. -/
def endBlocked (m : Mod) (p : Nat) (q : Seq) (r : RingRef) (c : Cmd) (b : Blocked) : Mod :=
  endOldest m p q.handle (runResult c q b.1 b.2) r

/-- Admit one candidate to the next batch. -/
def admitOne (p : Nat) (a : Mod × List Member) (c : Cand) : Mod × List Member :=
  match partOf? a.1 p with
  | none => a
  | some x =>
    match seqOf? x c.q.handle with
    | none => a
    | some q =>
      let L := q.length + newNow x q.handle
      let b : Member :=
        { handle := q.handle, length := L, posOffset := q.posOffset, new := c.new, valid := true, cow := none,
          version := q.version, newPages := [], fed := [], masked := false, cmdNo := c.c.fetchNo }
      match takePages x q L c.new with
      | .ok (x1, np) =>
        (updPart a.1 p (fun _ => pSeq x1 q.handle (fun s => { s with hold := false, holdTarget := false })),
         a.2 ++ [{ b with newPages := np }])
      | .error e =>
        let b0 := { b with valid := false, new := 0 }
        if (memberNow x q.handle).isSome then (a.1, a.2 ++ [b0])
        else (endBlocked a.1 p q c.r c.c e, a.2 ++ [b0])

/-- The candidates left out. -/
def leftOut (cs A : List Cand) : List Cand := cs.filter (fun c => A.all (fun a => a.q.handle != c.q.handle))

/-- Set the hold flags of the candidates left out (R327). -/
def holdRest (x : Part) (cs A : List Cand) (room : Nat) : Part :=
  let out := leftOut cs A
  let target (h : BitVec 32) : Bool := (cs.take room).any (fun c => c.q.handle = h)
  let mark (q : Seq) : Seq :=
    if out.any (fun c => c.q.handle = q.handle) then { q with hold := true, holdTarget := target q.handle } else q
  { x with seqs := x.seqs.map mark }

/-- Count the step in the classes of which a candidate is left out (R322). -/
def countHeld (x : Part) (cs A : List Cand) : Part :=
  { x with classes := (List.range x.classes.length).map (fun k =>
      let t := x.classes.getD k ⟨0, 0, 0, 0, 0, 0⟩
      if (leftOut cs A).any (fun c => c.q.cls = k) then { t with held := sat32 (t.held + 1) } else t) }

/-- The batch of a bucket: an entry for every member of it (R256). -/
def padBatch (b : Nat) (ms : List Member) : List Member := ms ++ List.replicate (bucketSize b - ms.length) emptyMember

/-- Form the next batch, publish its bucket and write its table (R256, R326). When every candidate tried was blocked,
form it again from the others; `n` bounds that. -/
def formBatch (p : Nat) : Nat → Mod → Mod
  | 0, m => m
  | n + 1, m =>
    match partOf? m p with
    | none => m
    | some x =>
      match x.plan with
      | none => m
      | some pl =>
        let cs := sortCands (candidates m x)
        if cs.isEmpty then m
        else
          let pick := pickBatch m x pl cs
          let m1 := updPart m p (fun y => holdRest y cs pick.1 pick.2)
          let r := pick.1.foldl (admitOne p) (m1, [])
          if r.2.any (fun b => b.valid) then
            let b := bucketFor pl pick.1.length
            writeTables (poolCheck (updPart r.1 p (fun y => { (countHeld y cs pick.1) with
              nextBatch := padBatch b r.2, nextBucket := b, tableWaiting := hasCache y })) p) p
          else if x.inStep then r.1
          else formBatch p n r.1

/-! ### Beginning a step -/

/-- The member still runs in the step about to begin: it was chosen for the command that is the oldest now (R326). -/
def stillMember (m : Mod) (x : Part) (b : Member) : Bool :=
  match seqOf? x b.handle with
  | none => false
  | some q => q.state = .active && q.tableReady && q.length = b.length && (match oldestCmd m q with
      | some (_, c) => c.fetchNo = b.cmdNo && (c.entry.opcode = 0x02 || c.entry.opcode = 0x03) && c.phase = .running
          && c.abortBy.isNone
          && 0 < (if c.entry.opcode = 0x03 then maxTokens c.entry - c.done else c.toks.length)
      | none => false)

/-- Tokens a member runs: the next tokens of its buffer, or the last token of its sequence. -/
def fedTokens (m : Mod) (q : Seq) (n : Nat) : List (BitVec 32) :=
  match oldestCmd m q with
  | some (_, c) => if c.entry.opcode = 0x03 then [BitVec.ofNat 32 q.lastToken] else c.toks.take n
  | none => []

/-- The page a member writes first in, if its positions begin inside a page. -/
def firstPage (x : Part) (b : Member) : Option Nat :=
  if b.valid ∧ b.length % 256 ≠ 0 ∧ hasCache x then (seqOf? x b.handle).bind (fun q => residentPage q (b.length / 256)) else none

/-- The member copies its page first (R269): the page is shared, and not every holder writes into it in this step, as a
member of `bs`, with this member the lowest handle. -/
def needsCopy (x : Part) (bs : List Member) (b : Member) : Option Nat :=
  (firstPage x b).bind (fun g =>
    let count := ((mget? x.pages g).map (fun y => y.count)).getD 1
    let writers := bs.filter (fun d => firstPage x d = some g)
    let lowest := writers.all (fun d => b.handle.toNat ≤ d.handle.toNat)
    if count ≤ 1 ∨ (count = writers.length ∧ lowest) then none else some g)

/-- The members of `bs` whose copies find a FREE page slot, in member order. -/
def copiesFit (x : Part) (bs : List Member) : List Member :=
  (bs.foldl (fun (a : Nat × List Member) b => match needsCopy x bs b with
    | none => (a.1, a.2 ++ [b])
    | some _ => if a.1 = 0 then a else (a.1 - 1, a.2 ++ [b])) (freePages x, [])).2

/-- The members that write in the step: one left out for want of a page slot no longer writes its page, so that the others
that share it may have to copy in turn (R269, R270); `n` bounds the rounds. -/
def writersOf (x : Part) : Nat → List Member → List Member
  | 0, bs => bs
  | n + 1, bs =>
    let c := copiesFit x bs
    if c.length = bs.length then bs else writersOf x n c

/-- Bring one entry of the batch up to date at the boundary: an entry that no longer runs becomes empty; a blocked
command ends (R270); a shared page gets its copy (R269). `bs` are the members that write. -/
def freshMember (p : Nat) (bs : List Member) (a : Mod × List Member) (b : Member) : Mod × List Member :=
  match partOf? a.1 p with
  | none => a
  | some x =>
    let empty := { b with valid := false, new := 0, newPages := [], cow := none }
    if !b.valid then
      match seqOf? x b.handle with
      | some q => match q.state, oldestCmd a.1 q with
        | .active, some (r, c) =>
          let n := cmdNew x c q.handle
          if c.phase = .running ∧ 0 < n then
            match takePages x q q.length n with
            | .error e => (endBlocked a.1 p q r c e, a.2 ++ [b])
            | .ok _ => (a.1, a.2 ++ [b])
          else (a.1, a.2 ++ [b])
        | _, _ => (a.1, a.2 ++ [b])
      | none => (a.1, a.2 ++ [b])
    else if !stillMember a.1 x b then (updPart a.1 p (fun y => dropMember y b), a.2 ++ [empty])
    else
      match seqOf? x b.handle with
      | none => (a.1, a.2 ++ [empty])
      | some q =>
        let b1 := { b with version := q.version, posOffset := q.posOffset, fed := fedTokens a.1 q b.new }
        if !bs.contains b then
          match oldestCmd a.1 q with
          | some (r, c) => (endBlocked (updPart a.1 p (fun y => dropMember y b)) p q r c (.refusedResources, 5), a.2 ++ [empty])
          | none => (a.1, a.2 ++ [empty])
        else match needsCopy x bs b with
          | none => (a.1, a.2 ++ [b1])
          | some src =>
            let g := allocPage x b.handle
            (updPart a.1 p (fun _ => g.1), a.2 ++ [{ b1 with cow := some (src, g.2, b.length % 256) }])

/-- Register every `RECV` of the transfer list of the beat beginning (R75): the core, and the first fault. -/
def registerAll (c : Core) : List Nat → Core × Option (Nat × Trap)
  | [] => (c, none)
  | i :: is =>
    let w := mget c.prog i 0
    if wOpcode w = 0x02 ∧ wEngine w = 4 then
      match registerRecv c w with
      | .ok d => registerAll d is
      | .error (d, t) => (d, some (i, t))
    else registerAll c is

/-- Access list `q` passes the beats gone by in which it has nothing left to issue. -/
def passBeats (q : Nat) : Nat → Core → Core
  | 0, c => c
  | n + 1, c =>
    let b := c.accessBeat.getD q 0
    let left : Bool := match mget? c.beats b with
      | some j => decide (c.accessPos.getD q 0 < (listAt c (headerAt c j) q).2)
      | none => false
    if c.beatCount ≤ b || left then c
    else passBeats q n { c with accessBeat := lupd c.accessBeat q (fun b => b + 1), accessPos := lupd c.accessPos q (fun _ => 0) }

/-- Remember the program of the beat that begins while some access list may still have work in it (R54). -/
def recordBeat (c : Core) : Core :=
  let c1 := { c with beats := mset c.beats c.beatCount c.program }
  let c2 := (List.range 16).foldl (fun d q => passBeats q (d.beatCount - d.accessBeat.getD q 0) d) c1
  let low := c2.accessBeat.foldl min c2.beatCount
  { c2 with beats := c2.beats.filter (fun b => low ≤ b.1) }

/-- A core enters a beat: program of the schedule position, levels latched, receives registered, lists at their start
(R48, R51, R75). -/
def enterBeat (bucket pos : Nat) (levels : SMap Nat) (m : Mod) (s : Nat) : Mod :=
  let c0 := (siteOf m s).core
  if c0.state = .faulted then m
  else
    let c1 := recordBeat { c0 with
      bucket := bucket, schedPos := pos, program := schedId c0 bucket pos, levels := levels, done := List.replicate 5 0,
      recvs := [], atBarrier := false, state := .run }
    let l := curList c1 19
    let r := registerAll c1 ((List.range l.2).map (fun k => l.1 + k))
    let m1 := updCore m s (fun _ => r.1)
    match r.2 with
    | some (i, t) => latch m1 s 4 0 i t
    | none => m1

/-- Layer levels in force, to be latched by the cores. -/
def levelsOf (x : Part) : SMap Nat := x.layers.map (fun l => (l.1, l.2.level))

/-- Begin the step whose table is written (R256, R271): the entries are brought up to date, the epoch and the step count
advance, every core enters the first beat, the next batch is formed. -/
def beginStep (m : Mod) (p : Nat) : Mod :=
  match partOf? m p with
  | none => m
  | some x =>
    let run := x.nextBatch.filter (fun b => b.valid && stillMember m x b)
    let r := x.nextBatch.foldl (freshMember p (writersOf x run.length run)) (m, [])
    let m1 := updPart r.1 p (fun y => advanceEpoch m.time { y with
      batch := r.2, bucket := y.nextBucket, nextBatch := [], inStep := true, schedPos := 0,
      stepCount := y.stepCount + 1, stepStart := m.time })
    let m2 := applyLevels (writeTables (poolCheck m1 p) p) p x.nextBucket 0
    match partOf? m2 p with
    | none => m2
    | some y => formBatch p (y.seqs.length + 1) (forAll m2 (partSites y)
        (enterBeat y.bucket 0 (levelsOf y) · ·))

/-- The switch to the plan's route tables has no outcome yet: the boundary it names withholds the gates (R184, R392). -/
def epochOpen (x : Part) : Bool := x.epochDue || x.staged.any (fun t => t.kind == .epoch)

/-- The partition may begin a step: frame 0 runs, its gates are open, no step runs, and a written batch waits. -/
def mayBegin (x : Part) : Bool :=
  x.frame0 == .run && !anyHold x && !x.inStep && !x.nextBatch.isEmpty && !x.tableWaiting && !epochOpen x

/-- Begin the waiting step if nothing stands in its way. -/
def tryBegin (m : Mod) (p : Nat) : Mod :=
  match partOf? m p with
  | some x => if mayBegin x && rmAlive m && !rmSwitching m then beginStep m p else m
  | none => m

/-- A candidate may have appeared while no step runs: form the first batch at once (R326). -/
def kick (m : Mod) (p : Nat) : Mod :=
  match partOf? m p with
  | none => m
  | some x =>
    if !rmAlive m then m
    else if x.frame0 == .run && !anyHold x && !x.inStep && x.nextBatch.isEmpty then
      tryBegin (formBatch p (x.seqs.length + 1) m) p
    else tryBegin m p

/-- `BATCH_WRITE_ACK`: every write of the batch table is acknowledged (R256); a step waiting for it begins. -/
def doBatchWriteAck (p : Nat) (m : Mod) : Mod :=
  match partOf? m p with
  | some x => if x.tableWaiting then tryBegin (updPart m p (fun y => { y with tableWaiting := false })) p else m
  | none => m

/-! ### Committing a step (R257) -/

/-- The token the sampler left for member `k`, and whether it stops (R344). A plan that runs no sampler for a generating
member leaves the token open: a free value. -/
def sampled (m : Mod) (x : Part) (k : Nat) : Nat × Bool :=
  match (partSites x).findSome? (fun s => (mget? (siteOf m s).core.samp k).bind (fun w => w.token.map (fun t => (t, w.stop)))) with
  | some r => r
  | none => ((Config.freeWord m.freeCount).toNat % 2 ^ 20, false)

/-- The virtual core that samples member `k` in the step in progress. -/
def samplingCore (m : Mod) (x : Part) (k : Nat) : Option Nat :=
  (partSites x).findIdx? (fun s => (mget? (siteOf m s).core.samp k).isSome)

/-- The output of one more token and one completion finds room (R315). -/
def roomFor (m : Mod) (r : RingRef) : Bool := !pairHeld m r || decide (reserveUsed (pairOf m r) + 44 ≤ 4096 * (pairOf m r).units)

/-- Count missed targets of a class (R322). -/
def countMiss (x : Part) (cls : Nat) (itl ftl : Bool) : Part :=
  { x with classes := lupd x.classes cls (fun t => { t with
      itlMiss := sat32 (t.itlMiss + b2n itl), ftlMiss := sat32 (t.ftlMiss + b2n ftl) }) }

/-- Pages after a member's positions [L, L+n) committed (R267, R276): copies no longer current, full pages FULL. -/
def commitPages (x : Part) (h : BitVec 32) (L n : Nat) : Part × List Nat :=
  match seqOf? x h with
  | none => (x, [])
  | some q =>
    (List.range ((L + n - 1) / 256 + 1 - L / 256)).foldl (fun (a : Part × List Nat) k =>
      let i := L / 256 + k
      match residentPage q i with
      | none => a
      | some g =>
        let pos := min 256 (L + n - 256 * i)
        (updPage { a.1 with storeWrites := a.1.storeWrites.map (fun w => if w.slotPage = g then { w with stale := true } else w) } g (fun y => if y.state = .lost then y else { y with
            positions := pos, copy := none, filler := h, state := if pos = 256 then .full else .filling }),
         if pos = 256 then a.2 ++ [i] else a.2)) (x, [])

/-- Switch a member's leaf to its copy (R269). -/
def switchCopy (x : Part) (b : Member) : Part :=
  match b.cow, seqOf? x b.handle with
  | some (src, dst, _), some q =>
    dropRef (putSeq (keepSnaps x b.handle [src]) (setLeaf q (b.length / 256) (.resident dst))) src
  | _, _ => x

/-- The positions of a member become part of its sequence: length, copy, pages, journal (R257, R267, R278). -/
def commitMember (m : Mod) (p : Nat) (b : Member) (samp : Sampler → Sampler) : Mod :=
  let m1 := updPart m p (fun x =>
    let x1 := switchCopy x b
    let x2 := pSeq x1 b.handle (fun q => { q with length := b.length + b.new, samp := samp q.samp })
    if hasCache x2 then (commitPages x2 b.handle b.length b.new).1 else x2)
  match partOf? m1 p with
  | some x =>
    if configJournal x.config ∧ hasCache x then
      updPart m1 p (fun y => { y with journalQ := y.journalQ ++ ((commitPages x b.handle b.length b.new).2).filterMap (fun i =>
        ((seqOf? x b.handle).bind (fun q => residentPage q i)).map (fun g => (b.handle, g))) })
    else m1
  | none => m1

/-- Commit an appending member (R303, R342). -/
def commitAppend (m : Mod) (p : Nat) (x : Part) (q : Seq) (r : RingRef) (c : Cmd) (b : Member) : Mod :=
  let first := c.done == 0
  let t := x.classes.getD q.cls ⟨0, 0, 0, 0, 0, 0⟩
  let late := first && t.ftlUs != 0 && decide (c.decodeTime + 1000 * t.ftlUs < m.time)
  let m1 := commitMember (updPart m p (fun y => countMiss y q.cls false late)) p b (fun sm =>
    if sCountAppended sm.block then b.fed.foldl (fun s t => enterWindow s t.toNat) sm else sm)
  let toks := c.toks.drop b.new
  let c' := { c with done := c.done + b.new, toks := toks }
  let q' := { q with length := b.length + b.new, lastToken := ((b.fed.getLast?).getD 0).toNat }
  let m2 := updSeq (updCmd m1 r c.entry.cid (fun _ => c')) p q.handle (fun s => { s with lastToken := q'.lastToken })
  match toks with
  | [] => endOldest m2 p q.handle (runResult c' q' .ok 0) r
  | t :: _ => if badToken t then endOldest m2 p q.handle (runResult c' q' .badDescriptor 0) r else m2

/-- Commit a generating member (R303, R304, R342, R346): the token, then the count; progress; the end of the command. -/
def commitGenerate (m : Mod) (p : Nat) (x : Part) (q : Seq) (r : RingRef) (c : Cmd) (b : Member) (tok : Nat) (stop : Bool) :
    Mod :=
  let t := x.classes.getD q.cls ⟨0, 0, 0, 0, 0, 0⟩
  let itl := q.written && t.itlUs != 0 && decide (q.lastTime + 1000 * t.itlUs < m.time)
  let ftl := !q.written && t.ftlUs != 0 && decide (c.decodeTime + 1000 * t.ftlUs < m.time)
  let m1 := commitMember (updPart m p (fun y => countMiss y q.cls itl ftl)) p b (fun sm =>
    { (enterWindow sm tok) with counter := sm.counter + 1 })
  let k := c.done
  let a := c.entry.addr0.toNat
  let m2 := bufWrite m1 r c.entry.cid (a + 8 + 4 * k) (leBytes 4 tok)
  let m3 := bufWrite m2 r c.entry.cid a (leBytes 4 (k + 1) ++ leBytes 4 0)
  let c' := { ((cmdOf? m3 r c.entry.cid).getD c) with done := k + 1 }
  let m4 := updSeq (updCmd m3 r c.entry.cid (fun _ => c')) p q.handle (fun s => { s with
    lastToken := tok, written := true, lastTime := m.time })
  let notify := argN c.entry 4 2
  let m5 := if notify ≠ 0 ∧ (k + 1) % notify = 0 then raiseVector m4 r (pairOf m4 r).progressVector else m4
  let q' := { q with length := b.length + b.new }
  if c'.bad then endOldest m5 p q.handle (runResult c' q' .badDescriptor 0) r
  else if stop then endOldest m5 p q.handle (runResult c' q' .ok 1) r
  else if maxTokens c.entry ≤ k + 1 then endOldest m5 p q.handle (runResult c' q' .ok 0) r
  else m5

/-- Commit member `k` of the step that ends; a member without room for its output commits nothing (R315). -/
def commitOne (p : Nat) (m : Mod) (kb : Nat × Member) : Mod :=
  let b := kb.2
  match partOf? m p with
  | none => m
  | some x =>
    if !b.valid then m
    else match seqOf? x b.handle with
      | none => updPart m p (fun y => dropMember y b)
      | some q =>
        match oldestCmd m q with
        | none => updPart m p (fun y => dropMember y b)
        | some (r, c) =>
          if b.masked ∨ c.fetchNo ≠ b.cmdNo ∨ q.state ≠ .active ∨ ¬ roomFor m r then updPart m p (fun y => dropMember y b)
          else if c.entry.opcode = 0x03 then
            let t := sampled m x kb.1
            let at_ := samplingCore m x kb.1
            let m1 := updSeq (bumpFree m) p q.handle (fun y => { y with tableAt := countMove x at_ y })
            writeCounts (commitGenerate m1 p x q r c b t.1 t.2) p q.handle
          else writeCounts (commitAppend m p x q r c b) p q.handle

/-- Commit a step (R257): every member in member order, then the measurement; sampler work is done with. -/
def commitStep (m : Mod) (p : Nat) : Mod :=
  match partOf? m p with
  | none => m
  | some x =>
    let total := x.batch.foldl (fun a b => a + (if b.valid then b.new else 0)) 0
    let m1 := ((List.range x.batch.length).zip x.batch).foldl (commitOne p) m
    let m2 := updPart m1 p (fun y => measure { y with inStep := false, batch := [] } x.bucket (bandOf total) (m.time - x.stepStart))
    forAll (writeTables m2 p) (partSites x) (fun m s => updCore m s (fun c => { c with samp := [] }))

/-- Discard the step in progress and the batch waiting: nothing commits (R249, R257). -/
def discardStep (m : Mod) (p : Nat) : Mod :=
  updPart m p (fun x =>
    let x1 := (x.batch ++ x.nextBatch).foldl dropMember x
    { x1 with batch := [], nextBatch := [], inStep := false, tableWaiting := false })

/-! ### Versions at a step boundary (R335, R336) -/

/-- FOLLOW sequences move to the newest version; versions retiring without a reference are freed, and their deferred
ADAPTER_RETIRE completes. -/
def settleAdapters (m : Mod) (p : Nat) : Mod :=
  let m1 := updPart m p (fun x => { x with seqs := x.seqs.map (followNewest x) })
  match partOf? m1 p with
  | none => m1
  | some x =>
    let gone := x.adapters.filter (fun a => a.retiring && versionRefs x a == 0)
    gone.foldl (fun m a => match a.cmd with
        | some (r, cid) => complete m r { (compl cid .ok) with final := decide ((cmdOf? m r cid).any (fun c => c.done = 1)) }
        | none => m)
      (updPart m1 p (fun y => { y with adapters := y.adapters.filter (fun a => !(a.retiring && versionRefs x a == 0)) }))

/-- `BATCH_WRITE_ACK`. -/
def execBatchWriteAck (p : PartId) (s : State) : Host.Outcome State Fault Refusal := lift (doBatchWriteAck p.val) s

end Sys2Proof.Machine
end

