-- ==== Sys2Proof/Machine/Sequences.lean ====
section
/-! DEFINITION. Sequence commands, stores, state records (08_sequences_and_kv_cache.md R252-R284, 09 R303, 10 R338-R347). -/
namespace Sys2Proof.Machine
open Sys2Proof

/-! ### Conditions -/

/-- Frame 0 is HELD for a cause other than a host hold, or FAULTED: commands that need a running plan wait (R302). -/
def planStopped (x : Part) : Bool :=
  x.frame0 == .faulted || (x.frame0 == .held && (x.holdAdmin || x.holdPartner || x.holdSeam || !x.frameHolds.isEmpty))

/-- The beat program of the beat in progress. -/
def beatProgram (x : Part) (pl : Plan) : Option Nat :=
  if x.inStep then (pl.schedules.find? (fun s => s.1 = x.bucket)).bind (fun s => s.2[x.schedPos]?) else none

/-- Service traffic of a partition moves (R194, R195, R232): no plan runs, or the plan grants a service slot in the beat in
progress. Between two steps a running plan has no beat in progress, and any of its grants serves (DEDUCED, log entry 94). -/
def serviceOk (x : Part) : Bool :=
  x.frame0 == .idle || x.frame0 == .held || (match x.plan with
    | some pl => match beatProgram x pl with
      | some j => pl.service.any (fun g => g.program == j)
      | none => x.frame0 == .run && !x.inStep && !pl.service.isEmpty
    | none => true)

/-- SEQ_CLOSE and SEQ_SNAPSHOT never wait for a running plan (R302). -/
def neverWaits (c : Cmd) : Bool := c.entry.opcode == 0x0A || c.entry.opcode == 0x0B

/-- A command that names a sequence. -/
def namesSeq (c : Cmd) : Bool := decide (2 ≤ c.entry.opcode.toNat) && decide (c.entry.opcode.toNat ≤ 0x0B)

/-- An earlier command that names the same sequence has not taken effect (R302). A command that never waits does not stand
behind one that waits for the plan to run. -/
def earlierWaits (x : Part) (c : Cmd) : Bool :=
  (partCmds x).any (fun d => d.fetchNo < c.fetchNo && (d.phase = .waiting || d.phase = .decoded)
    && d.entry.handle = c.entry.handle && namesSeq d && (neverWaits d || !(neverWaits c && planStopped x)))

/-- Complete a sequence command with a status; the sequence concerned is named while it is open (R299). -/
def completeQ (m : Mod) (r : RingRef) (c : Cmd) (st : Status) : Mod :=
  let known : Bool := match r with
    | .part p _ => ((partOf? m p.val).bind (fun x => seqOf? x c.entry.handle)).isSome
    | .admin _ => false
  let k := compl c.entry.cid st
  complete m r { k with handle := if known then c.entry.handle else 0 }

/-- End the commands of a sequence that still wait and were fetched before `n` with ABORTED: it closes (R254). -/
def abortEarlier (m : Mod) (p : Nat) (h : BitVec 32) (n : Nat) : Mod :=
  match partOf? m p with
  | none => m
  | some x => (ringCmds p x).foldl (fun m rc =>
      if rc.2.phase = .waiting ∧ rc.2.fetchNo < n ∧ rc.2.entry.handle = h ∧ namesSeq rc.2 then completeQ m rc.1 rc.2 .aborted else m) m

/-- A store area of R373: own host memory at the partition's host site, or a PRESENT partner with `PARK` over a group of
the partition. -/
def storeAreaOk (m : Mod) (x : Part) (base : Nat) : Bool :=
  let node := base / 2 ^ 56
  if node = 0xFF ∨ node = m.nodeId then base / 2 ^ 52 % 16 == partHost x
  else match partnerOf m node with
    | some q => bit q.caps 3 && (bitsOf (configGroups x.config)).any (fun g => (linkTo m g node).isSome)
    | none => false

/-- A sequence command: the sequence exists, earlier commands of the sequence have acted, and a stopped plan does not
hold it back unless it never waits, or waits in its sequence (R254, R302, R303). -/
def onSeq (m : Mod) (r : RingRef) (c : Cmd) (never : Bool) (f : Nat → Part → Seq → Mod) : Mod :=
  onPart m r c (fun p x =>
    match seqOf? x c.entry.handle with
    | none => completeS m r c.entry.cid .notFound
    | some q => if (!never && planStopped x) || earlierWaits x c then waitCmd m r c else f p x q)

/-- Complete a sequence command with its handle and length. -/
def completeSeq (m : Mod) (r : RingRef) (c : Cmd) (q : Seq) (st : Status) : Mod :=
  let k := compl c.entry.cid st
  complete m r { k with handle := q.handle, result1 := q.length }

/-! ### Stores: parking, unparking, flushing, journalling (R275-R280) -/

/-- Page `i` of a sequence has a current store copy: the copy. -/
def copyOf (x : Part) (q : Seq) (i : Nat) : Option StoreCopy :=
  match q.leaves[i]? with
  | some (.stored c) => some c
  | some (.resident g) => (mget? x.pages g).bind (fun y => y.copy)
  | _ => none

/-- The state a sequence returns to when its SEQ_PARK stops. -/
def beforePark (q : Seq) : SeqState := if q.pausedBefore then .paused else .opened

/-- Every page of a parking sequence has its copy: leaves STORED, references dropped (R276). -/
def finishPark (x : Part) (q : Seq) : Part :=
  let n := seqPages x q
  let x1 := dropFrom (keepSnaps x q.handle (residents q)) q 0
  putSeq x1 { q with
    state := .parked,
    leaves := (List.range n).map (fun i => match copyOf x q i with
      | some c => .stored c
      | none => .lost) }

/-- The parking of a sequence ends: its SEQ_PARK completes, or a SHUTDOWN counts it (R488). -/
def endPark (m : Mod) (rc : Option (RingRef × Cmd)) (h : BitVec 32) (st : Status) : Mod :=
  match rc with
  | some (r, c) =>
    let k := compl c.entry.cid st
    complete m r { k with handle := h, result0 := c.done }
  | none => if st = .ok then { m with startup := { m.startup with parkedCount := m.startup.parkedCount + 1 } } else m

/-- Go on with a parking sequence: write the next page without a copy, or end (R276). -/
def parkNext (m : Mod) (p : Nat) (h : BitVec 32) : Mod :=
  match partOf? m p, (partOf? m p).bind (fun x => seqOf? x h) with
  | some x, some q =>
    let rc := runningOf p x 6 h
    if x.storeWrites.any (fun w => w.purpose = 0 && w.handle = h) || !serviceOk x || (rc.isNone && !m.startup.shutdown) then m
    else match (List.range (seqPages x q)).find? (fun i => (copyOf x q i).isNone) with
      | none => endPark (writeTables (poolCheck (updPart m p (fun y => finishPark y q)) p) p) rc h .ok
      | some i => match (residentPage q i).bind (startStoreWrite m p 0 h i) with
        | some m' => m'
        | none => endPark (updSeq m p h (fun s => { s with state := beforePark s })) rc h .refusedResources
  | _, _ => m

/-- End a SEQ_UNPARK (R254, R277): the reservation ends; the sequence is PAUSED or OPEN. -/
def finishUnpark (m : Mod) (p : Nat) (h : BitVec 32) (st : Status) (result1 : Nat) (r : RingRef) (c : Cmd) : Mod :=
  let m1 := updPart m p (fun y => { (pSeq y h (fun q => { q with
      state := if q.pausedBefore && st == .ok then .paused else .opened,
      pausedBefore := false })) with
    reserved := y.reserved.filter (fun t => t.1 != h) })
  let k := compl c.entry.cid st
  writeTables (complete m1 r { k with handle := h, result0 := c.done, result1 := result1 }) p

/-- Lines a page record takes on a store. -/
def recordLines (pl : Plan) : Nat := cdiv (slotBytes pl) 72

/-- Read a record from its store: a partner is asked with class 2 messages (R277, R373). -/
def askRecord (m : Mod) (p : Nat) (x : Part) (pl : Plan) (c : StoreCopy) : Mod :=
  let node := c.location / 2 ^ 56 % 256
  if node = 0xFF ∨ node = m.nodeId then m
  else remoteAccess m (groupTo m x node) node 0 false 2 (c.location % 2 ^ 56) (recordLines pl) [] p none 0 0

/-- Go on with a SEQ_UNPARK: read the record of the lowest STORED page, or end (R277). -/
def unparkNext (m : Mod) (p : Nat) (h : BitVec 32) : Mod :=
  match partOf? m p, (partOf? m p).bind (fun x => seqOf? x h), (partOf? m p).bind (fun x => runningOf p x 7 h) with
  | some x, some q, some (r, c) =>
    if x.storeReads.any (fun t => t.handle = h) ∨ ¬ serviceOk x then m
    else match q.leaves.findIdx? (fun l => match l with
        | .stored _ => true
        | _ => false) with
      | none => finishUnpark m p h .ok q.length r c
      | some i => match q.leaves[i]?, x.plan with
        | some (.stored s), some pl =>
          askRecord (updPart m p (fun y => { y with storeReads := y.storeReads ++ [{ handle := h, page := i, copy := s, tries := 0 }] }))
            p x pl s
        | _, _ => m
  | _, _, _ => m

/-- Code of a sequence state (R254). -/
def seqCode : SeqState → Nat
  | .opened => 0
  | .active => 1
  | .paused => 2
  | .parking => 3
  | .parked => 4
  | .unparking => 5
  | .lost => 6

/-- `RECORD_SIZE` for a number of pages. -/
def recordSize (n : Nat) : Nat := 328064 + 24 * n

/-- Page list of a state record (R280). -/
def snapPages (t : Snap) : List Byte :=
  (List.range t.copies.length).flatMap (fun i =>
    let pos := min 256 (t.seq.length - 256 * i)
    match (t.copies.getD i none) with
    | some c => leBytes 8 c.location ++ leBytes 4 c.crc.toNat ++ leBytes 2 pos ++ leBytes 1 2 ++ leBytes 1 0
        ++ leBytes 4 c.slot ++ leBytes 4 0
    | none => leBytes 8 ((residentPage t.seq i).getD 0) ++ leBytes 4 0 ++ leBytes 2 pos ++ leBytes 1 1 ++ leBytes 1 0
        ++ leBytes 4 0 ++ leBytes 4 0)

/-- A state record (R280). -/
def snapBytes (pl : Plan) (t : Snap) : List Byte :=
  let q := t.seq
  let all := t.copies.all (fun c => c.isSome)
  let head := leBytes 4 0x52535153 ++ leBytes 2 0x0100 ++ leBytes 2 0 ++ leBytes 8 (recordSize t.copies.length)
    ++ leBytes 4 q.handle.toNat ++ leBytes 4 q.length ++ leBytes 4 q.posOffset ++ leBytes 1 pl.cacheFormat ++ leBytes 1 q.cls
    ++ leBytes 1 t.code ++ leBytes 1 (b2n all) ++ leBytes 4 t.copies.length ++ leBytes 4 (planPairs pl).length
    ++ leBytes 8 (sSeed q.samp.block) ++ leBytes 8 q.samp.counter.toNat ++ leBytes 2 (q.adapter.getD 0xFFFF)
    ++ leBytes 2 q.version ++ leBytes 1 q.bind ++ leBytes 3 0 ++ pairDigest pl ++ leBytes 4 q.samp.fill ++ leBytes 4 0
    ++ leBytes 8 t.time ++ leBytes 12 0
  let body := leBytes 256 q.samp.block.toNat
    ++ (List.range 32768).flatMap (fun k => leBytes 8 (mget q.samp.table k 0).toNat)
    ++ (List.range 16384).flatMap (fun k => leBytes 4 (mget q.samp.ring k 0).toNat)
    ++ snapPages t
  head ++ leBytes 4 (crc32c (head ++ leBytes 4 0 ++ body)).toNat ++ body

/-- Write a snapshot's record and complete its command. -/
def finishSnap (m : Mod) (pl : Plan) (t : Snap) (done : Nat) : Mod :=
  match cmdOf? m t.ring t.cid with
  | none => m
  | some c =>
    let m1 := bufWrite m t.ring t.cid c.entry.addr0.toNat (snapBytes pl t)
    let k := compl t.cid .ok
    complete m1 t.ring { k with handle := t.seq.handle, result0 := done, result1 := recordSize t.copies.length }

/-- The copies a flushing snapshot can name: those it has, and those its pages have got since. -/
def snapCopies (x : Part) (t : Snap) : List (Option StoreCopy) :=
  t.copies.zipIdx.map (fun e => e.1.orElse (fun _ =>
    (residentPage t.seq e.2).bind (fun g => (mget? x.pages g).bind (fun y => y.copy))))

/-- Go on with a flushing SEQ_SNAPSHOT (R280): write the next page without a copy as it stood in the sequence at the
snapshot's boundary, or end. -/
def snapNext (m : Mod) (p : Nat) (t0 : Snap) : Mod :=
  match partOf? m p, cmdOf? m t0.ring t0.cid with
  | some x, some c =>
    let t := { t0 with copies := snapCopies x t0 }
    let h := t.seq.handle
    if x.storeWrites.any (fun w => w.purpose = 2 && w.handle = h) ∨ ¬ serviceOk x then m
    else
      let fail (st : Status) (v : Nat) : Mod :=
        let k := compl t.cid st
        complete (updPart m p (endSnap t)) t.ring { k with handle := h, result0 := c.done, result1 := v }
      match x.plan, t.copies.findIdx? (fun c => c.isNone) with
      | some pl, none => finishSnap (updPart m p (endSnap t)) pl t c.done
      | _, some i =>
        let g := residentPage t.seq i
        if (g.bind (mget? x.pages)).any (fun y => y.state == .lost) then fail .stateLost (256 * i)
        else match g.bind (startStoreWrite (updPart m p (fun y => { y with
            snaps := y.snaps.map (fun s => if s.cid = t.cid && s.ring = t.ring then { s with copies := t.copies } else s) })) p 2 h i) with
          | some m' => m'
          | none => fail .refusedResources (recordSize t.copies.length)
      | none, none => m
  | _, _ => m

/-- The logical page of a sequence whose FULL page `g` still waits for its journal write (R278): the sequence still holds it
whole, and it has no store copy. -/
def journalPage (x : Part) (h : BitVec 32) (g : Nat) : Option Nat :=
  match seqOf? x h, mget? x.pages g with
  | some q, some y =>
    if y.state = .full ∧ y.copy.isNone then (List.range (q.length / 256)).find? (fun i => residentPage q i == some g) else none
  | _, _ => none

/-- Journal writes that service traffic can take now; one that finds no free slot is not made (R278). -/
def journalNext (m : Mod) (p : Nat) : Mod :=
  match partOf? m p with
  | some x =>
    if serviceOk x then
      x.journalQ.foldl (fun m j => match ((partOf? m p).bind (fun y => journalPage y j.1 j.2)).bind (fun i => startStoreWrite m p 1 j.1 i j.2) with
        | some m' => m'
        | none => m) (updPart m p (fun y => { y with journalQ := [] }))
    else m
  | none => m

/-- Write the blocks of an adapter version on the cores of `vs` into their adapter allowances (R333). -/
def writeBlocks (pl : Plan) (vs : Nat → Bool) (m : Mod) (a : Adapter) : Mod :=
  (a.places.filter (fun p => vs p.vcore)).foldl (fun m p => match pl.sites[p.vcore]? with
    | none => m
    | some s => (p.blocks.zipIdx).foldl (fun m (j, i) =>
        let ls := ((a.blocks[j]?).map (fun b => b.lines)).getD []
        (((p.lines.drop (1 + 4 * i)).take 4).zip ls).foldl (fun m (l, v) => writeLines m s l [v] []) m) m) m

/-- Service traffic carries the blocks of the versions being loaded, as soon as it moves (R194, R333). -/
def writeAdapters (m : Mod) (p : Nat) : Mod :=
  match partOf? m p with
  | some x => match x.plan with
    | some pl =>
      if serviceOk x then
        let due := x.adapters.filter (fun a => a.loading && !a.written)
        updPart (due.foldl (writeBlocks pl (fun _ => true)) m) p (fun y => { y with
          adapters := y.adapters.map (fun a => if a.loading then { a with written := true } else a) })
      else m
    | none => m
  | none => m

/-- Everything service traffic can do for a partition's sequences and adapters. -/
def storeWork (m : Mod) (p : Nat) : Mod :=
  match partOf? m p with
  | some x =>
    let m1 := x.seqs.foldl (fun m q => match q.state with
      | .parking => parkNext m p q.handle
      | .unparking => unparkNext m p q.handle
      | _ => m) (journalNext (writeAdapters m p) p)
    x.snaps.foldl (fun m t => snapNext m p t) m1
  | none => m

/-- A page of a snapshot has its copy: the record names it, and the page is no longer kept for the snapshot. -/
def snapCopied (w : StoreWrite) (c : StoreCopy) (x : Part) (t : Snap) : Part :=
  let y : Part := { x with snaps := x.snaps.map (fun s =>
    if s.cid = t.cid && s.ring = t.ring then
      { s with copies := s.copies.set w.page (some c), held := s.held.filter (fun g => g != w.slotPage) } else s) }
  if t.held.contains w.slotPage then dropRef y w.slotPage else y

/-- The store acknowledged every write of the oldest record, or rejected it (R276). -/
def doStoreWriteAck (p : Nat) (bad : Bool) (m : Mod) : Mod :=
  match partOf? m p with
  | none => m
  | some x =>
    if m.requests.any (fun q => q.part = p && q.write && q.cls = 2) then m
    else match x.storeWrites with
      | [] => m
      | w :: rest =>
        let c : StoreCopy := { location := w.location, slot := w.slot, crc := w.crc, positions := w.positions }
        let good := !bad
        let m1 := updPart m p (fun y => dropRef (updPage { y with storeWrites := rest } w.slotPage (fun g =>
          if good && !w.stale && (g.state == .filling || g.state == .full) then { g with copy := some c } else g)) w.slotPage)
        if w.purpose = 1 then m1
        else
          let op : Byte := if w.purpose = 0 then 6 else 0x0B
          match runningOf p x op w.handle with
          | none =>
            if w.purpose = 0 ∧ m.startup.shutdown then
              (if bad then updSeq m1 p w.handle (fun s => { s with state := beforePark s }) else storeWork m1 p)
            else m1
          | some (r, k) =>
            if bad then
              let done := compl k.entry.cid .badDescriptor
              let m2 := if w.purpose = 0 then updSeq m1 p w.handle (fun s => { s with state := beforePark s })
                else updPart m1 p (fun y => (y.snaps.filter (fun s => s.cid = k.entry.cid && s.ring = r)).foldl (fun z s => endSnap s z) y)
              complete m2 r { done with handle := w.handle, result0 := k.done }
            else
              let m2 := updCmd m1 r k.entry.cid (fun d => { d with done := d.done + 1 })
              let m3 := if w.purpose = 0 then m2
                else updPart m2 p (fun y => (y.snaps.filter (fun s => s.cid = k.entry.cid && s.ring = r)).foldl (snapCopied w c) y)
              storeWork m3 p

/-- The header of a record fits the plan and the slot kept with the copy (R277). -/
def recordFits (pl : Plan) (c : StoreCopy) (bs : List Byte) : Bool :=
  leAt bs 0 4 == 0x52475041 && leAt bs 6 1 == pl.cacheFormat && leAt bs 8 4 == (planPairs pl).length
    && ((bs.drop 32).take 32) == pairDigest pl && leAt bs 20 4 == c.slot

/-- The line bytes of a record verify (R277). -/
def recordVerifies (pl : Plan) (bs : List Byte) : Bool :=
  (crc32c ((bs.drop 64).take (72 * pageLines pl))).toNat == leAt bs 24 4

/-- Write the lines of a record into the frame slots of page `g`, pair by pair (R275, R277). -/
def fillPage (m : Mod) (pl : Plan) (f : Packed) (g : Nat) (bs : List Byte) : Mod :=
  let ks := sortedPairs pl
  forAll m (List.range ks.length) (fun m j =>
    match ks[j]? with
    | none => m
    | some k => match frameLine pl f k.vcore false k.layer k.head g, pl.sites[k.vcore]? with
      | some a, some s =>
        let n := 2 * runLen f
        writeLines m s a (bytesLines ((bs.drop (64 + 72 * n * j)).take (72 * n))) []
      | _, _ => m)

/-- A page of an unparking sequence is lost: truncate there, end with STATE_LOST (R277). -/
def unparkLost (m : Mod) (p : Nat) (x : Part) (h : BitVec 32) (k : Nat) : Mod :=
  match runningOf p x 7 h, seqOf? x h with
  | some (r, c), some q =>
    let m1 := updPart m p (fun y =>
      let z := shrinkLeaves (dropFrom (keepSnaps y h (residents q)) q k) q k
      putSeq z.1 { z.2 with length := 256 * k })
    finishUnpark m1 p h .stateLost (256 * k) r c
  | _, _ => m

/-- A record arrives, or its read fails (R277). -/
def doStoreReadData (p : Nat) (failed : Bool) (bs : List Byte) (m : Mod) : Mod :=
  match partOf? m p with
  | none => m
  | some x =>
    if m.requests.any (fun q => q.part = p && !q.write && q.cls = 2) then m
    else match x.storeReads, x.plan with
      | t :: rest, some pl =>
        let m1 := updPart m p (fun y => { y with storeReads := rest })
        if failed ∨ ¬ recordVerifies pl bs then
          if t.tries < 2 then
            askRecord (updPart m p (fun y => { y with storeReads := { t with tries := t.tries + 1 } :: rest })) p x pl t.copy
          else
            let m2 := post m1 0x0503 (some p) (kvPayload m1 t.handle.toNat t.page p 0 0xFFFF 0)
            storeWork (unparkLost m2 p x t.handle t.page) p
        else if ¬ recordFits pl t.copy bs then storeWork (unparkLost m1 p x t.handle t.page) p
        else match packedOf pl.cacheFormat with
          | none => m1
          | some f =>
            let y := { x with storeReads := rest, reserved := x.reserved.map (fun r => if r.1 = t.handle then (r.1, r.2 - 1) else r) }
            let a := allocPage y t.handle
            let n := t.copy.positions
            let z := updPage a.1 a.2 (fun g => { g with
              positions := n, copy := some t.copy, state := if n = 256 then .full else .filling })
            let m2 := updPart m p (fun _ => pSeq z t.handle (fun q => setLeaf q t.page (.resident a.2)))
            let m3 := fillPage m2 pl f a.2 bs
            match runningOf p x 7 t.handle with
            | some (r, c) => storeWork (updCmd m3 r c.entry.cid (fun d => { d with done := d.done + 1 })) p
            | none => m3
      | _, _ => m

/-! ### Opening (R252, R281, R334, R338-R343) -/

/-- The sampler parameter block is within the ranges of R338; a record keeps its running fields. -/
def blockOk (b : BitVec 2048) (running : Bool) : Bool :=
  let f (k : Nat) := sF32 b k
  let nonneg (k : Nat) : Bool := !isNan32 (f k) && !lt32 (f k) 0
  nonneg 8 && nonneg 12 && nonneg 16 && lt32 (f 16) 0x3F800000 && nonneg 20 && !isNan32 (f 24) && !isNan32 (f 28)
    && fld b 256 16 ≤ 1024 && sWindow b ≤ 16384 && sStops b ≤ 32 && sBiases b ≤ 64 && fld b 305 7 == 0 && fld b 312 8 == 0
    && (if running then sHead b < 16384 else sHead b == 0) && fld b 400 1648 == 0
    && (running || !(sStops b == 0 && sBiases b == 0) || sListAddr b == 0)

/-- Tokens of a list are in range and distinct. -/
def tokensOk (ts : List Nat) : Bool := ts.all (fun t => t < 2 ^ 20) && (ts.eraseDups.length == ts.length)

/-- Build the count table from the token lists (R338, R341); none when they break R339. -/
def listsTable (b : BitVec 2048) (bs : List Byte) : Option (SMap Word) :=
  let stops := (List.range (sStops b)).map (fun k => leAt bs (4 * k) 4)
  let o := 4 * sStops b
  let biases := (List.range (sBiases b)).map (fun k => (leAt bs (o + 8 * k) 4, BitVec.ofNat 32 (leAt bs (o + 8 * k + 4) 4)))
  if !tokensOk stops || !tokensOk (biases.map Prod.fst) || biases.any (fun e => isNan32 e.2) then none
  else
    let t1 := stops.foldl (fun tab t => tabUpdate tab t (fun e => setBit e 36 true)) []
    some (biases.foldl (fun tab e => tabUpdate tab e.1 (fun w => putFld (setBit w 37 true) 38 16 (b32ToB16 e.2).toNat)) t1)

/-- Check a binding (R329, R334, R281 check 3): the version bound, or the status. -/
def bindCheck (x : Part) (pl : Plan) (adapter bind version : Nat) (record : Bool) : Except Status Nat :=
  if bind = 0 then
    if (adapter = 0xFFFF ∨ adapter = 0) ∧ version = 0 then .ok 0 else .error .badDescriptor
  else if 2 < bind ∨ (bind = 1 ∧ version ≠ 0 ∧ ¬ record) then .error .badDescriptor
  else if pl.maxAdapters ≤ adapter then .error .notPermitted
  else if bind = 1 then match newestVersion x adapter with
    | some v => .ok v
    | none => .error .notFound
  else if x.adapters.any (fun a => a.id = adapter && a.version = version && !a.retiring && !a.loading) then .ok version
  else .error .notFound

/-- A new sequence without pages. -/
def newSeq (h : BitVec 32) (cls base pages adapter bind version : Nat) (t : Sampler) (now : Nat) : Seq :=
  { handle := h, state := .opened, hold := false, holdTarget := false, cls := cls, length := 0, posOffset := 0, pending := [],
    storeBase := base, storePages := pages, leaves := [], leafTables := [], pausedBefore := false, wasLost := false,
    adapter := if bind = 0 then none else some adapter, bind := bind, version := version, samp := t, lastToken := 0,
    written := false, lastTime := now, tableReady := true, tableAt := none }

/-- Give a new sequence its slot, its handle and the place of its count table, and enter it. -/
def enterSeq (x : Part) (slot : Nat) (par : Option Nat) (q : Seq) : Part × BitVec 32 :=
  let hg := nextHandle x slot par
  ({ x with gens := mset x.gens slot hg.2, seqs := insertSeq { q with handle := hg.1, tableAt := countPlace x } x.seqs }, hg.1)

/-- Complete a SEQ_OPEN (for the new sequence) or a SEQ_FORK (for the parent) with a new handle and a state. -/
def completeOpen (m : Mod) (r : RingRef) (c : Cmd) (h : BitVec 32) (state : Nat) : Mod :=
  let k := compl c.entry.cid .ok
  complete (match r with
    | .part p _ => writeCounts (writeTables m p.val) p.val h
    | .admin _ => m) r { k with handle := if c.entry.opcode = 0x08 then c.entry.handle else h, result0 := h.toNat, detail := state }

/-- The store area arguments of a command are usable (R278, R373). -/
def areaOk (m : Mod) (x : Part) (base pages : Nat) : Bool :=
  if base = 0 ∧ pages = 0 then !configJournal x.config else base != 0 && pages != 0 && storeAreaOk m x base

/-- SEQ_OPEN from a parameter block (R338, R339). -/
def openFresh (m : Mod) (r : RingRef) (c : Cmd) (p : Nat) (x : Part) (pl : Plan) : Mod :=
  let e := c.entry
  let hs := hostOf m (ringHost m r)
  let a := e.addr0.toNat
  let bad := completeS m r e.cid .badDescriptor
  if rejected hs a 256 then bad
  else
    let b : BitVec 2048 := BitVec.ofNat 2048 (leNat (hostRead hs a 256))
    let n := 4 * sStops b + 8 * sBiases b
    if !blockOk b false || (n != 0 && (sListAddr b % 8 != 0 || rejected hs (sListAddr b) n)) then bad
    else match listsTable b (hostRead hs (sListAddr b) n) with
      | none => bad
      | some tab => match bindCheck x pl (argN e 14 2) (argN e 16 1) (argN e 18 2) false with
        | .error st => completeS m r e.cid st
        | .ok v => match freeSlot x with
          | none => completeS m r e.cid .refusedResources
          | some slot =>
            let t : Sampler := { block := b, counter := 0, table := tab, ring := [], fill := 0 }
            let g := enterSeq x slot none (newSeq 0 (fld e.args 96 3) (argN e 0 8) (argN e 8 4) (argN e 14 2) (argN e 16 1) v t m.time)
            completeOpen (updPart m p (fun _ => g.1)) r c g.2 0

/-- The window ring indices of a record: `fill` of them before the head. -/
def windowTokens (t : Sampler) : List Nat :=
  (List.range t.fill).map (fun k => (mget t.ring ((sHead t.block + 16384 - t.fill + k) % 16384) 0).toNat)

/-- The table and ring of a record are ones the device could have written (R343). -/
def tableOk (t : Sampler) (words : List Word) : Bool :=
  let occ := words.filter eOcc
  let ts := windowTokens t
  t.fill ≤ sWindow t.block && words.all (fun w => fld w 54 10 == 0 && (eOcc w || w == 0))
    && tokensOk (occ.map eToken)
    && occ.all (fun w => (eCount w != 0 || eStop w || eBiasEn w) && (eBiasEn w || eBias w == 0) && !isNan32 (b16ToB32 (eBias w))
        && eCount w == (ts.filter (fun k => k == eToken w)).length
        && (tabEntry? t.table (eToken w)).isSome)
    && ts.all (fun k => k < 2 ^ 20 && (tabEntry? t.table k).isSome)
    && (occ.filter eStop).length == sStops t.block && (occ.filter eBiasEn).length == sBiases t.block

/-- The sampler state of a record (R280, R282). -/
def recordSampler (bs : List Byte) : Sampler × List Word :=
  let words := (List.range 32768).map (fun k => BitVec.ofNat 64 (leAt bs (384 + 8 * k) 8))
  ({ block := BitVec.ofNat 2048 (leAt bs 128 256), counter := BitVec.ofNat 64 (leAt bs 48 8),
     table := ((List.range 32768).zip words).filter (fun p => p.2 != 0),
     ring := ((List.range 16384).map (fun k => (k, BitVec.ofNat 32 (leAt bs (262528 + 4 * k) 4)))).filter (fun p => p.2 != 0),
     fill := leAt bs 96 4 }, words)

/-- Page list entry `i` of a record: its reserved and unused fields are as R280 has them. -/
def entryOk (bs : List Byte) (i : Nat) : Bool :=
  let o := 328064 + 24 * i
  leAt bs (o + 15) 1 == 0 && leAt bs (o + 20) 4 == 0 && (leAt bs (o + 14) 1 == 2 ||
    (leAt bs (o + 14) 1 == 1 && leAt bs (o + 8) 4 == 0 && leAt bs (o + 16) 4 == 0 && leAt bs o 8 < 2 ^ 24))

/-- Check 1 of R281. -/
def recordOk (bs : List Byte) (t : Sampler) (words : List Word) : Bool :=
  let len := leAt bs 20 4
  let pages := leAt bs 32 4
  leAt bs 0 4 == 0x52535153 && leAt bs 4 2 == 0x0100 && leAt bs 6 2 == 0 && leAt bs 8 8 == recordSize pages
    && (pages == 0 || pages == cdiv len 256) && len ≤ 2 ^ 24 && leAt bs 24 4 < 2 ^ 31 && leAt bs 29 1 < 8
    && leAt bs 30 1 ≤ 6 && leAt bs 31 1 ≤ 1 && leAt bs 60 1 ≤ 2 && leAt bs 61 3 == 0 && leAt bs 100 4 == 0 && leAt bs 112 12 == 0
    && leAt bs 124 4 == (crc32c (bs.take 124 ++ leBytes 4 0 ++ bs.drop 128)).toNat
    && leAt bs 40 8 == sSeed t.block && blockOk t.block true && tableOk t words && (List.range pages).all (entryOk bs)

/-- Page list entry `i` as a leaf of the new sequence. -/
def entryLeaf (bs : List Byte) (i : Nat) : Leaf :=
  let o := 328064 + 24 * i
  if leAt bs (o + 14) 1 = 1 then .resident (leAt bs o 8 % 2 ^ 24)
  else .stored { location := leAt bs o 8, slot := leAt bs (o + 16) 4, crc := BitVec.ofNat 32 (leAt bs (o + 8) 4),
                 positions := leAt bs (o + 12) 2 }

/-- A page can take `n` more references (R253). -/
def refRoom (x : Part) (gs : List Nat) : Bool :=
  gs.all (fun g => match mget? x.pages g with
    | some y => decide (y.count + (gs.filter (fun k => k == g)).length ≤ 65535) && y.state != .reclaim
    | none => false)

/-- Enter a sequence that shares pages: leaf tables, slot, references (R253, R273, R281). -/
def enterShared (x : Part) (par : Nat) (q : Seq) : Option (Part × BitVec 32) :=
  match freeSlot x with
  | none => none
  | some slot =>
    if !refRoom x (residents q) then none
    else match growLeaves x q q.leaves.length with
      | none => none
      | some (x1, q1) => some (enterSeq ((residents q).foldl addRef x1) slot (some par) q1)

/-- Every page a record names as resident is that page of the sequence the record was taken of (R281 check 4). -/
def pagesNamed (x : Part) (h : BitVec 32) (leaves : List Leaf) : Bool :=
  (List.range leaves.length).all (fun i => match leaves.getD i .empty with
    | .resident g => ((seqOf? x h).bind (fun q => residentPage q i)) == some g
    | _ => true)

/-- Some leaf is STORED. -/
def anyStored (leaves : List Leaf) : Bool := leaves.any (fun l => match l with
  | .stored _ => true
  | _ => false)

/-- The leaves of a record. -/
def recordLeaves (bs : List Byte) : List Leaf := (List.range (leAt bs 32 4)).map (entryLeaf bs)

/-- The sequence a record describes (R281, R282): PARKED where a leaf is STORED, else OPEN. -/
def recordSeq (bs : List Byte) (base pages v now : Nat) : Seq :=
  let t := (recordSampler bs).1
  let last := mget t.ring ((sHead t.block + 16383) % 16384) 0
  let fresh := newSeq 0 (leAt bs 29 1) base pages (leAt bs 56 2) (leAt bs 60 1) v t now
  { fresh with
    length := leAt bs 20 4, posOffset := leAt bs 24 4, leaves := recordLeaves bs,
    lastToken := if t.fill = 0 then 0 else last.toNat, state := if anyStored (recordLeaves bs) then .parked else .opened }

/-- SEQ_OPEN from a state record (R281, R282). -/
def openRecord (m : Mod) (r : RingRef) (c : Cmd) (p : Nat) (x : Part) (pl : Plan) : Mod :=
  let e := c.entry
  let hs := hostOf m (ringHost m r)
  let n := e.len0.toNat
  let bs := hostRead hs e.addr0.toNat n
  let rs := recordSampler bs
  let fail (st : Status) := completeS m r e.cid st
  if rejected hs e.addr0.toNat n then fail .badDescriptor
  else if ¬ recordOk (bs.take (leAt bs 8 8)) rs.1 rs.2 then fail .badDescriptor
  else if leAt bs 28 1 ≠ pl.cacheFormat ∨ (bs.drop 64).take 32 ≠ pairDigest pl
      ∨ leAt bs 32 4 ≠ (if pl.pairs.isEmpty then 0 else cdiv (leAt bs 20 4) 256) then fail .notPermitted
  else match bindCheck x pl (leAt bs 56 2) (leAt bs 60 1) (leAt bs 58 2) true with
    | .error st => fail st
    | .ok v =>
      let h0 := BitVec.ofNat 32 (leAt bs 16 4)
      if !pagesNamed x h0 (recordLeaves bs) then fail .notPermitted
      else
        let q := recordSeq bs (argN e 0 8) (argN e 8 4) v m.time
        match enterShared x (handleParity h0) q with
        | none => fail .refusedResources
        | some g => completeOpen (updPart m p (fun _ => g.1)) r c g.2 (seqCode q.state)

/-- SEQ_OPEN. -/
def runSeqOpen (m : Mod) (r : RingRef) (c : Cmd) : Mod :=
  onPart m r c (fun p x =>
    let e := c.entry
    if !entryClean e false true false [(0, 64), (64, 32), (96, 3), (104, 1), (112, 16), (128, 8), (144, 16)]
        || (bit e.args 104 && (fld e.args 96 3 != 0 || argN e 14 6 != 0)) || openShort (hostOf m (ringHost m r)) e
        || !areaOk m x (argN e 0 8) (argN e 8 4) then completeS m r e.cid .badDescriptor
    else match x.plan with
      | none => completeS m r e.cid .notPermitted
      | some pl =>
        if planStopped x then waitCmd m r c
        else if bit e.args 104 then openRecord m r c p x pl else openFresh m r c p x pl)

/-! ### Appending and generating -/

/-- A SEQ_APPEND or SEQ_GENERATE is accepted: queued behind the pending commands of its sequence (R254). -/
def acceptRun (m : Mod) (r : RingRef) (c : Cmd) (p : Nat) (toks : List (BitVec 32)) : Mod :=
  let m1 := updCmd m r c.entry.cid (fun d => { d with phase := .running, toks := toks })
  kick (updSeq m1 p c.entry.handle (fun q => { q with
    pending := q.pending ++ [(r, c.entry.cid)],
    written := q.written && !q.pending.isEmpty,
    state := if q.state = .opened then .active else q.state })) p

/-- A sequence in OPEN, ACTIVE or PAUSED takes steps (R254). -/
def takesSteps (q : Seq) : Bool := q.state == .opened || q.state == .active || q.state == .paused

/-- SEQ_APPEND. -/
def runSeqAppend (m : Mod) (r : RingRef) (c : Cmd) : Mod :=
  let e := c.entry
  let n := e.len0.toNat
  let hs := hostOf m (ringHost m r)
  if !entryClean e true true false [] || n < 4 || 2 ^ 26 < n || n % 4 != 0 then completeQ m r c .badDescriptor
  else onPart m r c (fun _ x =>
    if x.frame0 = .faulted ∧ (seqOf? x e.handle).isSome then completeQ m r c .held
    else onSeq m r c true (fun p _ q =>
      if !takesSteps q then completeQ m r c .notPermitted
      else if rejected hs e.addr0.toNat n then completeSeq m r c q .badDescriptor
      else
        let toks := (List.range (n / 4)).map (fun k => BitVec.ofNat 32 (leNat (hostRead hs (e.addr0.toNat + 4 * k) 4)))
        if badToken (toks.headD 0) then completeSeq m r c q .badDescriptor else acceptRun m r c p toks))

/-- SEQ_GENERATE. -/
def runSeqGenerate (m : Mod) (r : RingRef) (c : Cmd) : Mod :=
  let e := c.entry
  let k := maxTokens e
  if !entryClean e true true false [(0, 32), (32, 16)] || k == 0 || 2 ^ 24 < k then completeQ m r c .badDescriptor
  else if e.len0.toNat < 8 + 4 * k then
    let d := compl e.cid .refusedResources
    complete m r { d with handle := e.handle, result1 := 8 + 4 * k }
  else onPart m r c (fun _ x =>
    if x.frame0 = .faulted ∧ (seqOf? x e.handle).isSome then completeQ m r c .held
    else onSeq m r c true (fun p _ q => if !takesSteps q then completeQ m r c .notPermitted else acceptRun m r c p []))

/-! ### Pausing, resuming -/

/-- A command that acts at a step boundary waits while a step runs (R254, R311). -/
def atStep (m : Mod) (r : RingRef) (c : Cmd) (x : Part) (act : Mod) : Mod := if x.inStep then waitCmd m r c else act

/-- SEQ_PAUSE. -/
def runSeqPause (m : Mod) (r : RingRef) (c : Cmd) : Mod :=
  if !entryClean c.entry true false false [] then completeQ m r c .badDescriptor
  else onSeq m r c false (fun p x q =>
    if x.inStep then waitCmd (closeGates m p) r c
    else if q.state = .opened ∨ q.state = .active then
      completeSeq (updSeq m p q.handle (fun s => { s with state := .paused, hold := false })) r c q .ok
    else completeQ m r c .notPermitted)

/-- SEQ_RESUME. -/
def runSeqResume (m : Mod) (r : RingRef) (c : Cmd) : Mod :=
  if !entryClean c.entry true false false [] then completeQ m r c .badDescriptor
  else onSeq m r c false (fun p x q => atStep m r c x (
    if q.state = .paused then
      kick (completeSeq (updSeq m p q.handle (fun s => { s with state := if s.pending.isEmpty then .opened else .active })) r c q .ok) p
    else completeQ m r c .notPermitted))

/-! ### Parking, unparking -/

/-- SEQ_PARK (R276). -/
def runSeqPark (m : Mod) (r : RingRef) (c : Cmd) : Mod :=
  let e := c.entry
  let base := argN e 0 8
  let pages := argN e 8 4
  if !entryClean e true false false [(0, 64), (64, 32)] then completeQ m r c .badDescriptor
  else onSeq m r c false (fun p x q =>
    let keep : Bool := base == 0 && pages == 0
    if !keep && (base == 0 || pages == 0 || !storeAreaOk m x base) then completeQ m r c .badDescriptor
    else if q.state ≠ .opened ∧ q.state ≠ .paused then completeQ m r c .notPermitted
    else
      let q1 := if keep then q else { q with storeBase := base, storePages := pages }
      if q1.storePages = 0 ∨ q1.storePages < seqPages x q then completeSeq m r c q .refusedResources
      else
        let m1 := updSeq (runningCmd m r c) p q.handle (fun s => { s with
          storeBase := q1.storeBase, storePages := q1.storePages, state := .parking, pausedBefore := q.state = .paused })
        parkNext m1 p q.handle)

/-- A LOST sequence keeps what lies below its last good position; a LOST page with a copy counts as STORED (R283). -/
def salvage (x : Part) (q : Seq) : Part × Seq :=
  let g := lastGood x q
  let n := if hasCache x then cdiv g.1 256 else 0
  let x1 := dropFrom x q n
  let kept := q.leaves.take n
  let x2 := kept.foldl (fun y l => match l with
    | .resident k => if leafLost x l then dropRef y k else y
    | _ => y) x1
  let leaves := kept.map (fun l => match l with
    | .resident k => if leafLost x l then (match (mget? x.pages k).bind (fun y => y.copy) with
        | some c => .stored c
        | none => .lost) else l
    | _ => l)
  let z := shrinkLeaves x2 { q with leaves := leaves, length := g.1 } n
  (z.1, z.2)

/-- Leaves that are STORED. -/
def storedLeaves (q : Seq) : Nat := (q.leaves.filter (fun l => match l with
  | .stored _ => true
  | _ => false)).length

/-- SEQ_UNPARK (R277). -/
def runSeqUnpark (m : Mod) (r : RingRef) (c : Cmd) : Mod :=
  if !entryClean c.entry true false false [] then completeQ m r c .badDescriptor
  else onSeq m r c false (fun p x q =>
    if q.state ≠ .parked ∧ q.state ≠ .lost then completeQ m r c .notPermitted
    else
      let z := if q.state = .lost then salvage x q else (x, q)
      let n := storedLeaves z.2
      if freePages x < n then completeSeq m r c q .refusedResources
      else
        let y := putSeq z.1 { z.2 with state := .unparking, wasLost := q.state = .lost }
        let m1 := updPart (runningCmd m r c) p (fun w => { y with reserved := y.reserved ++ [(q.handle, n)], pairs := w.pairs })
        unparkNext (writeTables (poolCheck m1 p) p) p q.handle)

/-! ### Forking, truncating -/

/-- SEQ_FORK (R273, R347). -/
def runSeqFork (m : Mod) (r : RingRef) (c : Cmd) : Mod :=
  let e := c.entry
  let mode := argN e 0 1
  let seed := argN e 8 8
  if !entryClean e true false false [(0, 8), (64, 64), (128, 64), (192, 32)] || 2 < mode || (mode == 0 && seed != 0) then
    completeQ m r c .badDescriptor
  else onSeq m r c false (fun p x q =>
    if !areaOk m x (argN e 16 8) (argN e 24 4) then completeQ m r c .badDescriptor
    else atStep m r c x (
      if !(takesSteps q || q.state == .parked) then completeQ m r c .notPermitted
      else
        let old := sSeed q.samp.block
        let s := if mode = 0 then old else if mode = 1 then seed else seed ^^^ old
        let child := { q with
          state := if q.state = .parked then .parked else .opened, pending := [], hold := false, holdTarget := false,
          storeBase := argN e 16 8, storePages := argN e 24 4, leafTables := [], leaves := q.leaves.take (seqPages x q),
          pausedBefore := false, written := false, tableReady := true, samp := { q.samp with block := putFld q.samp.block 0 64 s } }
        match enterShared x (handleParity q.handle) child with
        | none => completeSeq m r c q .refusedResources
        | some g => completeOpen (updPart m p (fun _ => g.1)) r c g.2 0))

/-- References of a page that are transfers: records being written of it, and snapshots that keep it (R268). -/
def transferRefs (x : Part) (g : Nat) : Nat :=
  (x.storeWrites.filter (fun w => w.slotPage = g)).length + (x.snaps.filter (fun t => t.held.contains g)).length

/-- The page a tail truncation cuts into becomes FILLING when no other sequence holds it (R267); a record of it on its way is
no current copy (R284). -/
def cutPage (x : Part) (q : Seq) (n : Nat) : Part :=
  if n % 256 = 0 then x
  else match residentPage q (n / 256) with
    | none => x
    | some g => match mget? x.pages g with
      | none => x
      | some y =>
        if y.count = 1 + transferRefs x g then
          let x1 := updPage x g (fun z => { z with
            positions := min z.positions (n % 256), state := .filling, copy := if z.state = .full then none else z.copy })
          { x1 with storeWrites := x1.storeWrites.map (fun w => if w.slotPage = g then { w with stale := true } else w) }
        else x

/-- What the next batch has taken for a sequence goes back: its entry there runs no more (R326). -/
def withdrawNext (x : Part) (h : BitVec 32) : Part :=
  let y := (x.nextBatch.filter (fun b => b.valid && b.handle = h)).foldl dropMember x
  { y with nextBatch := y.nextBatch.map (fun b =>
      if b.handle = h then { b with valid := false, new := 0, newPages := [], cow := none } else b) }

/-- Tail truncation to `n` positions (R274). -/
def truncTail (x0 : Part) (h : BitVec 32) (n : Nat) : Part :=
  let x := withdrawNext x0 h
  match seqOf? x h with
  | none => x0
  | some q =>
    if hasCache x then
      let k := cdiv n 256
      let y := keepSnaps x h (residents { q with leaves := q.leaves.drop (n / 256) })
      let z := shrinkLeaves (cutPage (dropFrom y q k) q n) q k
      putSeq z.1 { z.2 with length := n }
    else putSeq x { q with length := n }

/-- Drop pages a to b - 1 (R274). -/
def truncDrop (x0 : Part) (h : BitVec 32) (a b : Nat) (keep : Bool) : Part :=
  let x := withdrawNext x0 h
  match seqOf? x h with
  | none => x0
  | some q =>
    let len := q.length - 256 * (b - a)
    let off := if keep then q.posOffset + 256 * b else q.posOffset
    if hasCache x then
      let gone := residents { q with leaves := (q.leaves.drop a).take (b - a) }
      let x1 := gone.foldl dropRef (keepSnaps x h gone)
      let z := shrinkLeaves x1 { q with leaves := q.leaves.take a ++ q.leaves.drop b } (cdiv len 256)
      putSeq z.1 { z.2 with length := len, posOffset := off }
    else putSeq x { q with length := len, posOffset := off }

/-- SEQ_TRUNCATE (R274). -/
def runSeqTruncate (m : Mod) (r : RingRef) (c : Cmd) : Mod :=
  let e := c.entry
  let form := argN e 0 1
  let keep := bit e.args 8
  let n := argN e 4 4
  let a := argN e 8 4
  let b := argN e 12 4
  let bad : Bool := !entryClean e true false false [(0, 8), (8, 1), (32, 32), (64, 32), (96, 32)] || 1 < form
    || (form == 0 && (keep || a != 0 || b != 0)) || (form == 1 && n != 0) || b < a || (keep && a != 0)
  if bad then completeQ m r c .badDescriptor
  else onSeq m r c false (fun p x q => atStep m r c x (
    if q.state ≠ .opened ∧ q.state ≠ .paused ∧ q.state ≠ .parked then completeQ m r c .notPermitted
    else if (form = 0 ∧ q.length < n) ∨ (form = 1 ∧ q.length < 256 * b) ∨ (keep ∧ 2 ^ 31 ≤ q.posOffset + 256 * b) then
      completeQ m r c .notPermitted
    else
      let m1 := writeTables (updPart m p (fun y => if form = 0 then truncTail y q.handle n else truncDrop y q.handle a b keep)) p
      let len := if form = 0 then n else q.length - 256 * (b - a)
      completeSeq m1 r c { q with length := len } .ok))

/-! ### Closing, snapshots -/

/-- Remove a sequence: pending commands and transfers ABORTED, references dropped, leaf tables and slot free (R254, R284). -/
def closeSeq (m : Mod) (p : Nat) (h : BitVec 32) : Mod :=
  match (partOf? m p).bind (fun x => seqOf? x h) with
  | none => m
  | some q =>
    let m1 := endTransfers (endPending m p h .aborted 3 q.length) p h .aborted q.length
    updPart m1 p (fun x =>
      let x1 := dropFrom x q 0
      { x1 with
        seqs := x1.seqs.filter (fun s => s.handle != h), leafUsed := x1.leafUsed.filter (fun k => !q.leafTables.contains k),
        journalQ := x1.journalQ.filter (fun j => j.1 != h) })

/-- An unfinished step stands still: frame 0 is HELD or FAULTED (R302). -/
def stepStopped (x : Part) : Bool := x.frame0 == .held || x.frame0 == .faulted

/-- SEQ_CLOSE (R254, R302). -/
def runSeqClose (m : Mod) (r : RingRef) (c : Cmd) : Mod :=
  if !entryClean c.entry true false false [] then completeQ m r c .badDescriptor
  else onSeq m r c true (fun p x q =>
    if x.inStep ∧ ¬ (stepStopped x ∧ ((memberNow x q.handle).isNone ∨ x.repair.isSome)) then waitCmd m r c
    else
      let k := compl c.entry.cid .ok
      complete (poolCheck (closeSeq (abortEarlier m p q.handle c.fetchNo) p q.handle) p) r { k with handle := q.handle })

/-- SEQ_SNAPSHOT (R280, R302). -/
def runSeqSnapshot (m : Mod) (r : RingRef) (c : Cmd) : Mod :=
  let e := c.entry
  if !entryClean e true true false [(0, 1)] then completeQ m r c .badDescriptor
  else onSeq m r c true (fun p x q =>
    if x.inStep ∧ ¬ stepStopped x then waitCmd m r c
    else if !(takesSteps q || q.state == .parked) then completeQ m r c .notPermitted
    else match x.plan with
      | none => m
      | some pl =>
        let n := seqPages x q
        let k := compl e.cid .refusedResources
        let full : Completion := { k with handle := q.handle, result1 := recordSize n }
        if e.len0.toNat < recordSize n then complete m r full
        else
          let t : Snap := { ring := r, cid := e.cid, seq := q, code := seqCode q.state, time := m.time,
                            copies := (List.range n).map (copyOf x q), held := [] }
          if !bit e.args 0 then finishSnap m pl t 0
          else if q.storePages = 0 ∧ t.copies.any (fun c => c.isNone) then complete m r full
          else snapNext (updPart (runningCmd m r c) p (fun y => { y with snaps := y.snaps ++ [t] })) p t)

/-! ### Masked walks, the epoch -/

/-- `KV_MASK_REPORT`: Ringmaster takes the oldest report of a masked walk (R263). -/
def doKvMaskReport (p : Nat) (m : Mod) : Mod :=
  match partOf? m p with
  | none => m
  | some x => match x.maskReports with
    | [] => m
    | (h, page, reason, site) :: rest =>
      let m1 := updPart m p (fun y => { y with
        maskReports := rest, batch := y.batch.map (fun b => if b.handle = h then { b with masked := true } else b) })
      let m2 := post m1 0x0501 (some p) (kvPayload m1 h.toNat page p reason site 0)
      match seqOf? x h with
      | none => m2
      | some q =>
        if q.state = .lost then m2
        else
          let y (x : Part) : Part := match residentPage q page with
            | some g => dropRef (putSeq x (setLeaf q page .lost)) g
            | none => putSeq x (setLeaf q page .lost)
          writeTables (loseSeq (updPart m2 p y) p site h) p

/-- `EPOCH_TICK`: 1 ms without a step (R271). -/
def doEpochTick (p : Nat) (m : Mod) : Mod :=
  match partOf? m p with
  | some x => if x.inStep ∨ x.plan.isNone then m else poolCheck (updPart m p (advanceEpoch m.time)) p
  | none => m

/-! ### The commands -/

/-- `SEQ_OPEN`. -/
def execSeqOpen (r : RingRef) (e : SqEntry) (h : HostSide) (s : State) : Host.Outcome State Fault Refusal :=
  lift (takeCmd r e h 0x01 runSeqOpen) s
/-- `SEQ_APPEND`. -/
def execSeqAppend (r : RingRef) (e : SqEntry) (h : HostSide) (s : State) : Host.Outcome State Fault Refusal :=
  lift (takeCmd r e h 0x02 runSeqAppend) s
/-- `SEQ_GENERATE`. -/
def execSeqGenerate (r : RingRef) (e : SqEntry) (h : HostSide) (s : State) : Host.Outcome State Fault Refusal :=
  lift (takeCmd r e h 0x03 runSeqGenerate) s
/-- `SEQ_PAUSE`. -/
def execSeqPause (r : RingRef) (e : SqEntry) (h : HostSide) (s : State) : Host.Outcome State Fault Refusal :=
  lift (takeCmd r e h 0x04 runSeqPause) s
/-- `SEQ_RESUME`. -/
def execSeqResume (r : RingRef) (e : SqEntry) (h : HostSide) (s : State) : Host.Outcome State Fault Refusal :=
  lift (takeCmd r e h 0x05 runSeqResume) s
/-- `SEQ_PARK`. -/
def execSeqPark (r : RingRef) (e : SqEntry) (h : HostSide) (s : State) : Host.Outcome State Fault Refusal :=
  lift (takeCmd r e h 0x06 runSeqPark) s
/-- `SEQ_UNPARK`. -/
def execSeqUnpark (r : RingRef) (e : SqEntry) (h : HostSide) (s : State) : Host.Outcome State Fault Refusal :=
  lift (takeCmd r e h 0x07 runSeqUnpark) s
/-- `SEQ_FORK`. -/
def execSeqFork (r : RingRef) (e : SqEntry) (h : HostSide) (s : State) : Host.Outcome State Fault Refusal :=
  lift (takeCmd r e h 0x08 runSeqFork) s
/-- `SEQ_TRUNCATE`. -/
def execSeqTruncate (r : RingRef) (e : SqEntry) (h : HostSide) (s : State) : Host.Outcome State Fault Refusal :=
  lift (takeCmd r e h 0x09 runSeqTruncate) s
/-- `SEQ_CLOSE`. -/
def execSeqClose (r : RingRef) (e : SqEntry) (h : HostSide) (s : State) : Host.Outcome State Fault Refusal :=
  lift (takeCmd r e h 0x0A runSeqClose) s
/-- `SEQ_SNAPSHOT`. -/
def execSeqSnapshot (r : RingRef) (e : SqEntry) (h : HostSide) (s : State) : Host.Outcome State Fault Refusal :=
  lift (takeCmd r e h 0x0B runSeqSnapshot) s
/-- `STORE_READ_DATA`. -/
def execStoreReadData (p : PartId) (failed : Bool) (record : List Byte) (s : State) : Host.Outcome State Fault Refusal :=
  lift (doStoreReadData p.val failed record) s
/-- `KV_MASK_REPORT`. -/
def execKvMaskReport (p : PartId) (s : State) : Host.Outcome State Fault Refusal := lift (doKvMaskReport p.val) s
/-- `EPOCH_TICK`. -/
def execEpochTick (p : PartId) (s : State) : Host.Outcome State Fault Refusal := lift (doEpochTick p.val) s

end Sys2Proof.Machine
end

