-- ==== Sys2Proof/Machine/Vector.lean ====
section
/-! DEFINITION. The vector engine (02_core.md R67-R71, 03_narrow_arithmetic.md R101-R108, R119). -/
namespace Sys2Proof.Machine
open Sys2Proof

/-- Run a vector instruction whose result is a function of the source values; `param` says that it reads the parameter
operand. -/
def runVector (m : Mod) (op : Nat) (i : Issue) (param : Bool)
    (g : Part → Core → List B32 → Except (Core × Trap) (Core × List B32)) : Mod :=
  runCompute m 3 op i false badVecFmt (fun x c => do
    vBounds param x i.word c
    let (c1, vs) ← vSource i.scratch x i.word c
    let (c2, ys) ← g x c1 vs
    vDest x i.word c2 ys)

/-- Nothing but the instruction's own completion. -/
def doNop (i : Issue) (m : Mod) : Mod := runCompute m 3 0x00 i false badVecFmt (fun _ c => pure c)

/-- Lines move unchanged, tags kept (R96). -/
def copyLines (i : Issue) (fmt : Nat) (c : Core) : Except (Core × Trap) Core := do
  let w := i.word
  let k := operandWords fmt (vCount w)
  let a ← segAddr c (fld w 44 3) (fld w 48 22) k
  let b ← segAddr c (fld w 70 3) (fld w 74 22) k
  let (c1, ls) ← readScrLines i.scratch c fmt a (k / 9)
  pure ((List.range ls.length).foldl (fun d t => writeLine d (b + 9 * t) (ls.getD t 0)) c1)

/-- `COPY`: lines of one format move as they are; any other pair of formats converts. -/
def doCopy (i : Issue) (m : Mod) : Mod :=
  runCompute m 3 0x01 i false badVecFmt (fun x c =>
    let w := i.word
    let f := resolveFmt x c (wLayer w) (fld w 32 6)
    let g := resolveFmt x c (wLayer w) (fld w 38 6)
    if f = g ∧ f ≠ 0x10 ∧ f ≠ 0x11 ∧ ¬ bit w 47 ∧ ¬ bit w 73 then copyLines i f c
    else do
      vBounds false x w c
      let (c1, vs) ← vSource i.scratch x w c
      vDest x w c1 vs)

/-- Reserved values of `QUANT` (R82); a destination in the accumulator file is none that packed lines could go to
(DESIGN CHOICE, log entry 85). -/
def badQuant (w : InstrWord) : Bool :=
  let o := fld w 38 6
  !((1 ≤ o && o ≤ 6) || o == 0x10 || o == 0x11 || o == 0x3F) || bit w 73 || !fmtVector (fld w 32 6)

/-- Check selection (R70, R71, R107): the counter advances by T; a crossing of a multiple of N selects the column, at its
first crossing where T spans several (DESIGN CHOICE, log entry 86), or is dropped when all 4 entries are busy. At level 3
nothing is sampled (R73, R125). -/
def selectColumn (x : Part) (s : Nat) (w : InstrWord) (T addr fmt : Nat) (static : Option Nat) (vs : List B32) (c : Core) : Core :=
  if T = 0 ∨ x.refill.any (fun r => r.1 = s) then c
  else
    let n := c.checkCounter
    let c1 := { c with checkCounter := (n + T) % 2 ^ 32 }
    let nxt := (n / c.checkN + 1) * c.checkN
    if n + T < nxt ∨ coreLevel c (wLayer w) = 3 then c1
    else if 4 ≤ c.reserve.length then { c1 with checkSkipped := c1.checkSkipped + 1 }
    else { c1 with reserve := c1.reserve ++
      [{ layer := wLayer w, ordinal := nxt - n - 1, seen := 0, handle := 0xFFFFFFFF, address := addr,
         inputs := vs.map (fun v => b16ToB32 (b32ToB16 v)), fmt := fmt, scale := static, level := coreLevel c (wLayer w),
         results := [], source := 0, word := 0, interval := 1, member := 0 }] }

/-- `QUANT` (R101-R107): one instruction quantises one column. -/
def doQuant (i : Issue) (m : Mod) : Mod :=
  runCompute m 3 0x02 i false badQuant (fun x c =>
    let w := i.word
    let sc := (vParam w c).scalar
    if fld sc 17 15 ≠ 0 then .error (c, ⟨0x01, 0, 0⟩)
    else do
      vBounds false x w c
      let (c1, vs) ← vSource i.scratch x w c
      let fmt := resolveFmt x c1 (wLayer w) (fld w 38 6)
      let a ← segAddr c1 (fld w 70 3) (fld w 74 22) (operandWords fmt vs.length)
      let static := if bit sc 16 then some (fld sc 8 8) else none
      let enc := encodeOperand x c1 (wLayer w) fmt static vs
      let c2 := countBlocks (writeWords c1 a enc.1) (wLayer w) enc.2
      pure (selectColumn x i.site.val w (fld sc 0 8) a fmt static vs c2))

/-- Reserved values of `DEQUANT`: it unpacks to binary32 or bfloat16 (R68), so another destination format in scratch is
refused (DESIGN CHOICE, log entry 85). -/
def badDequant (w : InstrWord) : Bool :=
  badVecFmt w || (!(bit w 73) && !(fld w 38 6 == 0x10 || fld w 38 6 == 0x11))

/-- `DEQUANT` (R108). -/
def doDequant (i : Issue) (m : Mod) : Mod :=
  runCompute m 3 0x03 i false badDequant (fun x c => do
    vBounds false x i.word c
    let (c1, vs) ← vSource i.scratch x i.word c
    vDest x i.word c1 vs)

/-- Element-wise operation with the parameter operand. -/
def doBinary (op : Nat) (f : B32 → B32 → B32) (i : Issue) (m : Mod) : Mod :=
  runVector m op i true (fun _ c vs => do
    let (c1, ps) ← vParamVals i.scratch i.word c vs.length
    pure (c1, List.zipWith f vs ps))

/-- `SCALE`: multiply by the descriptor's scalar. -/
def doScale (i : Issue) (m : Mod) : Mod :=
  runVector m 0x06 i false (fun _ c vs => pure (c, vs.map (fun v => mul32 v (vParam i.word c).scalar)))

/-- `RMSNORM`: gain from the parameter operand; the values are open (R119, log entry 10). -/
def doRmsnorm (i : Issue) (m : Mod) : Mod :=
  runVector m 0x08 i true (fun _ c vs => do
    let (c1, ps) ← vParamVals i.scratch i.word c vs.length
    let ys := Config.rmsNorm vs ps
    pure (c1, (List.range vs.length).map (fun k => ys.getD k 0)))

/-- `LAYERNORM`: gains, then biases, from the parameter operand. -/
def doLayernorm (i : Issue) (m : Mod) : Mod :=
  runVector m 0x09 i true (fun _ c vs => do
    let (c1, ps) ← vParamVals i.scratch i.word c (2 * vs.length)
    let ys := Config.layerNorm vs ps
    pure (c1, (List.range vs.length).map (fun k => ys.getD k 0)))

/-- `SOFTMAX`: an input of -Inf is a masked position and gives 0. -/
def doSoftmax (i : Issue) (m : Mod) : Mod :=
  runVector m 0x0A i false (fun _ c vs =>
    let ys := Config.softmax vs
    pure (c, (List.range vs.length).map (fun k => if vs.getD k 0 = 0xFF800000 then 0 else ys.getD k 0)))

/-- The activation function a descriptor selects by scalar bits [7:0]: 0 SiLU, 1 GELU (tanh), 2 GELU (erf), 3 squared
ReLU, 4 identity (DESIGN CHOICE, log entry 20). -/
def activation (sel : Nat) (v : B32) : B32 :=
  match sel with
  | 3 => if lt32 0 v then mul32 v v else if isNan32 v then 0x7FC00000 else 0
  | 4 => v
  | k => Config.actFn k v

/-- `ACT`. -/
def doAct (i : Issue) (m : Mod) : Mod :=
  runVector m 0x0B i false (fun _ c vs => pure (c, vs.map (activation (fld (vParam i.word c).scalar 0 8))))

/-- `GATE`: the activated source times the parameter operand. -/
def doGate (i : Issue) (m : Mod) : Mod :=
  runVector m 0x0C i true (fun _ c vs => do
    let (c1, ps) ← vParamVals i.scratch i.word c vs.length
    pure (c1, List.zipWith (fun g u => mul32 (activation (fld (vParam i.word c).scalar 0 8) g) u) vs ps))

/-- Rotate one vector of 128 elements at rotary position `r`: pairs (2k, 2k+1) (DESIGN CHOICE, log entry 20). -/
def rotate (r : Nat) (vs : List B32) : List B32 :=
  (List.range 64).flatMap (fun k =>
    let a := vs.getD (2 * k) 0
    let b := vs.getD (2 * k + 1) 0
    let s := Config.ropeSin r k
    let c := Config.ropeCos r k
    [sub32 (mul32 a c) (mul32 b s), add32 (mul32 a s) (mul32 b c)])

/-- Rotate a run of 128-element vectors, vector `j` at position `pos j`. -/
def rotateAll (pos : Nat → Nat) (vs : List B32) : List B32 :=
  let cs := chunksOf 128 vs
  ((List.range cs.length).flatMap (fun j => rotate (pos j) (cs.getD j []))).take vs.length

/-- Word `k` of a member header line (R265). -/
def headerWord (e : QEntry) (k : Nat) : Nat := fld (e.lines.headD 0) (32 * k) 32

/-- Lines of one run of a `KVREAD` entry for a member of `len` positions (R262). -/
def entryRun (f : Packed) (len : Nat) : Nat :=
  (List.range (cdiv len 256)).foldl (fun a i => a + linesFor f (min 256 (len - 256 * i))) 0

/-- Where line `t` of an entry lies: the entry line at which its run begins, and its first element in the run, counted
32,768 a page (R262). -/
def entryPlace (f : Packed) (per t : Nat) : Nat × Nat :=
  let r := (t - 1) / per
  let u := (t - 1) % per
  (1 + per * r, 32768 * (u / runLines f 1024) + f.perLine * (u % runLines f 1024))

/-- Entry lines that hold elements `g0` to `g0 + n - 1` of the run that begins at entry line `b`. -/
def entryLinesOf (f : Packed) (b g0 n : Nat) : List Nat :=
  ((List.range n).map (fun k =>
    let g := g0 + k
    b + runLines f 1024 * (g / 32768) + g % 32768 / f.perLine)).eraseDups

/-- Elements `g0` to `g0 + n - 1` of that run. -/
def entryKeys (f : Packed) (e : QEntry) (b g0 n : Nat) : List B32 :=
  (List.range n).map (fun k =>
    let g := g0 + k
    runVal f (e.lines.drop (b + runLines f 1024 * (g / 32768))) (g % 32768))

/-- Key lines of the entry at the head of queue `q`, rotated: `SOFF` counts from the entry's first word, so it names any
line of any key run of the entry; the position of each vector follows from its place (R266; DESIGN CHOICE, log entry
20). -/
def ropeKeys (i : Issue) (x : Part) (c : Core) (f : Packed) (q : Nat) (e : QEntry) : Except (Core × Trap) Core := do
  let w := i.word
  let n := vCount w
  let (b, g0) := entryPlace f (max 1 (entryRun f (headerWord e 1))) (max 1 (fld w 48 22 / 9))
  let js := entryLinesOf f b g0 n
  let c1 ← readStaged i.scratch c q e (0 :: js)
  match js.find? (fun j => !fmtMatch (tagFmt (e.lines.getD j 0)) f.code) with
  | some j => .error (c1, ⟨0x05, f.code, stageWord c q e j⟩)
  | none => vDest x w c1 (rotateAll (fun j => headerWord e 2 + g0 / 128 + j) (entryKeys f e b g0 n))

/-- `ROPE` (R266). With `SQ_EN` the positions come from the member header: descriptor scalar bit 0 selects key lines of
the entry, else query vectors from scratch (DESIGN CHOICE, log entry 20). Without it, position `j` is word `j` of the
parameter operand. -/
def doRope (i : Issue) (m : Mod) : Mod :=
  runCompute m 3 0x0D i false badVecFmt (fun x c =>
    let w := i.word
    match wSqEn w, (c.queues.getD (wSq w) []).head? with
    | true, some e =>
      if bit (vParam w c).scalar 0 then
        match packedOf (resolveFmt x c (wLayer w) (fld w 32 6)) with
        | some f => do
          if bit w 73 then accRange c (fld w 74 22) (vCount w)
          else let _ ← segAddr c (fld w 70 3) (fld w 74 22) (operandWords (resolveFmt x c (wLayer w) (fld w 38 6)) (vCount w))
          ropeKeys i x c f (wSq w) e
        | none => .error (c, ⟨0x01, 0, 0⟩)
      else do
        vBounds false x w c
        let c0 ← readStaged i.scratch c (wSq w) e [0]
        let (c1, vs) ← vSource i.scratch x w c0
        vDest x w c1 (rotateAll (fun j => headerWord e 3 + j) vs)
    | _, _ => do
      vBounds true x w c
      let (c1, vs) ← vSource i.scratch x w c
      let (c2, ps) ← vParamVals i.scratch w c1 (cdiv (vCount w) 128)
      vDest x w c2 (rotateAll (fun j => (ps.getD j 0).toNat) vs))

/-- `ACC_CLEAR`: invalidate `COUNT` entries from `DOFF` (R63). -/
def doAccClear (i : Issue) (m : Mod) : Mod :=
  runCompute m 3 0x0E i false badVecFmt (fun _ c => do
    let a := fld i.word 74 22
    let n := vCount i.word
    accRange c a n
    pure { c with acc := mdelRange c.acc a (a + n) })

/-- `SETP` (R69). -/
def doSetp (i : Issue) (m : Mod) : Mod :=
  runCompute m 3 0x3E i false (fun w => fld w 109 7 != 0) (fun _ c =>
    let w := i.word
    let d : Param := { seg := fld w 36 3, off := fld w 39 22, len := fld w 61 16 + 1, scalar := BitVec.ofNat 32 (fld w 77 32) }
    pure { c with params := lupd c.params (fld w 32 4) (fun _ => d) })

/-- `NOP`. -/
def execNop (i : Issue) (s : State) : Host.Outcome State Fault Refusal := lift (doNop i) s
/-- `COPY`. -/
def execCopy (i : Issue) (s : State) : Host.Outcome State Fault Refusal := lift (doCopy i) s
/-- `QUANT`. -/
def execQuant (i : Issue) (s : State) : Host.Outcome State Fault Refusal := lift (doQuant i) s
/-- `DEQUANT`. -/
def execDequant (i : Issue) (s : State) : Host.Outcome State Fault Refusal := lift (doDequant i) s
/-- `ADD`. -/
def execAdd (i : Issue) (s : State) : Host.Outcome State Fault Refusal := lift (doBinary 0x04 add32 i) s
/-- `MUL`. -/
def execMul (i : Issue) (s : State) : Host.Outcome State Fault Refusal := lift (doBinary 0x05 mul32 i) s
/-- `SCALE`. -/
def execScale (i : Issue) (s : State) : Host.Outcome State Fault Refusal := lift (doScale i) s
/-- `RMSNORM`. -/
def execRmsnorm (i : Issue) (s : State) : Host.Outcome State Fault Refusal := lift (doRmsnorm i) s
/-- `LAYERNORM`. -/
def execLayernorm (i : Issue) (s : State) : Host.Outcome State Fault Refusal := lift (doLayernorm i) s
/-- `SOFTMAX`. -/
def execSoftmax (i : Issue) (s : State) : Host.Outcome State Fault Refusal := lift (doSoftmax i) s
/-- `ACT`. -/
def execAct (i : Issue) (s : State) : Host.Outcome State Fault Refusal := lift (doAct i) s
/-- `GATE`. -/
def execGate (i : Issue) (s : State) : Host.Outcome State Fault Refusal := lift (doGate i) s
/-- `ROPE`. -/
def execRope (i : Issue) (s : State) : Host.Outcome State Fault Refusal := lift (doRope i) s
/-- `ACC_CLEAR`. -/
def execAccClear (i : Issue) (s : State) : Host.Outcome State Fault Refusal := lift (doAccClear i) s
/-- `SETP`. -/
def execSetp (i : Issue) (s : State) : Host.Outcome State Fault Refusal := lift (doSetp i) s

end Sys2Proof.Machine
end

