-- ==== Sys2Proof/Machine/Image.lean ====
section
/-! DEFINITION. Plan images: reading them, the load checks 1-18, mapping and placement (07_plans_and_compiler_contract.md
R218-R248). -/
namespace Sys2Proof.Machine
open Sys2Proof

/-! ### Refusals (R247, R248) -/

/-- A refusal: its record's fields. -/
structure Refuse where
  code : Nat
  section_ : Nat
  vcore : Nat
  site : Nat
  region : Nat
  item : Nat
  asked : Nat
  available : Nat
  deriving DecidableEq, Repr

/-- A refusal with a code and an item. -/
def refuse (code item asked available : Nat) : Refuse :=
  { code := code, section_ := 0xFFFF, vcore := 0xFFFFFFFF, site := 0xFFFF, region := 0xFF, item := item, asked := asked,
    available := available }

/-- The 64-byte record (R247). -/
def refusalBytes (t : Nat) (r : Refuse) : List Byte :=
  leBytes 2 r.code ++ leBytes 2 r.section_ ++ leBytes 4 r.vcore ++ leBytes 2 r.site ++ leBytes 1 r.region ++ leBytes 1 0
    ++ leBytes 4 r.item ++ leBytes 8 r.asked ++ leBytes 8 r.available ++ leBytes 8 t ++ leBytes 24 0

/-- A check answers nothing or a refusal. -/
abbrev Check := Except Refuse Unit

/-- Require a condition. -/
def need (b : Bool) (r : Refuse) : Check := if b then .ok () else .error r

/-- Check every element in turn. -/
def eachOk {α : Type} (f : α → Check) : List α → Check
  | [] => .ok ()
  | a :: as_ => match f a with
    | .ok () => eachOk f as_
    | .error r => .error r

/-! ### The image (R226-R228) -/

/-- A section table entry. -/
structure ImgSec where
  idx : Nat
  typ : Nat
  vcore : Nat
  off : Nat
  size : Nat
  crc : Nat
  deriving DecidableEq, Repr

/-- The section table. -/
def sections (img : List Byte) : List ImgSec :=
  (List.range (leAt img 6 2)).map (fun i =>
    let o := 256 + 32 * i
    { idx := i, typ := leAt img o 2, vcore := leAt img (o + 4) 4, off := leAt img (o + 8) 8, size := leAt img (o + 16) 8,
      crc := leAt img (o + 24) 4 })
/-- The bytes of a section. -/
def secBytes (img : List Byte) (s : ImgSec) : List Byte := (img.drop s.off).take s.size
/-- The section of a type for a virtual core. -/
def secOf (img : List Byte) (typ v : Nat) : Option ImgSec := (sections img).find? (fun s => s.typ = typ && s.vcore = v)
/-- The module-wide section of a type. -/
def modSec (img : List Byte) (typ : Nat) : Option ImgSec := secOf img typ 0xFFFFFFFF
/-- The bytes of a module-wide section, empty where absent. -/
def modBytes (img : List Byte) (typ : Nat) : List Byte := ((modSec img typ).map (secBytes img)).getD []
/-- The bytes of a per-core section. -/
def coreBytes (img : List Byte) (typ v : Nat) : List Byte := ((secOf img typ v).map (secBytes img)).getD []
/-- Index of a module-wide section in the table. -/
def secIdx (img : List Byte) (typ v : Nat) : Nat := ((secOf img typ v).map (fun s => s.idx)).getD 0xFFFF
/-- `VCORES`. -/
def imgVcores (img : List Byte) : Nat := leAt img 144 4
/-- Name the section a refusal comes from. -/
def inSec (img : List Byte) (typ v : Nat) (r : Refuse) : Refuse := { r with section_ := secIdx img typ v, vcore := v }
/-- A refusal of a module-wide section. -/
def inMod (img : List Byte) (typ : Nat) (r : Refuse) : Refuse := { r with section_ := secIdx img typ 0xFFFFFFFF }

/-- Reserved fields of a section: (byte offset, first bit, width) (R220, R227-R236). -/
def reservedOf (s : ImgSec) (bs : List Byte) : List (Nat × Nat × Nat) :=
  let rows (h w : Nat) (f : List (Nat × Nat × Nat)) : List (Nat × Nat × Nat) :=
    (List.range ((bs.length - h) / w)).flatMap (fun i => f.map (fun r => (h + w * i + r.1, r.2)))
  match s.typ with
  | 0x0001 => [(5, 2, 6), (6, 7, 9), (16, 4, 4), (17, 2, 6), (24, 0, 832)]
  | 0x0002 => [(4, 6, 2), (19, 0, 360)]
  | 0x0011 => [(0xE8, 0, 192)]
  | 0x0020 => rows 4 8 [(0, 11, 5), (2, 12, 3), (4, 18, 14)]
  | 0x0021 => rows 4 8 [(3, 0, 8)]
  | 0x0022 => [(1, 0, 24), (4, 24, 8), (12, 0, 32)] ++ rows 16 8 [(0, 11, 5), (2, 12, 3), (4, 18, 14)]
  | 0x0032 => rows 0 32 [(0, 12, 4), (2, 6, 2), (3, 6, 2), (4, 6, 2), (5, 4, 4), (11, 0, 8), (28, 6, 2), (29, 0, 24)]
  | 0x0033 => rows 0 32 [(28, 1, 7), (29, 0, 24)]
  | 0x0040 => rows 0 16 [(2, 0, 16), (14, 0, 16)]
  | _ => []

/-- The records of a `SCRATCH_DATA` section fill it, and write words that scratch memory has; `n` bounds them. The spec names
no refusal for a word beyond scratch memory (DESIGN CHOICE, log entry 95). -/
def scratchOk : Nat → List Byte → Bool
  | 0, b => b.isEmpty
  | n + 1, b =>
    b.isEmpty || (8 ≤ b.length && 8 + 8 * leAt b 4 4 ≤ b.length && leAt b 0 4 + leAt b 4 4 ≤ 3145728
      && scratchOk n (b.drop (8 + 8 * leAt b 4 4)))

/-- The size of a section is one its type can have (R228-R236). -/
def sizeOk (img : List Byte) (s : ImgSec) (bs : List Byte) : Bool :=
  match s.typ with
  | 0x0012 => scratchOk s.size bs
  | 0x0030 => s.size == 4 * cdiv (2 * leAt (modBytes img 0x0002) 16 2) 4 + 2 * imgVcores img
  | 0x0031 => s.size == 4 + leAt bs 0 2 * leAt bs 2 2
  | 0x0001 => s.size == 128
  | 0x0002 => s.size == 64
  | 0x0010 => s.size % 16 == 0 && s.size ≤ 2 ^ 20
  | 0x0011 => s.size == 256
  | 0x0020 => s.size == 4 + 8 * leAt bs 0 4
  | 0x0021 => s.size == 4 + 8 * leAt bs 0 4
  | 0x0022 => s.size == 16 + 8 * leAt bs 8 4
  | 0x0032 => s.size % 32 == 0
  | 0x0033 => s.size % 32 == 0
  | 0x0040 => s.size % 16 == 0
  | _ => true

/-- A per-core section type. -/
def perCore (typ : Nat) : Bool := typ == 0x0010 || typ == 0x0011 || typ == 0x0012
/-- The count of sections of a type for one owner is within the table of R228. -/
def countOk (typ n : Nat) : Bool :=
  match typ with
  | 0x0012 => n ≤ 1
  | 0x0021 => n ≤ 1
  | 0x0022 => true
  | 0x0033 => n ≤ 1
  | 0x0040 => n ≤ 1
  | _ => n == 1
/-- The section types. -/
def secTypes : List Nat := [0x0001, 0x0002, 0x0010, 0x0011, 0x0012, 0x0020, 0x0021, 0x0022, 0x0030, 0x0031, 0x0032, 0x0033, 0x0040]

/-- Check 1 (R226-R228, R241). -/
def check1 (img : List Byte) (len0 : Nat) : Check := do
  let fmt (o a b : Nat) : Refuse := refuse 0x01 o a b
  need (256 ≤ img.length) (fmt 0 256 img.length)
  need (leAt img 0 4 == 0x4E4C5041) (fmt 0 0 0)
  need (leAt img 4 2 == 0x0100) (fmt 4 0 0)
  need (leAt img 6 2 != 0) (fmt 6 0 0)
  need (leAt img 8 8 == len0) (fmt 8 (leAt img 8 8) len0)
  let ss := sections img
  let tab := 256 + 32 * ss.length
  need (tab ≤ img.length) (fmt 6 tab img.length)
  eachOk (fun (s : ImgSec) => do
    let o := 256 + 32 * s.idx
    need (secTypes.contains s.typ) { fmt o 0 0 with section_ := s.idx }
    need (if perCore s.typ then s.vcore < imgVcores img else s.vcore == 0xFFFFFFFF) { fmt (o + 4) 0 0 with section_ := s.idx }
    need (s.off % 64 == 0 && tab ≤ s.off && s.off + s.size ≤ img.length) { fmt (o + 8) (s.off + s.size) img.length with section_ := s.idx }
    need (ss.all (fun t => t.idx == s.idx || t.off + t.size ≤ s.off || s.off + s.size ≤ t.off)) { fmt (o + 8) 0 0 with section_ := s.idx }
    need (sizeOk img s (secBytes img s)) { fmt (o + 16) s.size 0 with section_ := s.idx }) ss
  eachOk (fun (typ : Nat) =>
    if perCore typ then
      eachOk (fun v => need (countOk typ (ss.filter (fun s => s.typ = typ && s.vcore = v)).length) { fmt 256 0 0 with vcore := v })
        (List.range (imgVcores img))
    else need (countOk typ (ss.filter (fun s => s.typ = typ)).length) (fmt 256 0 0)) secTypes
  eachOk (fun (s : ImgSec) =>
    let f := (crc32c (secBytes img s)).toNat
    need (f == s.crc) { refuse 0x02 0 f s.crc with section_ := s.idx, vcore := s.vcore }) ss
  need (leAt img 160 96 == 0) (refuse 0x03 160 0 0)
  eachOk (fun (s : ImgSec) => do
    need (leAt img (256 + 32 * s.idx + 2) 2 == 0) { refuse 0x03 (256 + 32 * s.idx + 2) 0 0 with section_ := s.idx }
    need (leAt img (256 + 32 * s.idx + 28) 4 == 0) { refuse 0x03 (256 + 32 * s.idx + 28) 0 0 with section_ := s.idx }
    let bs := secBytes img s
    eachOk (fun (f : Nat × Nat × Nat) =>
      need ((leAt bs f.1 (cdiv (f.2.1 + f.2.2) 8) >>> f.2.1) % 2 ^ f.2.2 == 0)
        { refuse 0x03 (s.off + f.1) 0 0 with section_ := s.idx, vcore := s.vcore }) (reservedOf s bs)) ss

/-- Check 2: the configuration (R221). -/
def check2 (img : List Byte) (x : Part) : Check :=
  need (leAt img 16 64 == x.digest.toNat && (sha512 (modBytes img 0x0001)).toNat == x.digest.toNat) (inMod img 0x0001 (refuse 0x04 0 0 0))

/-- ACTIVE sites of a region, ascending. -/
def activeSites (fz : Fuses) (m : Mod) (r : Nat) : List Nat := (sitesOf r).filter (fun s => liveClass fz m s = .active)

/-- Check 3: cores (R222, R223). -/
def check3 (fz : Fuses) (m : Mod) (img : List Byte) (x : Part) : Check := do
  let rs := configRegions x.config
  let C := coresPer m
  need (imgVcores img == rs.length * C) (refuse 0x05 0 (imgVcores img) (rs.length * C))
  eachOk (fun r =>
    let q := (roleHolder m r).getD r
    let n := (activeSites fz m q).length
    need ((roleHolder m r).isSome && C ≤ n) { refuse 0x05 0 C n with region := q }) rs

/-- `RESOURCES` (R230). -/
structure Res where
  checkK : Nat
  buckets : List Nat
  cacheFormat : Nat
  routeIds : Nat
  maxSequences : Nat
  maxAdapters : Nat
  layerCount : Nat
  frameCount : Nat
  windowCount : Nat
  deriving DecidableEq, Repr

/-- Read `RESOURCES`. -/
def resOf (img : List Byte) : Res :=
  let b := modBytes img 0x0002
  { checkK := leAt b 0 4, buckets := (List.range 6).filter (fun k => (leAt b 4 1).testBit k), cacheFormat := leAt b 5 1,
    routeIds := leAt b 6 2, maxSequences := leAt b 8 4, maxAdapters := leAt b 12 2, layerCount := leAt b 14 2,
    frameCount := leAt b 16 2, windowCount := leAt b 18 1 }

/-- Check 4: resource ranges (R230), and the sections whose size they give. -/
def check4 (img : List Byte) : Check := do
  let r := resOf img
  let base := ((modSec img 0x0002).map (fun s => s.off)).getD 0
  let fmt (o a b : Nat) : Refuse := inMod img 0x0002 (refuse 0x01 (base + o) a b)
  need (1 ≤ r.maxSequences && r.maxSequences ≤ 65536) (inMod img 0x0002 (refuse 0x1B 0 r.maxSequences 65536))
  need (r.maxAdapters ≤ 4096) (inMod img 0x0002 (refuse 0x1B 1 r.maxAdapters 4096))
  need (1 ≤ r.cacheFormat && r.cacheFormat ≤ 5) (fmt 5 0 0)
  need (r.routeIds ≤ 4096) (fmt 6 0 0)
  need (r.layerCount ≤ 4096 && (modBytes img 0x0032).length == 32 * r.layerCount) (fmt 14 (32 * r.layerCount) (modBytes img 0x0032).length)
  need (1 ≤ r.frameCount && r.frameCount ≤ 4096) (fmt 16 0 0)
  need (r.windowCount ≤ 64 && (modBytes img 0x0033).length == 32 * r.windowCount) (fmt 18 (32 * r.windowCount) (modBytes img 0x0033).length)

/-! ### Programs (R50, R241 checks 5 and 6) -/

/-- The program memory image of a virtual core. -/
def imgProg (img : List Byte) (v : Nat) : List InstrWord :=
  let b := coreBytes img 0x0010 v
  (List.range (b.length / 16)).map (fun i => BitVec.ofNat 128 (leAt b (16 * i) 16))
/-- Engine of a beat list. -/
def listEngine (l : Nat) : Nat := if l < 16 then 0 else l - 15

/-- Check 5 on one core. -/
def check5 (img : List Byte) (bks : List Nat) (v : Nat) : Check := do
  let ws := imgProg img v
  let c := progCore ws
  let bad (i a b : Nat) : Refuse := inSec img 0x0010 v (refuse 0x06 i a b)
  need (16 ≤ ws.length) (bad 0 16 ws.length)
  need (1 ≤ progCount c && progCount c ≤ 256) (bad 0 (progCount c) 256)
  eachOk (fun b => do
    let n := schedLen c b
    need (1 ≤ n && n ≤ 4096 && progWord c 0 (1 + 2 * b) + cdiv n 16 ≤ ws.length) (bad (progWord c 0 (1 + 2 * b)) (cdiv n 16) ws.length)
    need ((List.range n).all (fun k => schedId c b k < progCount c)) (bad (progWord c 0 (1 + 2 * b)) 0 0)) bks
  eachOk (fun j => do
    let h := headerAt c j
    need (h + 6 ≤ ws.length) (bad h 6 ws.length)
    need (progWord c h 20 < 4 && progWord c h 21 == 0 && progWord c h 22 == 0 && progWord c h 23 == 0) (bad h 0 0)
    eachOk (fun l => need ((listAt c h l).2 == 0 || (listAt c h l).1 + (listAt c h l).2 ≤ ws.length)
      (bad h ((listAt c h l).1 + (listAt c h l).2) ws.length)) (List.range 20)) (List.range (progCount c))

/-- Reserved fields and values of an instruction beyond the common header (R55, R60, R65, R68, R74). -/
def badFields (e : Nat) (w : InstrWord) : Bool :=
  match e, wOpcode w with
  | 0, 1 => fld w 76 40 != 0
  | 0, 2 => fld w 88 28 != 0
  | 0, 3 => badMembers w || fld w 71 45 != 0
  | 0, 4 => badMembers w || fld w 96 20 != 0
  | 0, 5 => fld w 42 11 == 0 || 1024 < fld w 42 11 || fld w 113 3 != 0
  | 0, _ => fld w 101 15 != 0
  | 1, _ => badMmul w
  | 2, _ => badDapply w
  | 3, 0x00 => false
  | 3, 0x02 => badQuant w
  | 3, 0x03 => badDequant w
  | 3, 0x0E => false
  | 3, 0x3E => fld w 109 7 != 0
  | 3, _ => badVecFmt w
  | 4, 1 => fld w 110 18 != 0
  | 4, 2 => fld w 32 13 != 0 || fld w 94 34 != 0
  | _, _ => badWindow w

/-- Check 6 on one core. -/
def check6 (img : List Byte) (v : Nat) : Check :=
  eachOk (fun (p : Nat × Nat × InstrWord) =>
    need (!badHeader (listEngine p.1) p.2.2 && !badFields (listEngine p.1) p.2.2) (inSec img 0x0010 v (refuse 0x07 p.2.1 0 0)))
    (allInstrs (progCore (imgProg img v)))

/-! ### Core set-up (R44, R229, R241 checks 7-10) -/

/-- The 64 words of `CORE_SETUP`. -/
def setupOf (img : List Byte) (v : Nat) : List Nat :=
  let b := coreBytes img 0x0011 v
  (List.range 64).map (fun i => leAt b (4 * i) 4)
/-- Scratch segment of a set-up: base, size. -/
def suSeg (su : List Nat) (s : Nat) : Nat × Nat := (su.getD (2 * s) 0, su.getD (2 * s + 1) 0)
/-- Size of a vertical memory segment. -/
def suVseg (su : List Nat) (v : Nat) : Nat := su.getD (16 + v) 0
/-- Staging ring: base, size. -/
def suStage (su : List Nat) (q : Nat) : Nat × Nat := (su.getD (20 + 2 * q) 0, su.getD (21 + 2 * q) 0)
/-- Check reserve: base, size. -/
def suCheck (su : List Nat) : Nat × Nat := (su.getD 52 0, su.getD 53 0)
/-- Two extents share a word. -/
def overlaps (a b : Nat × Nat) : Bool := a.1 < b.1 + b.2 && b.1 < a.1 + a.2 && a.2 != 0 && b.2 != 0

/-- Check 7 on one core. -/
def check7 (img : List Byte) (k v : Nat) : Check := do
  let su := setupOf img v
  let at7 (code item a b : Nat) : Refuse := inSec img 0x0011 v (refuse code item a b)
  let segs := (List.range 8).map (suSeg su)
  let stages := (List.range 16).map (suStage su)
  eachOk (fun s => need ((suSeg su s).1 + (suSeg su s).2 ≤ 3145728) (at7 0x08 s ((suSeg su s).1 + (suSeg su s).2) 3145728)) (List.range 8)
  eachOk (fun q => do
    let g := suStage su q
    need (g.1 + g.2 ≤ 3145728) (at7 0x09 q (g.1 + g.2) 3145728)
    need (!segs.any (overlaps g) && !((List.range 16).any (fun t => t != q && overlaps g (stages.getD t (0, 0)))) && !overlaps g (suCheck su))
      (at7 0x09 q g.2 0)) (List.range 16)
  let ck := suCheck su
  need (ck.1 + ck.2 ≤ 3145728 && !segs.any (overlaps ck)) (at7 0x0A 0 (ck.1 + ck.2) 3145728)
  need (k + 512 ≤ ck.2) (at7 0x0A 0 (k + 512) ck.2)
  eachOk (fun (p : Nat × Nat × InstrWord) =>
    need (!(p.1 == 16 && bit p.2.2 49) || 32 * fld p.2.2 96 16 ≤ k) (inSec img 0x0010 v (refuse 0x0A p.2.1 (32 * fld p.2.2 96 16) k)))
    (allInstrs (progCore (imgProg img v)))

/-- Scratch extents of an instruction whose formats `fmt` resolves: (segment, offset, words). -/
def scrExtents (fmt : Nat → Option Nat) (e : Nat) (w : InstrWord) : List (Nat × Nat × Nat) :=
  let words (f n : Nat) : List Nat := ((fmt f).map (fun g => operandWords g n)).toList
  match e, wOpcode w with
  | 0, 6 => [(fld w 76 3, fld w 79 22, 9 * (fld w 60 16 + 1))]
  | 0, _ => []
  | 1, _ => (words (fld w 38 6) (32 * fld w 96 16)).map (fun k => (fld w 71 3, fld w 74 22, (fld w 50 6 + 1) * k))
  | 2, _ => (words (fld w 38 6) (32 * fld w 96 16)).map (fun k => (fld w 71 3, fld w 74 22, (fld w 50 6 + 1) * k))
  | 3, 0x00 => []
  | 3, 0x0E => []
  | 3, 0x3E => []
  | 3, op =>
    (if bit w 47 then [] else (words (fld w 32 6) (vCount w)).map (fun k => (fld w 44 3, fld w 48 22, k)))
      ++ (if bit w 73 || (0x10 ≤ op && op ≤ 0x15) then []
          else (words (fld w 38 6) (vCount w)).map (fun k => (fld w 70 3, fld w 74 22, k)))
  | _, _ => [(fld w 53 3, fld w 56 22, 9 * (fld w 78 16 + 1))]

/-- Format codes that stand for themselves. -/
def plainFmt (f : Nat) : Option Nat := if f = 0x3F then none else some f

/-- Check 8 on one core. -/
def check8 (img : List Byte) (v : Nat) : Check := do
  let su := setupOf img v
  eachOk (fun (p : Nat × Nat × InstrWord) => do
    let w := p.2.2
    let e := listEngine p.1
    let bad (code i a b : Nat) : Refuse := inSec img 0x0010 v (refuse code i a b)
    eachOk (fun (t : Nat × Nat × Nat) => need (t.2.1 + t.2.2 ≤ (suSeg su t.1).2) (bad 0x08 p.2.1 (t.2.1 + t.2.2) (suSeg su t.1).2))
      (scrExtents plainFmt e w)
    if e = 0 ∧ (wOpcode w = 1 ∨ wOpcode w = 6) then
      let n := fld w 34 26 + fld w 60 16 + 1
      need (n ≤ suVseg su (fld w 32 2)) (bad 0x0D (fld w 32 2) n (suVseg su (fld w 32 2)))
    if e = 0 ∧ (wOpcode w = 1 ∨ wOpcode w = 2) then
      let n := 9 * ((if wOpcode w = 1 then fld w 60 16 else fld w 72 16) + 1)
      need (n ≤ (suStage su p.1).2) (bad 0x09 p.1 n (suStage su p.1).2)) (allInstrs (progCore (imgProg img v)))

/-- Layer table entries (R234). -/
def imgLayers (img : List Byte) : List LayerEntry :=
  let b := modBytes img 0x0032
  (List.range (b.length / 32)).map (fun i =>
    let o := 32 * i
    { layer := leAt b o 2 % 4096, initLevel := leAt b (o + 2) 1 % 4, maxLevel := leAt b (o + 2) 1 / 4 % 4,
      small := (leAt b (o + 2) 1).testBit 4, streamed := (leAt b (o + 2) 1).testBit 5, l1Fmt := leAt b (o + 3) 1 % 64,
      l2Fmt := leAt b (o + 4) 1 % 64, streakK := leAt b (o + 5) 1 % 16, zfLimit := leAt b (o + 6) 2, satLimit := leAt b (o + 8) 2,
      zfThreshold := leAt b (o + 10) 1, thresh := leAt b (o + 12) 4,
      switchBeat := (List.range 6).map (fun k => leAt b (o + 16 + 2 * k) 2), gwin := leAt b (o + 28) 1 % 64 })

/-- The format of a layer at a level (R133). -/
def entryFormat (e : LayerEntry) : Nat → Nat
  | 0 => 0x01
  | 1 => e.l1Fmt
  | 2 => e.l2Fmt
  | _ => 0x10

/-- Check 9 on one core: operands in the layer format, at every level up to `MAX_LEVEL`. -/
def check9 (img : List Byte) (ls : List LayerEntry) (v : Nat) : Check :=
  let su := setupOf img v
  eachOk (fun (p : Nat × Nat × InstrWord) =>
    match ls.find? (fun e => e.layer = wLayer p.2.2) with
    | none => .ok ()
    | some e => eachOk (fun lev =>
        eachOk (fun (t : Nat × Nat × Nat) => need (t.2.1 + t.2.2 ≤ (suSeg su t.1).2)
            (inSec img 0x0010 v (refuse 0x0B p.2.1 (t.2.1 + t.2.2) (suSeg su t.1).2)))
          (scrExtents (fun f => if f = 0x3F then some (entryFormat e lev) else none) (listEngine p.1) p.2.2))
        (List.range (e.maxLevel + 1))) ((allInstrs (progCore (imgProg img v))).filter (fun p => listEngine p.1 ≠ 4 && listEngine p.1 ≠ 0))

/-- Accumulator extents of an instruction: the highest entry plus one. -/
def accExtents (e : Nat) (w : InstrWord) : List Nat :=
  match e, wOpcode w with
  | 1, _ => [fld w 56 15 + 256 * fld w 50 6 + (if bit w 112 then 128 else 256)]
  | 2, _ => [fld w 56 15 + 256 * fld w 50 6 + 256]
  | 3, 0x00 => []
  | 3, 0x3E => []
  | 3, 0x0E => [fld w 74 22 + vCount w]
  | 3, op => (if bit w 47 then [fld w 48 15 + vCount w] else [])
      ++ (if bit w 73 && !(0x10 ≤ op && op ≤ 0x15) then [fld w 74 22 + vCount w] else [])
  | _, _ => []

/-- Check 10 on one core. -/
def check10 (img : List Byte) (v : Nat) : Check :=
  eachOk (fun (p : Nat × Nat × InstrWord) =>
    eachOk (fun n => need (n ≤ accEntries) (inSec img 0x0010 v (refuse 0x0C p.2.1 n accEntries))) (accExtents (listEngine p.1) p.2.2))
    (allInstrs (progCore (imgProg img v)))

/-- Keys of a list rise strictly. -/
def rising : List Nat → Bool
  | [] => true
  | [_] => true
  | a :: b :: t => a < b && rising (b :: t)

/-- Check 11: the layer table (R134, R234). -/
def check11 (img : List Byte) (ls : List LayerEntry) (r : Res) : Check := do
  let bad (l : Nat) : Refuse := inMod img 0x0032 (refuse 0x0E l 0 0)
  let c0 := progCore (imgProg img 0)
  need (rising (ls.map (fun e => e.layer))) (bad 0)
  eachOk (fun (e : LayerEntry) =>
    need (e.initLevel ≤ e.maxLevel && (e.maxLevel != 3 || e.small)
      && (if 1 ≤ e.maxLevel then e.l1Fmt == 2 || e.l1Fmt == 3 else e.l1Fmt == 0)
      && (if 2 ≤ e.maxLevel then e.l2Fmt == 4 || e.l2Fmt == 5 else e.l2Fmt == 0)
      && (e.zfThreshold ≤ 32 || e.zfThreshold == 0xFF) && e.thresh ≤ 2 ^ 24
      && (List.range 6).all (fun b => if r.buckets.contains b then e.switchBeat.getD b 0 < schedLen c0 b else e.switchBeat.getD b 0 == 0xFFFF)
      && (e.streamed || e.gwin == 0)) (bad e.layer)) ls
  eachOk (fun v => eachOk (fun (p : Nat × Nat × InstrWord) =>
      need (listEngine p.1 == 4 || ls.any (fun e => e.layer = wLayer p.2.2)) (inSec img 0x0010 v (refuse 0x0E (wLayer p.2.2) 0 0)))
      (allInstrs (progCore (imgProg img v)))) (List.range (imgVcores img))

/-! ### Vertical memory (R237, R259, R279, R340) -/

/-- Round up to a multiple of 128 lines. -/
def align128 (n : Nat) : Nat := 128 * cdiv n 128

/-- The layout of a slice: segment bases, then adapter, count-table, twin and pool bases. -/
def sliceLayout (su : List Nat) : List Nat × Nat × Nat × Nat × Nat :=
  let b0 := 0
  let b1 := align128 (b0 + suVseg su 0)
  let b2 := align128 (b1 + suVseg su 1)
  let b3 := align128 (b2 + suVseg su 2)
  let ad := align128 (b3 + suVseg su 3)
  let ct := align128 (ad + su.getD 54 0)
  let tw := align128 (ct + su.getD 55 0)
  let pool := align128 (tw + su.getD 56 0)
  ([b0, b1, b2, b3], ad, ct, tw, pool)

/-- Pairs an instruction names. -/
def instrPairs (w : InstrWord) : List (Nat × Nat) := (List.range (fld w 61 8 + 1)).map (fun j => (wLayer w, fld w 53 8 + j))
/-- Insert a pair in order, once. -/
def addPair (p : Nat × Nat) : List (Nat × Nat) → List (Nat × Nat)
  | [] => [p]
  | q :: qs => if q = p then q :: qs else if p.1 < q.1 ∨ (p.1 = q.1 ∧ p.2 < q.2) then p :: q :: qs else q :: addPair p qs
/-- The pairs of one virtual core (R258): held, then twin. -/
def corePairs (ws : List InstrWord) (v : Nat) : List KvPair :=
  let is := allInstrs (progCore ws)
  let named (op : Nat) : List (Nat × Nat) := (is.filter (fun p => p.1 < 16 && wOpcode p.2.2 = op)).foldl
    (fun l p => (instrPairs p.2.2).foldl (fun l k => addPair k l) l) []
  let rd := named 3
  rd.map (fun k => ({ layer := k.1, head := k.2, vcore := v, twin := false } : KvPair))
    ++ ((named 4).filter (fun k => !rd.contains k)).map (fun k => { layer := k.1, head := k.2, vcore := v, twin := true })
/-- The pairs of a plan. -/
def imgPairs (img : List Byte) : List KvPair := (List.range (imgVcores img)).flatMap (fun v => corePairs (imgProg img v) v)

/-- Pool lines of a core. -/
def poolLines (su : List Nat) : Nat := 2 ^ 25 - (sliceLayout su).2.2.2.2
/-- Frame slots a cache core's pool holds (R259). -/
def poolSlots (r : Res) (f : Packed) (su : List Nat) (n : Nat) : Nat := (poolLines su - (5120 + 48 * r.maxSequences)) / (2 * runLen f * n)

/-- The page slot count P (R259, R279). -/
def pageCount (img : List Byte) (r : Res) (ps : List KvPair) : Nat :=
  match packedOf r.cacheFormat with
  | none => 0
  | some f =>
    if (ps.filter (fun k => !k.twin)).isEmpty then 0
    else (List.range (imgVcores img)).foldl (fun a v =>
      let su := setupOf img v
      let n := (ps.filter (fun k => k.vcore = v && !k.twin)).length
      let t := (ps.filter (fun k => k.vcore = v && k.twin)).length
      let a1 := if n = 0 then a else min a (poolSlots r f su n)
      if t = 0 then a1 else min a1 (su.getD 56 0 / (2 * runLen f * t))) (2 ^ 24 - 1)

/-- Check 12. -/
def check12 (img : List Byte) (m : Mod) (x : Part) (r : Res) (ps : List KvPair) : Check := do
  let n := imgVcores img
  let C := coresPer m
  eachOk (fun v => do
    let su := setupOf img v
    let l := sliceLayout su
    need (l.2.2.2.2 ≤ 2 ^ 25) (inSec img 0x0011 v (refuse 0x0D 3 l.2.2.2.2 (2 ^ 25)))
    need (configTwin x.config || su.getD 56 0 == 0) (inSec img 0x0011 v (refuse 0x0D 4 (su.getD 56 0) 0))
    need (su.getD 57 0 ≤ poolLines su) (inSec img 0x0011 v (refuse 0x0D 5 (su.getD 57 0) (poolLines su)))) (List.range n)
  eachOk (fun (k : KvPair) => need (!k.twin || ps.any (fun h => !h.twin && h.layer = k.layer && h.head = k.head && h.vcore / C != k.vcore / C))
    (inSec img 0x0011 k.vcore (refuse 0x0D 4 0 0))) ps
  let held := ps.filter (fun k => !k.twin)
  if !held.isEmpty ∧ pageCount img r ps = 0 then
    let first := ((List.range n).find? (fun v => held.any (fun k => k.vcore = v) && (match packedOf r.cacheFormat with
      | some f => poolSlots r f (setupOf img v) (held.filter (fun k => k.vcore = v)).length == 0
      | none => true))).getD 0
    .error (inSec img 0x0011 first (refuse 0x0D 5 1 0))
  let count := (List.range n).foldl (fun a v => a + (if isSampling (imgProg img v) then (setupOf img v).getD 55 0 else 0)) 0
  need (5120 * r.maxSequences ≤ count) (inMod img 0x0002 (refuse 0x0D 6 (5120 * r.maxSequences) count))

/-! ### Routes (R182, R186, R231, R232) -/

/-- Route entries of a section body. -/
def routeEnts (b : List Byte) (h : Nat) : List RouteEnt :=
  (List.range ((b.length - h) / 8)).map (fun i =>
    let o := h + 8 * i
    { site := leAt b o 2 % 2048, route := leAt b (o + 2) 2 % 4096, service := (leAt b (o + 2) 2).testBit 15,
      entry := BitVec.ofNat 32 (leAt b (o + 4) 4) })
/-- The entries of `ROUTES`. -/
def imgRoutes (img : List Byte) : List RouteEnt := routeEnts (modBytes img 0x0020) 4
/-- The service grants. -/
def imgService (img : List Byte) : List ServiceGrant :=
  let b := modBytes img 0x0021
  (List.range ((b.length - 4) / 8)).map (fun i =>
    let o := 4 + 8 * i
    { program := leAt b o 1, port := leAt b (o + 1) 1, slot := leAt b (o + 2) 1, site := leAt b (o + 4) 2, route := leAt b (o + 6) 2 })
/-- The placement sections: section, region, mask, entries. -/
def imgPlacements (img : List Byte) : List (ImgSec × Nat × Nat × List RouteEnt) :=
  ((sections img).filter (fun s => s.typ = 0x0022)).map (fun s =>
    let b := secBytes img s
    (s, leAt b 0 1, leAt b 4 4 % 2 ^ 24, routeEnts b 16))

/-- A partition owns a slot direction (R185). -/
def ownsSlot (m : Mod) (p s port slot : Nat) : Bool :=
  let r := (siteOf m s).router
  mget? (if epochOf m s then r.ownB else r.ownA) (8 * port + slot) == some p

/-- A port leads somewhere a plan may route: a mesh neighbour, or a rim element that is not a management port (R36, R186). -/
def portLeads (s port : Nat) : Bool :=
  (neighbour s port).isSome || (outwardPort s == some port && ((groupAt s).isSome || (hostAt s).isSome) && !isMgmtSite s)

/-- A route entry keeps to slot directions the partition owns (R186). -/
def entryKeeps (m : Mod) (p : Nat) (e : RouteEnt) : Bool :=
  (outPorts e.entry).all (fun port =>
    let slot := entrySlot e.entry port
    portLeads e.site port && !isCorridorSlot e.site port slot && ownsSlot m p e.site port slot)

/-- The physical ids that the plan of a partition, loaded or being loaded, uses at a router. -/
def idsAt (pl : Plan) (s : Nat) : List Nat :=
  (pl.routes.filter (fun e => e.site = s)).filterMap (fun e => (pl.routeBase.find? (fun b => b.1 = e.route)).map Prod.snd)

/-- The physical ids other partitions use at a router (R182). -/
def takenIds (m : Mod) (p s : Nat) : List Nat :=
  (m.parts.flatMap (fun q => if q.1 = p then [] else
    (q.2.plan.toList ++ (q.2.load.map (fun l => l.plan)).toList).flatMap (idsAt · s))).eraseDups

/-- Virtual route ids with an entry at a router. -/
def routesAt (rs : List RouteEnt) (s : Nat) : List Nat := ((rs.filter (fun e => e.site = s)).map (fun e => e.route)).eraseDups

/-- Route ids in use at a router once the plan is loaded, all partitions counted (R182). -/
def idCount (m : Mod) (p : Nat) (rs : List RouteEnt) (s : Nat) : Nat := (routesAt rs s).length + (takenIds m p s).length

/-- Give every virtual route id a physical id (R182): one that no other route of the plan has and no other partition uses at
a router of the route, else one that differs at those routers; where this order of giving leaves none, which ids the loader
exchanges is open (log entry 33). -/
def assignIds (m : Mod) (p : Nat) (rs : List RouteEnt) (n : Nat) : List (Nat × Nat) :=
  (List.range n).foldl (fun a v =>
    let sites := (rs.filter (fun e => e.route = v)).map (fun e => e.site)
    let others := sites.flatMap (takenIds m p)
    let near := (a.filter (fun b => sites.any (fun s => (routesAt rs s).contains b.1))).map Prod.snd
    let k := match (List.range 4096).find? (fun k => !others.contains k && !(a.map Prod.snd).contains k) with
      | some k => k
      | none => ((List.range 4096).find? (fun k => !others.contains k && !near.contains k)).getD (Config.routeId v % 4096)
    a ++ [(v, k)]) []

/-! ### Placement (R224) -/

/-- The mask of a region's live ACTIVE sites. -/
def activeMask (fz : Fuses) (m : Mod) (r : Nat) : Nat :=
  (List.range 24).foldl (fun a l => if liveClass fz m (siteAt r l) = .active then a + 2 ^ l else a) 0

/-- A placement section that applies: its region holds its own role and its mask is the live one; any other is skipped. -/
def placementApplies (fz : Fuses) (m : Mod) (x : Part) (q : ImgSec × Nat × Nat × List RouteEnt) : Bool :=
  (configRegions x.config).contains q.2.1 && roleHolder m q.2.1 == some q.2.1 && q.2.2.1 == activeMask fz m q.2.1

/-- Route entries in force: placements that apply replace their region's entries (R224). -/
def routesInForce (fz : Fuses) (img : List Byte) (m : Mod) (x : Part) : List RouteEnt × List Nat :=
  let ps := (imgPlacements img).filter (placementApplies fz m x)
  let rs := ps.map (fun q => q.2.1)
  ((imgRoutes img).filter (fun e => !rs.contains (regionOf e.site)) ++ ps.flatMap (fun q => q.2.2.2), rs)

/-- Check 13, over `ROUTES` and the placement sections that apply. -/
def check13 (fz : Fuses) (img : List Byte) (m : Mod) (p : Nat) (x : Part) (r : Res) : Check := do
  let rs := imgRoutes img
  let ps := (imgPlacements img).filter (placementApplies fz m x)
  let all := (routesInForce fz img m x).1
  need (rising (rs.map (fun e => 4096 * e.site + e.route)) && rs.all (fun e => e.site < 1536)) (inMod img 0x0020 (refuse 0x01 0 0 0))
  eachOk (fun (e : RouteEnt) => need (e.route < r.routeIds) { inMod img 0x0020 (refuse 0x0F 0 (e.route + 1) r.routeIds) with site := e.site }) rs
  eachOk (fun (q : ImgSec × Nat × Nat × List RouteEnt) =>
    eachOk (fun (e : RouteEnt) => need (e.route < r.routeIds)
      { refuse 0x0F 0 (e.route + 1) r.routeIds with section_ := q.1.idx, site := e.site }) q.2.2.2) ps
  eachOk (fun s => need (idCount m p all s ≤ 4096) { inMod img 0x0020 (refuse 0x0F 0 (idCount m p all s) 4096) with site := s })
    (all.map (fun e => e.site)).eraseDups
  eachOk (fun (e : RouteEnt) => need (entryKeeps m p e) { inMod img 0x0020 (refuse 0x10 e.route 0 0) with site := e.site }) rs
  eachOk (fun (q : ImgSec × Nat × Nat × List RouteEnt) =>
    eachOk (fun (e : RouteEnt) => need (e.site < 1536 && regionOf e.site == q.2.1 && entryKeeps m p e)
      { refuse 0x10 e.route 0 0 with section_ := q.1.idx, site := e.site }) q.2.2.2) ps
  let gs := imgService img
  eachOk (fun i =>
    let g := gs.getD i ⟨0, 0, 0, 0, 0⟩
    need (g.site < 1536 && g.port < 4 && g.slot < 8 && ownsSlot m p g.site g.port g.slot
      && !all.any (fun e => e.site = g.site && !e.service && (outPorts e.entry).contains g.port && entrySlot e.entry g.port = g.slot)
      && all.any (fun e => e.route = g.route && e.service)) { inMod img 0x0021 (refuse 0x11 i 0 0) with site := g.site }) (List.range gs.length)

/-! ### The boundaries of placed regions (R224) -/

/-- Where the routes of a region leave it: (route, site, port, slot). -/
def exits (r : Nat) (es : List RouteEnt) : List (Nat × Nat × Nat × Nat) :=
  (es.filter (fun e => regionOf e.site = r)).flatMap (fun e => ((outPorts e.entry).filter (fun p =>
    match neighbour e.site p with
    | some n => regionOf n != r
    | none => true)).map (fun p => (e.route, e.site, p, entrySlot e.entry p)))
/-- Where routes enter a region: (route, site). -/
def entries (r : Nat) (all : List RouteEnt) : List (Nat × Nat) :=
  (all.filter (fun e => regionOf e.site != r)).flatMap (fun e => (outPorts e.entry).filterMap (fun p =>
    match neighbour e.site p with
    | some n => if regionOf n = r then some (e.route, n) else none
    | none => none))

/-- Where routes enter a region at a rim element: responses of the windows it serves, and service routes (R191, R194). -/
def rimEntries (img : List Byte) (r : Nat) (es : List RouteEnt) : List (Nat × Nat) :=
  let ws := (modBytes img 0x0033)
  let rsp (rim : Nat) : List Nat :=
    ((List.range (ws.length / 32)).filter (fun i => leAt ws (32 * i + 3) 1 = rim)).map (fun i => leAt ws (32 * i + 6) 2)
  (es.filter (fun e => regionOf e.site = r && (match groupAt e.site, hostAt e.site with
    | some g, _ => e.service || (rsp (16 + g)).contains e.route
    | none, some h => e.service || (rsp h).contains e.route
    | none, none => false))).map (fun e => (e.route, e.site))

/-- Check 14: a placement section that applies keeps the boundary of its region. -/
def check14 (fz : Fuses) (img : List Byte) (m : Mod) (x : Part) : Check :=
  let rs := imgRoutes img
  eachOk (fun (q : ImgSec × Nat × Nat × List RouteEnt) =>
    let a := exits q.2.1 rs
    let b := exits q.2.1 q.2.2.2
    let c := rimEntries img q.2.1 rs
    let d := rimEntries img q.2.1 q.2.2.2
    need (!placementApplies fz m x q || (a.all b.contains && b.all a.contains && c.all d.contains && d.all c.contains
        && (entries q.2.1 rs).all (fun t => q.2.2.2.any (fun e => e.route = t.1 && e.site = t.2))))
      { refuse 0x18 q.1.idx 0 0 with section_ := q.1.idx, region := q.2.1 }) (imgPlacements img)

/-! ### Frames and permits (R209, R233, R238-R240) -/

/-- Parent ids of the frames. -/
def imgParents (img : List Byte) (n : Nat) : List Nat := (List.range n).map (fun i => leAt (modBytes img 0x0030) (2 * i) 2)
/-- Frame of each virtual core. -/
def imgCoreFrames (img : List Byte) (n : Nat) : List Nat :=
  (List.range (imgVcores img)).map (fun v => leAt (modBytes img 0x0030) (4 * cdiv (2 * n) 4 + 2 * v) 2)
/-- Frame `f` lies under frame `g`; `n` bounds the climb. -/
def underFrame (ps : List Nat) (g : Nat) : Nat → Nat → Bool
  | 0, f => f == g
  | n + 1, f => f == g || (f < ps.length && f != 0 && underFrame ps g n (ps.getD f 0xFFFF))

/-- Check 15. -/
def check15 (img : List Byte) (r : Res) : Check := do
  let n := r.frameCount
  let ps := imgParents img n
  let cf := imgCoreFrames img n
  let bad (f a b : Nat) : Refuse := inMod img 0x0030 (refuse 0x12 f a b)
  need (ps.getD 0 0 == 0xFFFF) (bad 0 0 0)
  eachOk (fun f => do
    need (underFrame ps 0 n f) (bad f 0 n)
    need (cf.any (fun g => underFrame ps f n g)) (bad f 0 n)) (List.range n)
  need (cf.all (fun g => g < n)) (bad 0 0 n)

/-- Demand of one core in a beat program (R238). -/
def coreDemand (c : Core) (j : Nat) : Nat :=
  (listInstrs c j 16).foldl (fun a p => max a (if bit p.2 112 then 1 else 2)) 0 + (if (listAt c (headerAt c j) 17).2 = 0 then 0 else 1)
/-- Demand of a virtual region in a beat program. -/
def regionDemand (img : List Byte) (C j r : Nat) : Nat :=
  (List.range C).foldl (fun a k => a + coreDemand (progCore (imgProg img (C * r + k))) j) 0

/-- Check 16. -/
def check16 (img : List Byte) (m : Mod) (x : Part) (r : Res) : Check := do
  let C := coresPer m
  let rs := configRegions x.config
  let c0 := progCore (imgProg img 0)
  let used := (List.range (progCount c0)).filter (fun j => r.buckets.any (fun b => (List.range (schedLen c0 b)).any (fun k => schedId c0 b k = j)))
  eachOk (fun j => eachOk (fun i =>
      let d := regionDemand img C j i
      need (d ≤ configPermits x.config) { inMod img 0x0031 (refuse 0x13 j d (configPermits x.config)) with region := rs.getD i 0xFF })
      (List.range rs.length)) used
  let b := modBytes img 0x0031
  need (leAt b 0 2 == progCount c0 && leAt b 2 2 == rs.length)
    (inMod img 0x0031 (refuse 0x01 0 (4 + progCount c0 * rs.length) b.length))
  eachOk (fun j => eachOk (fun i =>
      let d := regionDemand img C j i
      let t := leAt b (4 + rs.length * j + i) 1
      need (d == t) { inMod img 0x0031 (refuse 0x14 j d t) with region := rs.getD i 0xFF }) (List.range rs.length)) (List.range (progCount c0))

/-! ### Windows and relocation (R235, R236, R369, R374) -/

/-- A window of the image: the window, and whether its base is patched. -/
def imgWindows (img : List Byte) : List (Window × Bool) :=
  let b := modBytes img 0x0033
  (List.range (b.length / 32)).map (fun i =>
    let o := 32 * i
    ({ gwin := leAt b o 1, kind := leAt b (o + 1) 1, access := leAt b (o + 2) 1, rim := leAt b (o + 3) 1, reqRoute := leAt b (o + 4) 2,
       rspRoute := leAt b (o + 6) 2, base := leAt b (o + 8) 8, lines := leAt b (o + 16) 8, bandwidth := leAt b (o + 24) 4, moduleId := 0 },
     (leAt b (o + 28) 1).testBit 0))
/-- The windows with their bases patched. -/
def patchedWindows (img : List Byte) (vals : List Nat) : List Window :=
  (imgWindows img).map (fun w => if w.2 then { w.1 with base := vals.getD w.1.base 0 } else w.1)

/-- The windows with the partners they reach now. -/
def namedWindows (m : Mod) (img : List Byte) (vals : List Nat) : List Window :=
  (patchedWindows img vals).map (fun w =>
    { w with moduleId := if w.kind = 1 then 0 else ((partnerOf m (w.base / 2 ^ 56 % 256)).map (fun q => q.moduleId)).getD 0 })

/-- A window keeps the rules of R369. -/
def windowOk (m : Mod) (x : Part) (r : Res) (w : Window) : Bool :=
  let node := w.base / 2 ^ 56 % 256
  w.gwin < 64 && 1 ≤ w.kind && w.kind ≤ 3 && w.access < 4 && w.reqRoute < r.routeIds && w.rspRoute < r.routeIds
    && (if w.kind = 1 then w.rim == partHost x && (node == 0xFF || node == m.nodeId) && w.base / 2 ^ 52 % 16 == partHost x
        else decide (16 ≤ w.rim) && decide (w.rim < 32) && bit (configGroups x.config) (w.rim - 16) && (linkTo m (w.rim - 16) node).isSome
          && (match partnerOf m node with
            | none => false
            | some q => if w.kind = 3 then q.role == 2 && bit q.caps 2 && decide (72 * w.lines ≤ q.capacity)
                else q.role == 1 || ((q.role == 2 || q.role == 3) && (!w.access.testBit 0 || bit q.caps 0) && (!w.access.testBit 1 || bit q.caps 1))))

/-- Lines a stream window finds at its store (R248); 0 where nothing serves the window. -/
def windowLines (m : Mod) (w : Window) : Nat :=
  if w.kind = 3 then ((partnerOf m (w.base / 2 ^ 56 % 256)).map (fun q => q.capacity / 72)).getD 0 else 0

/-- Read bandwidth committed at a node by every loaded plan (R369, R378). -/
def committedAt (m : Mod) (node : Nat) : Nat :=
  m.parts.foldl (fun a q => match q.2.plan with
    | some pl => a + (pl.windows.filter (fun w => w.kind = 3 && w.base / 2 ^ 56 % 256 = node)).foldl (fun b w => b + w.bandwidth) 0
    | none => a) 0

/-- Check 17. -/
def check17 (img : List Byte) (m : Mod) (x : Part) (r : Res) (vals : List Nat) : Check := do
  let ws := patchedWindows img vals
  let bad (w : Window) : Refuse := inMod img 0x0033 (refuse 0x15 w.gwin w.lines (windowLines m w))
  need (((imgWindows img).map (fun w => w.1.gwin)).eraseDups.length == (imgWindows img).length) (inMod img 0x0033 (refuse 0x15 0 0 0))
  eachOk (fun (w : Window × Bool) => need (!w.2 || w.1.base < vals.length) (bad w.1)) (imgWindows img)
  eachOk (fun (w : Window) => need (windowOk m x r w) (bad w)) ws
  eachOk (fun (w : Window) =>
    let node := w.base / 2 ^ 56 % 256
    let sum := committedAt m node + (ws.filter (fun t => t.kind = 3 && t.base / 2 ^ 56 % 256 = node)).foldl (fun a t => a + t.bandwidth) 0
    need (w.kind != 3 || (match partnerOf m node with
      | some q => decide (sum ≤ q.bandwidth)
      | none => true)) (inMod img 0x0033 (refuse 0x16 w.gwin sum (((partnerOf m node).map (fun q => q.bandwidth)).getD 0)))) ws

/-- A relocation entry. -/
structure Reloc where
  kind : Nat
  vcore : Nat
  instr : Nat
  lsb : Nat
  width : Nat
  value : Nat
  deriving DecidableEq, Repr
/-- The relocation entries. -/
def imgRelocs (img : List Byte) : List Reloc :=
  let b := modBytes img 0x0040
  (List.range (b.length / 16)).map (fun i =>
    let o := 16 * i
    { kind := leAt b o 2, vcore := leAt b (o + 4) 4, instr := leAt b (o + 8) 2, lsb := leAt b (o + 10) 1, width := leAt b (o + 11) 1,
      value := leAt b (o + 12) 2 })

/-- Check 18. -/
def check18 (img : List Byte) (r : Res) (vals : List Nat) : Check :=
  let rl := imgRelocs img
  eachOk (fun i =>
    let t := rl.getD i ⟨0, 0, 0, 0, 0, 0⟩
    let ws := imgProg img t.vcore
    need ((t.kind == 1 || t.kind == 2) && t.vcore < imgVcores img && t.instr < ws.length && 1 ≤ t.width && t.width ≤ 64
      && t.lsb + t.width ≤ 128
      && (if t.kind = 2 then decide (t.value < vals.length) && decide (vals.getD t.value 0 < 2 ^ t.width)
          else decide (fld (ws.getD t.instr 0) t.lsb t.width < r.routeIds))) (inMod img 0x0040 (refuse 0x17 i 0 0))) (List.range rl.length)

/-- Every check of R241 in order. -/
def planChecks (fz : Fuses) (m : Mod) (p : Nat) (x : Part) (img : List Byte) (len0 : Nat) (vals : List Nat) : Check := do
  check1 img len0
  check2 img x
  check3 fz m img x
  check4 img
  let r := resOf img
  let vs := List.range (imgVcores img)
  eachOk (check5 img r.buckets) vs
  eachOk (check6 img) vs
  eachOk (check7 img r.checkK) vs
  eachOk (check8 img) vs
  let ls := imgLayers img
  eachOk (check9 img ls) vs
  eachOk (check10 img) vs
  check11 img ls r
  check12 img m x r (imgPairs img)
  check13 fz img m p x r
  check14 fz img m x
  check15 img r
  check16 img m x r
  check17 img m x r vals
  check18 img r vals

/-! ### Mapping and relocation (R222, R223, R236) -/

/-- The sites of one role region's virtual cores, with their homes. -/
def mapRegion (fz : Fuses) (m : Mod) (C r : Nat) : List (Nat × Nat) :=
  let q := (roleHolder m r).getD r
  let act := activeSites fz m q
  if q = r then
    let extra := act.filter (fun s => C ≤ localOf s)
    let homes := (List.range C).map (siteAt r)
    (homes.foldl (fun (a : List (Nat × Nat) × List Nat) h =>
      if act.contains h then (a.1 ++ [(h, h)], a.2) else (a.1 ++ [(a.2.headD h, h)], a.2.tail)) ([], extra)).1
  else (List.range C).map (fun k => (act.getD k 0, siteAt r k))

/-- Site and home of every virtual core. -/
def mapCores (fz : Fuses) (m : Mod) (x : Part) : List (Nat × Nat) := (configRegions x.config).flatMap (mapRegion fz m (coresPer m))

/-- The program of a virtual core after relocation (R236). -/
def relocate (img : List Byte) (v : Nat) (ids : List (Nat × Nat)) (vals : List Nat) : List InstrWord :=
  ((imgRelocs img).filter (fun t => t.vcore = v)).foldl (fun ws t =>
    lupd ws t.instr (fun w =>
      let old := fld w t.lsb t.width
      putFld w t.lsb t.width (if t.kind = 1 then ((ids.find? (fun b => b.1 = old)).map Prod.snd).getD old else vals.getD t.value 0)))
    (imgProg img v)

/-- Physical id of a virtual route. -/
def physId (ids : List (Nat × Nat)) (v : Nat) : Nat := ((ids.find? (fun b => b.1 = v)).map Prod.snd).getD v

/-- Records of `SCRATCH_DATA`; `n` bounds them. -/
def scratchRecs : Nat → List Byte → List (Nat × Word)
  | 0, _ => []
  | n + 1, b =>
    if b.length < 8 then []
    else
      let o := leAt b 0 4
      let k := leAt b 4 4
      (List.range k).map (fun i => (o + i, BitVec.ofNat 64 (leAt b (8 + 8 * i) 8))) ++ scratchRecs n (b.drop (8 + 8 * k))

/-- What a virtual core is loaded with. -/
def coreLoad (img : List Byte) (ids : List (Nat × Nat)) (vals : List Nat) (v : Nat) : VCore :=
  let su := setupOf img v
  let l := sliceLayout su
  let sd := coreBytes img 0x0012 v
  { prog := relocate img v ids vals, setup := su, scratch := (scratchRecs sd.length sd).filter (fun r => r.1 < 3145728),
    vsegBase := l.1, adapterBase := l.2.1, countBase := l.2.2.1, twinBase := l.2.2.2.1, poolBase := l.2.2.2.2 }

/-- The plan an image becomes; weight chunks come with the weight image. -/
def buildPlan (fz : Fuses) (m : Mod) (p : Nat) (x : Part) (img : List Byte) (vals : List Nat) (src addr len : Nat) : Plan :=
  let r := resOf img
  let rf := routesInForce fz img m x
  let ids := assignIds m p rf.1 r.routeIds
  let c0 := progCore (imgProg img 0)
  let ps := imgPairs img
  let mp := mapCores fz m x
  { image := sha512 img, toolVersion := leAt img 148 4, planId := leAt img 152 8, weightDigest := BitVec.ofNat 512 (leAt img 80 64), buckets := r.buckets,
    schedules := r.buckets.map (fun b => (b, (List.range (schedLen c0 b)).map (schedId c0 b))), cacheFormat := r.cacheFormat,
    maxSequences := r.maxSequences, maxAdapters := r.maxAdapters, routeIds := r.routeIds, routeBase := ids,
    layers := (imgLayers img).map (fun e => { e with zfThreshold := if e.zfThreshold = 0xFF then 24 else e.zfThreshold }),
    windows := (namedWindows m img vals).map (fun w => { w with reqRoute := physId ids w.reqRoute, rspRoute := physId ids w.rspRoute }),
    routes := rf.1, service := (imgService img).map (fun g => { g with route := physId ids g.route }),
    parents := imgParents img r.frameCount, coreFrame := imgCoreFrames img r.frameCount,
    permits := ((modBytes img 0x0031).drop 4).map (fun b => b.toNat),
    vcores := (List.range (imgVcores img)).map (coreLoad img ids vals), sites := mp.map Prod.fst, chunks := [], pairs := ps,
    pageSlots := pageCount img r ps, source := src, weightAddr := addr, weightLen := len,
    detours := (mp.filter (fun t => t.1 != t.2 && !rf.2.contains (regionOf t.2))).flatMap (fun t => [t.2, t.1]) }

end Sys2Proof.Machine
end

