-- ==== Sys2Proof/Machine/Plan.lean ====
section
/-! DEFINITION. Loading and unloading plans (07_plans_and_compiler_contract.md R241-R246; 09 R303). -/
namespace Sys2Proof.Machine
open Sys2Proof

/-! ### Placing and removing -/

/-- The pairs of routers a list of detours joins: (home, site). -/
def detourPairs : List Nat → List (Nat × Nat)
  | h :: s :: t => (h, s) :: detourPairs t
  | _ => []

/-- Set or clear the redirect of one router, and post `FAB_DETOUR` (R197, R217). -/
def setRedirect (m : Mod) (p s : Nat) (d : Option Nat) : Mod :=
  let other := (d.getD (((siteOf m s).router.redirect).getD 0))
  let m1 := fabFlag (updRouter m s (fun r => { r with redirect := d })) (regionOf s) 3
  post m1 0x0305 none (fabPayload m1 s p (b2n d.isSome) 0 other)

/-- Redirect two routers to each other (R197). -/
def joinSites (m : Mod) (p : Nat) (t : Nat × Nat) : Mod := setRedirect (setRedirect m p t.1 (some t.2)) p t.2 (some t.1)
/-- Clear both redirects of a pair of routers. -/
def partSitesJoin (m : Mod) (p : Nat) (t : Nat × Nat) : Mod := setRedirect (setRedirect m p t.1 none) p t.2 none

/-- The check interval of a mode (R389). -/
def checkInterval : Mode → Nat
  | .fidelity => 16
  | _ => 256

/-- A core loaded with its programs, scratch data, segments (R229, R242); every other scratch word is UNINIT (R41). -/
def loadedCore (old : Core) (md : Mode) (vc : VCore) : Core :=
  let su := vc.setup
  let c : Core := { Core.reset with
    scratchCE := old.scratchCE, scratchUE := old.scratchUE, poisonAll := some .uninit, state := .idle,
    prog := mputs 0 [] 0 vc.prog, seg := (List.range 8).map (suSeg su),
    vseg := (List.range 4).map (fun v => (vc.vsegBase.getD v 0, suVseg su v)), stage := (List.range 16).map (suStage su),
    checkBase := (suCheck su).1, checkSize := (suCheck su).2, checkN := checkInterval md, checkCounter := 0 }
  vc.scratch.foldl (fun c w => writeWord c w.1 w.2) c

/-- Write the cores of a plan. -/
def placeCores (m : Mod) (md : Mode) (pl : Plan) : Mod :=
  forAll m (List.range pl.sites.length) (fun m v => match pl.sites[v]?, pl.vcores[v]? with
    | some s, some vc => updCore m s (fun c => loadedCore c md vc)
    | _, _ => m)

/-- The route entry the loader writes: the image's with the partition filled in (R231). -/
def ownedEntry (p : Nat) (e : BitVec 32) : BitVec 32 := putFld e 18 4 p

/-- Write the routes of a plan into the bank that packets do not use (R184, R242). -/
def placeRoutes (m : Mod) (p : Nat) (pl : Plan) : Mod :=
  let b := (partOf? m p).any (partEpoch m)
  pl.routes.foldl (fun m e =>
    let k := physId pl.routeBase e.route
    updRouter m e.site (fun r =>
      if b then { r with routesA := mset r.routesA k (ownedEntry p e.entry) } else { r with routesB := mset r.routesB k (ownedEntry p e.entry) })) m

/-- Place a plan: cores, routes, redirects (R242 steps 2 and 3). -/
def placePlan (m : Mod) (p : Nat) (x : Part) (pl : Plan) : Mod :=
  (detourPairs pl.detours).foldl (fun m t => joinSites m p t) (placeRoutes (placeCores m x.mode pl) p pl)

/-- Take a plan's cores out of service: nothing of the plan stays in them. -/
def clearCores (m : Mod) (pl : Plan) : Mod :=
  forAll m pl.sites (fun m s => updCore m s (fun c => { Core.reset with
    scratchCE := c.scratchCE, scratchUE := c.scratchUE, poisonAll := some .uninit,
    state := if c.state = .off then .off else .idle }))

/-- Remove a plan that was placed: cores, routes in both banks, claims, redirects (R242, R243). -/
def removePlan (m : Mod) (p : Nat) (x : Part) (pl : Plan) : Mod :=
  let m1 := forAll (clearCores m pl) (concerned m p x) (fun m s => updRouter m s (fun r => { r with
    routesA := releaseBank p r.routesA, routesB := releaseBank p r.routesB }))
  (detourPairs pl.detours).foldl (fun m t => partSitesJoin m p t) (clearClaims m1 p)

/-! ### Weight images (R244, R245, R374) -/

/-- A chunk table entry. -/
def chunkAt (bs : List Byte) (o : Nat) : Chunk :=
  { vcore := leAt bs o 4, vseg := leAt bs (o + 4) 1, streamed := (leAt bs (o + 5) 1).testBit 0, layer := leAt bs (o + 6) 2,
    voff := leAt bs (o + 8) 4, lines := leAt bs (o + 12) 4, offset := leAt bs (o + 16) 8, crc := BitVec.ofNat 32 (leAt bs (o + 24) 4) }

/-- The chunk table of a weight image. -/
def chunkTable (bs : List Byte) : List Chunk := (List.range (leAt bs 8 4)).map (fun k => chunkAt bs (128 + 32 * k))

/-- Bytes of the header and chunk table of a weight image whose header is `bs`. -/
def headLen (bs : List Byte) : Nat := 128 + 32 * leAt bs 8 4

/-- The header of a weight image fits the plan and the length named (R245). -/
def weightHeadOk (pl : Plan) (bs : List Byte) : Bool :=
  leAt bs 0 4 == 0x54575041 && leAt bs 4 2 == 0x0100 && leAt bs 24 64 == pl.weightDigest.toNat && leAt bs 16 8 ≤ pl.weightLen
    && headLen bs ≤ leAt bs 16 8

/-- Every chunk lies within its segment, a streamed one too (R245). -/
def chunkCheck (pl : Plan) (cs : List Chunk) : Check :=
  eachOk (fun k =>
    let c := cs.getD k ⟨0, 0, true, 0, 0, 0, 0, 0⟩
    let size := ((pl.vcores[c.vcore]?).map (fun v => if c.vseg < 4 then suVseg v.setup c.vseg else 0)).getD 0
    need (decide (c.vcore < pl.vcores.length) && decide (c.vseg < 4) && decide (c.voff + c.lines ≤ size))
      { refuse 0x0D k (c.voff + c.lines) size with vcore := c.vcore }) (List.range cs.length)

/-- The node a global address names, or none for the module itself (R366). -/
def remoteNode (m : Mod) (ga : Nat) : Option Nat :=
  let node := ga / 2 ^ 56 % 256
  if node = 0xFF ∨ node = m.nodeId then none else some node

/-- Read bytes of a weight image from its store as class 2 messages (R374); host memory needs no message. -/
def askBytes (m : Mod) (p : Nat) (x : Part) (source ga n : Nat) : Mod :=
  if source = 0 then m
  else match remoteNode m ga with
    | some node => remoteAccess m (groupTo m x node) node 0 false 2 (ga % 2 ^ 56) (cdiv n 72) [] p none 0 0
    | none => m

/-! ### The course of a load (R242, R243, R247) -/

/-- End a load with a refusal: record, status, everything written removed. -/
def refuseLoad (m : Mod) (p : Nat) (r : RingRef) (cid : BitVec 16) (addr1 : Nat) (why : Refuse) : Mod :=
  let bs := refusalBytes m.time why
  completeS (bufWrite (updPart m p (fun x => { x with refusal := bs })) r cid addr1 bs) r cid .refusedResources

/-- Drop a partition's class 2 read requests: what they bring is not wanted any more. -/
def dropReads (m : Mod) (p : Nat) : Mod :=
  { m with requests := m.requests.filter (fun q => !(q.part = p && q.cls = 2 && !q.write)) }

/-- The slice of a site as it is before the load writes its first weight line to it. -/
def saveSlice (m : Mod) (s : Nat) (l : Load) : Load :=
  if l.undo.any (fun e => e.1 = s) then l
  else { l with undo := l.undo ++ [(s, (siteOf m s).slice.lines, (siteOf m s).slice.written)] }

/-- Remove everything a load wrote: weight lines, cores, routes, redirects; what it has asked for is not wanted (R242, R243). -/
def removeLoad (m : Mod) (p : Nat) (x : Part) (l : Load) : Mod :=
  let m1 := l.undo.foldl (fun m e => updSlice m e.1 (fun y => { y with lines := e.2.1, written := e.2.2 })) m
  updPart (dropReads (removePlan m1 p x l.plan) p) p (fun y => { y with load := none })

/-- A load fails: what it placed is removed, and the refusal is written. -/
def failLoad (m : Mod) (p : Nat) (why : Refuse) : Mod :=
  match partOf? m p with
  | none => m
  | some x => match x.load with
    | none => m
    | some l => refuseLoad (removeLoad m p x l) p l.ring l.cid l.addr1 why

/-- A load is aborted (R243). -/
def abortLoad (m : Mod) (p : Nat) : Mod :=
  match partOf? m p with
  | none => m
  | some x => match x.load with
    | none => m
    | some l => completeS (removeLoad m p x l) l.ring l.cid .aborted

/-- A layer as a plan begins it (R134). -/
def LayerSt.start (e : LayerEntry) : LayerSt :=
  { level := e.initLevel, capped := false, pending := false, streak := 0, clean := 0, lastScore := 0,
    changeStep := 0, calmStep := 0, nonfinite := 0, window := ⟨0, 0, 0, 0⟩, cappedStep := none, roseWindow := none, failStep := none,
    staged := none }

/-- What a partition holds of a plan that has just been loaded. -/
def withPlan (pl : Plan) (x : Part) : Part :=
  { x with
    plan := some pl, load := none, layers := pl.layers.map (fun e => (e.layer, LayerSt.start e)),
    frame0 := if x.faultLink then .faulted else .idle,
    beatCount := 0, stepCount := 0, firstSite := 0xFFFF, firstCode := 0, faultPlan := false, inStep := false, schedPos := 0,
    batch := [], nextBatch := [], tableWaiting := false, predictions := [], massPosted := none, scores := [],
    poolLow := false, restartDue := false, staged := x.staged.filter (fun t => !isLevelKind t) }

/-- The inbound routes of a group: of the plan's windows there, and of the service grants at its port routers (R361). -/
def inboundRoutes (pl : Plan) (g : Nat) : List Nat :=
  (pl.windows.filter (fun w => w.rim = 16 + g)).map (fun w => w.rspRoute)
    ++ (pl.service.filter (fun k => (groupSites g).contains k.site && (neighbour k.site k.port).isSome)).map (fun k => k.route)

/-- Every inbound route of the group has a VALID entry at a port router. -/
def usableRouter (m : Mod) (x : Part) (pl : Plan) (g k : Nat) : Bool :=
  let r := (siteOf m ((groupSites g).getD k 0)).router
  (inboundRoutes pl g).all (fun e => bit (mget (if partEpoch m x then r.routesB else r.routesA) e 0) 0)

/-- Move the injection of a group to the next usable router in ascending order, where there is one (R361). -/
def moveInject (m : Mod) (x : Part) (pl : Plan) (g : Nat) : Mod :=
  updGroup m g (fun z => { z with
    inject := (([1, 2, 3].map (fun k => (z.inject + k) % 4)).find? (usableRouter m x pl g)).getD z.inject })

/-- The route tables in force give the injection router of each group its inbound routes: else injection moves (R361). -/
def settleInject (m : Mod) (x : Part) : Mod :=
  match x.plan with
  | none => m
  | some pl => forAll m (bitsOf (configGroups x.config)) (fun m g =>
      if usableRouter m x pl g (groupOf m g).inject then m else moveInject m x pl g)

/-- The epoch switch takes effect: the cores stamp the other bank from now on, and every router concerned drains (R184). -/
def switchEpoch (m : Mod) (p : Nat) (x : Part) : Mod :=
  let m1 := forAll m (partRegions m x) (fun m r => updRegion m r (fun y => { y with activeBank := !y.activeBank, switchPending := true }))
  updPart (settleInject m1 x) p (fun y => { y with draining := concerned m1 p x })

/-- The last chunk is verified: the plan is the partition's plan, and the switch to its route tables is staged (R184, R242). -/
def finishLoad (m : Mod) (p : Nat) : Mod :=
  match partOf? m p with
  | none => m
  | some x => match x.load with
    | none => m
    | some l => completeS (stageEpoch (updPart m p (withPlan l.plan)) p) l.ring l.cid .ok

/-- The next chunk that is loaded, from `k` on. -/
def nextChunk (cs : List Chunk) (k : Nat) : Nat :=
  ((List.range cs.length).find? (fun j => k ≤ j && !((cs.getD j ⟨0, 0, true, 0, 0, 0, 0, 0⟩).streamed))).getD cs.length

/-- Await chunk `k` of the weight image, or finish. -/
def awaitChunk (m : Mod) (p k : Nat) : Mod :=
  match partOf? m p with
  | none => m
  | some x => match x.load with
    | none => m
    | some l =>
      let j := nextChunk l.plan.chunks k
      match l.plan.chunks[j]? with
      | none => finishLoad m p
      | some c => askBytes (updPart m p (fun y => { y with load := some { l with next := j, tries := 0 } })) p x l.plan.source
          (l.plan.weightAddr + c.offset) (72 * c.lines)

/-- The header and chunk table of the weight image have arrived. -/
def takeHead (m : Mod) (p : Nat) (bs : List Byte) : Mod :=
  match partOf? m p with
  | none => m
  | some x => match x.load with
    | none => m
    | some l =>
      if !weightHeadOk l.plan bs then failLoad m p (refuse 0x19 0 0 0)
      else
        let cs := chunkTable bs
        match chunkCheck l.plan cs with
        | .error why => failLoad m p why
        | .ok _ => awaitChunk (updPart m p (fun y => { y with
            load := some { l with headerDue := false, plan := { l.plan with chunks := cs } } })) p 0

/-- A weight chunk, or the head of a store's image, arrives; a chunk that fails its CRC or its read is fetched again up to
two times (R245). -/
def doWeightChunk (p : Nat) (bs : List Byte) (failed : Bool) (m : Mod) : Mod :=
  match partOf? m p with
  | none => m
  | some x => match x.load with
    | none => m
    | some l =>
      if l.plan.source = 1 ∧ m.requests.any (fun q => q.part = p && q.cls = 2 && !q.write) then m
      else if l.headerDue then
        (if failed then failLoad m p (refuse 0x19 0 0 0) else takeHead m p bs)
      else match l.plan.chunks[l.next]? with
        | none => m
        | some c =>
          if failed ∨ bs.length ≠ 72 * c.lines ∨ crc32c bs ≠ c.crc then
            if l.tries < 2 then
              askBytes (updPart m p (fun y => { y with load := some { l with tries := l.tries + 1 } })) p x l.plan.source
                (l.plan.weightAddr + c.offset) (72 * c.lines)
            else failLoad m p { refuse 0x1A l.next 0 0 with vcore := c.vcore }
          else match l.plan.sites[c.vcore]?, l.plan.vcores[c.vcore]? with
            | some s, some vc =>
              let m1 := updPart m p (fun y => { y with load := some (saveSlice m s l) })
              awaitChunk (writeLines m1 s (vc.vsegBase.getD c.vseg 0 + c.voff) (bytesLines bs) []) p (l.next + 1)
            | _, _ => m

/-- Begin the load of a plan that passed every check (R242). -/
def beginLoad (m : Mod) (r : RingRef) (c : Cmd) (p : Nat) (x : Part) (pl : Plan) (winSec : Nat) : Mod :=
  let l : Load := { ring := r, cid := c.entry.cid, plan := pl, next := 0, tries := 0, addr1 := c.entry.addr1.toNat, headerDue := true,
                    winSec := winSec, undo := [] }
  let m1 := updPart (placePlan (runningCmd m r c) p x pl) p (fun y => { y with load := some l })
  if pl.source = 1 then askBytes m1 p x 1 pl.weightAddr 128
  else
    let hs := hostOf m1 (ringHost m1 r)
    takeHead m1 p (hostRead hs pl.weightAddr (headLen (hostRead hs pl.weightAddr 128)))

/-- The buffers PLAN_LOAD reads are accepted by the host bus. -/
def planBuffers (hs : HostSite) (e : SqEntry) : Bool :=
  !rejected hs e.addr0.toNat e.len0.toNat && !rejected hs (argN e 16 8) (8 * argN e 24 1)
    && (argN e 25 1 == 1 || !rejected hs (argN e 0 8) 128)

/-- PLAN_LOAD (R241). -/
def runPlanLoad (fz : Fuses) (m : Mod) (r : RingRef) (c : Cmd) : Mod :=
  let e := c.entry
  let bad := completeS m r e.cid .badDescriptor
  if !entryClean e false true true [(0, 64), (64, 64), (128, 64), (192, 8), (200, 8)] || 64 < argN e 24 1 || 1 < argN e 25 1
      || argN e 16 8 % 8 != 0 || (argN e 25 1 == 0 && argN e 0 8 % 8 != 0) then bad
  else if e.len1.toNat < 64 then
    let k := compl e.cid .refusedResources
    complete m r { k with result1 := 64 }
  else onPart m r c (fun p x =>
    if x.plan.isSome || x.load.isSome then completeS m r e.cid .notPermitted
    else
      let hs := hostOf m (ringHost m r)
      if !planBuffers hs e then bad
      else
        let img := hostRead hs e.addr0.toNat e.len0.toNat
        let vals := (List.range (argN e 24 1)).map (fun i => leNat (hostRead hs (argN e 16 8 + 8 * i) 8))
        match planChecks fz m p x img e.len0.toNat vals with
        | .error why => refuseLoad m p r e.cid e.addr1.toNat why
        | .ok _ =>
          let store : Bool := match (remoteNode m (argN e 0 8)).bind (partnerOf m) with
            | some q => q.role == 2
            | none => false
          if argN e 25 1 = 1 ∧ ¬ store then refuseLoad m p r e.cid e.addr1.toNat (refuse 0x15 0xFFFFFFFF 0 0)
          else beginLoad m r c p x (buildPlan fz m p x img vals (argN e 25 1) (argN e 0 8) (argN e 8 8))
            (secIdx img 0x0033 0xFFFFFFFF))

/-- A partner that leaves serves a window of a plan being loaded: the load is refused (R243). -/
def dropWindow (moduleId : Nat) (m : Mod) (p : Nat) : Mod :=
  match (partOf? m p).bind (fun x => x.load) with
  | some l => match l.plan.windows.find? (fun w => w.kind != 1 && w.moduleId == moduleId) with
    | some w => failLoad m p { refuse 0x15 w.gwin w.lines 0 with section_ := l.winSec }
    | none => m
  | none => m

/-! ### Unloading -/

/-- A SEQ_CLOSE that finds its sequence: no earlier one that waits names it (R302). -/
def firstClose (x : Part) (c : Cmd) : Bool :=
  c.entry.opcode == 0x0A && (seqOf? x c.entry.handle).isSome
    && !(partCmds x).any (fun d => d.entry.opcode == 0x0A && d.entry.handle == c.entry.handle && decide (d.fetchNo < c.fetchNo)
      && (d.phase == .waiting || d.phase == .decoded))

/-- How a command that waits on a sequence or on the plan ends when the plan goes: a SEQ_CLOSE has its effect (R302), every
other command is ABORTED, a SEQ_GENERATE with its stop reason (R254, R304, R319). -/
def waitEnd (x : Part) (c : Cmd) : Completion :=
  let e := c.entry
  let k := compl e.cid (if firstClose x c then .ok else if e.opcode = 0x0A then .notFound else .aborted)
  { k with handle := if e.opcode = 0x0A ∧ ¬ firstClose x c then 0 else e.handle, detail := if e.opcode = 0x03 then 3 else 0 }

/-- Commands of a partition that wait on sequences or on the plan end; `x` is the partition before its sequences went. -/
def abortWaiting (m : Mod) (p : Nat) (x : Part) : Mod :=
  (ringCmds p x).foldl (fun m rc =>
    if (rc.2.phase = .waiting ∨ rc.2.phase = .decoded) ∧ 1 ≤ rc.2.entry.opcode.toNat ∧ rc.2.entry.opcode.toNat ≤ 0x0B then
      complete m rc.1 (waitEnd x rc.2)
    else m) m

/-- The completions of adapter commands whose version goes with the plan: a load still placing is ABORTED, a deferred
retirement completes (R301). -/
def dropAdapters (m : Mod) (p : Nat) : Mod :=
  match partOf? m p with
  | none => m
  | some x => x.adapters.foldl (fun m a => match a.cmd with
      | some (r, cid) =>
        if a.retiring then complete m r { (compl cid .ok) with final := decide ((cmdOf? m r cid).any (fun c => c.done = 1)) }
        else completeS m r cid .aborted
      | none => m) (updPart m p (fun y => { y with adapters := [] }))

/-- Take the plan away: sequences closed, step and requests discarded, routes and redirects released (R303, R372). -/
def unloadPlan (m : Mod) (p : Nat) : Mod :=
  match partOf? m p with
  | none => m
  | some x => match x.plan with
    | none => m
    | some pl =>
      let m1 := discardStep m p
      let m2 := x.seqs.foldl (fun m q => closeSeq m p q.handle) m1
      let m3 := dropAdapters (abortWaiting m2 p x) p
      let m4 := { m3 with
        requests := m3.requests.filter (fun q => q.part != p),
        fabric := { m3.fabric with
          flights := m3.fabric.flights.filter (fun f => hPart f.pkt.header != p),
          acks := m3.fabric.acks.filter (fun a => !pl.sites.contains a.src),
          reports := m3.fabric.reports.filter (fun n => n.1 != p) } }
      let m5 := removePlan m4 p x pl
      let m6 := updPart m5 p (fun y => { y with
        plan := none, layers := [], frame0 := .idle, frameHolds := [], holdPartner := false, pages := [], leafUsed := [],
        reserved := [], storeWrites := [], storeReads := [], snaps := [], journalQ := [], maskReports := [], repair := none, restartDue := false,
        faultQ := [], refill := [], twinLeft := [], tableQ := [], stretchUs := 0, faultPlan := false, faultLink := false,
        faultStall := false, scores := [], massPosted := none, predictions := [],
        firstSite := 0xFFFF, firstCode := 0, poolLow := false, staged := y.staged.filter (fun t => !isLevelKind t && !isPlanKind t),
        epochDue := false, cars := [] })
      lossStop (setGates m6 p (match partOf? m6 p with
        | some y => anyHold y
        | none => false)) p

/-- PLAN_UNLOAD acts now: the partition stands at a boundary, or no beat of it can end. -/
def unloadNow (m : Mod) (x : Part) : Bool :=
  x.repair.isNone && (atBoundary m x || x.frame0 == .faulted || x.holdPartner || x.holdSeam)

/-- PLAN_UNLOAD (R243, R302, R303, R319). -/
def runPlanUnload (m : Mod) (r : RingRef) (c : Cmd) : Mod :=
  let e := c.entry
  if !entryClean e false false false [] then completeS m r e.cid .badDescriptor
  else onPart m r c (fun p x =>
    if x.load.isSome then completeS (abortLoad m p) r e.cid .ok
    else if x.plan.isNone then completeS m r e.cid .notPermitted
    else if unloadNow m x then completeS (unloadPlan m p) r e.cid .ok
    else waitCmd (setGates m p true) r c)

/-! ### The commands -/

/-- `PLAN_LOAD`. -/
def execPlanLoad (r : RingRef) (e : SqEntry) (h : HostSide) (s : State) : Host.Outcome State Fault Refusal :=
  lift (takeCmd r e h 0x20 (runPlanLoad s.fuses)) s
/-- `WEIGHT_CHUNK_ARRIVE`. -/
def execWeightChunkArrive (p : PartId) (payload : List Byte) (failed : Bool) (s : State) : Host.Outcome State Fault Refusal :=
  lift (doWeightChunk p.val payload failed) s
/-- `PLAN_UNLOAD`. -/
def execPlanUnload (r : RingRef) (e : SqEntry) (h : HostSide) (s : State) : Host.Outcome State Fault Refusal :=
  lift (takeCmd r e h 0x21 runPlanUnload) s

end Sys2Proof.Machine
end

