-- ==== Sys2Proof/Machine/Adapter.lean ====
section
/-! DEFINITION. Loading and retiring adapter versions (10_priorities_adapters_sampling.md R329-R337). -/
namespace Sys2Proof.Machine
open Sys2Proof

/-! ### Adapter images (R330-R332) -/

/-- A matrix table entry: matrix, block records, offset of the first. -/
def matrixEntry (bs : List Byte) (i : Nat) : Nat × Nat × Nat :=
  let o := 64 + 16 * i
  (leAt bs o 1, leAt bs (o + 4) 4, leAt bs (o + 8) 8)
/-- The matrix table. -/
def matrixTable (bs : List Byte) : List (Nat × Nat × Nat) := (List.range (leAt bs 6 2)).map (matrixEntry bs)
/-- A block record of a matrix. -/
def blockRecord (bs : List Byte) (matrix o : Nat) : DeltaBlk :=
  { matrix := matrix, rblk := leAt bs o 2, cblk := leAt bs (o + 2) 2, member := 0,
    lines := bytesLines ((bs.drop (o + 8)).take 288), last := false }
/-- Offsets of the block records of a table entry. -/
def recordOffsets (t : Nat × Nat × Nat) : List Nat := (List.range t.2.1).map (fun k => t.2.2 + 296 * k)
/-- The blocks of an image, matrix by matrix. -/
def imageBlocks (bs : List Byte) : List DeltaBlk := (matrixTable bs).flatMap (fun t => (recordOffsets t).map (blockRecord bs t.1))

/-- The header of an adapter image is sound (R332). -/
def adapterHeadOk (bs : List Byte) : Bool :=
  leAt bs 0 4 == 0x44415041 && leAt bs 4 2 == 0x0100 && 1 ≤ leAt bs 6 2 && leAt bs 6 2 ≤ 256 && leAt bs 8 8 == bs.length
    && leAt bs 48 4 == (crc32c (bs.drop 64)).toNat && leAt bs 52 12 == 0
/-- The matrix table of an adapter image is sound: no matrix twice, every range inside the image, reserved fields 0. -/
def matrixTableOk (bs : List Byte) : Bool :=
  let ts := matrixTable bs
  64 + 16 * ts.length ≤ bs.length && (ts.map Prod.fst).eraseDups.length == ts.length
    && ts.all (fun t => t.2.2 + 296 * t.2.1 ≤ bs.length)
    && (List.range ts.length).all (fun i => leAt bs (64 + 16 * i + 1) 3 == 0)
/-- The block records of one matrix rise strictly by row block and then column block (R332). -/
def blocksRise : List DeltaBlk → Bool
  | a :: b :: t => (a.rblk < b.rblk || (a.rblk == b.rblk && a.cblk < b.cblk)) && blocksRise (b :: t)
  | _ => true
/-- The block records of an image are sorted, tagged as R331 lays down, and their reserved fields are 0. -/
def blocksOk (bs : List Byte) : Bool :=
  (matrixTable bs).all (fun t =>
    blocksRise ((recordOffsets t).map (blockRecord bs t.1))
      && (recordOffsets t).all (fun o => leAt bs (o + 4) 4 == 0)
      && (recordOffsets t).all (fun o => (blockRecord bs t.1 o).lines.all (fun l => fld l 544 32 == 0x04)))

/-- The `DELTA` instructions of a program. -/
def deltaWords (ws : List InstrWord) : List InstrWord :=
  ((allInstrs (progCore ws)).filter (fun p => p.1 < 16 && wOpcode p.2.2 == 5)).map (fun p => p.2.2)
/-- A `DELTA` instruction covers a block (R332). -/
def deltaCovers (w : InstrWord) (b : DeltaBlk) : Bool :=
  b.matrix == fld w 53 8 && fld w 61 16 ≤ b.rblk && b.rblk ≤ fld w 61 16 + fld w 77 4 && fld w 81 16 ≤ b.cblk
    && b.cblk ≤ fld w 81 16 + fld w 97 16
/-- A core of a plan covers a block. -/
def coreCovers (v : VCore) (b : DeltaBlk) : Bool := (deltaWords v.prog).any (fun w => deltaCovers w b)
/-- Lines a version takes on a core that holds `n` of its blocks (R333). -/
def versionLines (n : Nat) : Nat := 1 + 4 * n + cdiv n 16
/-- Lines the versions of a list take on a core. -/
def adapterLines (v : VCore) (as : List (List DeltaBlk)) : Nat :=
  as.foldl (fun a bs =>
    let n := (bs.filter (coreCovers v)).length
    if n = 0 then a else a + versionLines n) 0
/-- Every core has room for one more version (R333). -/
def adapterRoom (x : Part) (pl : Plan) (bs : List DeltaBlk) : Bool :=
  pl.vcores.all (fun v => adapterLines v (bs :: x.adapters.map (fun a => a.blocks)) ≤ v.setup.getD 54 0)

/-- The lines of virtual core `v`'s adapter allowance that no version holds, ascending (R237). -/
def freeAdapterLines (x : Part) (v : Nat) (vc : VCore) : List Nat :=
  let used := x.adapters.flatMap (fun a => (a.places.filter (fun p => p.vcore = v)).flatMap (fun p => p.lines))
  ((List.range (vc.setup.getD 54 0)).map (fun k => vc.adapterBase + k)).filter (fun l => !used.contains l)

/-- Where a version's blocks go: on every core that covers some, in its lowest free lines (R333; DESIGN CHOICE, log entry
73). -/
def adapterPlaces (x : Part) (pl : Plan) (bs : List DeltaBlk) : List AdapterPlace :=
  (pl.vcores.zipIdx).filterMap (fun (vc, v) =>
    let ks := ((bs.zipIdx).filter (fun b => coreCovers vc b.1)).map (fun b => b.2)
    if ks.isEmpty then none
    else some { vcore := v, lines := (freeAdapterLines x v vc).take (versionLines ks.length), blocks := ks })

/-- An adapter image can be placed on the plan: no defect of R332. -/
def imageOk (pl : Plan) (bs : List Byte) : Bool :=
  64 ≤ bs.length && adapterHeadOk bs && (bs.drop 16).take 32 == (digestBytes pl.weightDigest).take 32 && matrixTableOk bs && blocksOk bs
    && (imageBlocks bs).all (fun b => pl.vcores.any (fun v => coreCovers v b))

/-! ### Loading (R329, R333) -/

/-- Versions whose blocks are written become loaded at a step boundary, and their commands complete (R333). -/
def settleLoads (m : Mod) (p : Nat) : Mod :=
  match partOf? m p with
  | none => m
  | some x =>
    let due (a : Adapter) : Bool := a.loading && a.written
    (x.adapters.filter due).foldl (fun m a => match a.cmd with
      | some (r, cid) => completeS m r cid .ok
      | none => m)
    (updPart m p (fun y => { y with adapters := y.adapters.map (fun a => if due a then { a with loading := false, cmd := none } else a) }))

/-- Adapter work of a step boundary: loads become versions in force, then versions settle (R333, R335, R336). -/
def adapterBoundary (m : Mod) (p : Nat) : Mod := settleAdapters (settleLoads m p) p

/-- ADAPTER_LOAD. -/
def runAdapterLoad (m : Mod) (r : RingRef) (c : Cmd) : Mod :=
  let e := c.entry
  let id := argN e 0 2
  let ver := argN e 2 2
  if !entryClean e false true false [(0, 16), (16, 16)] then completeS m r e.cid .badDescriptor
  else onPart m r c (fun p x =>
    match x.plan with
    | none => completeS m r e.cid .notPermitted
    | some pl =>
      let hs := hostOf m (ringHost m r)
      let bs := hostRead hs e.addr0.toNat e.len0.toNat
      if planStopped x then waitCmd m r c
      else if pl.maxAdapters ≤ id then completeS m r e.cid .notPermitted
      else if rejected hs e.addr0.toNat e.len0.toNat ∨ ¬ imageOk pl bs then completeS m r e.cid .badDescriptor
      else if x.adapters.any (fun a => a.id = id && a.version = ver) then completeS m r e.cid .notPermitted
      else if 8 ≤ (x.adapters.filter (fun a => a.id = id)).length ∨ ¬ adapterRoom x pl (imageBlocks bs) then
        completeS m r e.cid .refusedResources
      else
        let a : Adapter := { id := id, version := ver, retiring := false, loading := true, addr := e.addr0.toNat,
                             len := e.len0.toNat, blocks := imageBlocks bs, places := adapterPlaces x pl (imageBlocks bs),
                             written := false, cmd := some (r, e.cid) }
        let m1 := writeAdapters (updPart (runningCmd m r c) p (fun y => { y with adapters := y.adapters ++ [a] })) p
        if x.inStep then m1 else adapterBoundary m1 p)

/-! ### Retiring (R336) -/

/-- ADAPTER_RETIRE. -/
def runAdapterRetire (m : Mod) (r : RingRef) (c : Cmd) : Mod :=
  let e := c.entry
  let id := argN e 0 2
  let ver := argN e 2 2
  if !entryClean e false false false [(0, 16), (16, 16)] then completeS m r e.cid .badDescriptor
  else onPart m r c (fun p x =>
    match x.plan with
    | none => completeS m r e.cid .notPermitted
    | some pl =>
      if planStopped x then waitCmd m r c
      else if pl.maxAdapters ≤ id then completeS m r e.cid .notPermitted
      else match x.adapters.find? (fun a => a.id = id && a.version = ver && !a.retiring && !a.loading) with
        | none => completeS m r e.cid .notFound
        | some a =>
          let m1 := updPart (runningCmd m r c) p (fun y => { y with adapters := y.adapters.map (fun d =>
            if d.id = id && d.version = ver then { d with retiring := true, cmd := some (r, e.cid) } else d) })
          let m2 := if versionRefs x a = 0 then m1
            else completeS (updCmd m1 r e.cid (fun d => { d with done := 1 })) r e.cid .deferred
          if x.inStep then m2 else settleAdapters m2 p)

/-! ### The commands -/

/-- `ADAPTER_LOAD`. -/
def execAdapterLoad (r : RingRef) (e : SqEntry) (h : HostSide) (s : State) : Host.Outcome State Fault Refusal :=
  lift (takeCmd r e h 0x10 runAdapterLoad) s
/-- `ADAPTER_RETIRE`. -/
def execAdapterRetire (r : RingRef) (e : SqEntry) (h : HostSide) (s : State) : Host.Outcome State Fault Refusal :=
  lift (takeCmd r e h 0x11 runAdapterRetire) s

end Sys2Proof.Machine
end

