-- ==== Sys2Proof/Machine/Clocks.lean ====
section
/-! DEFINITION. Core clocks, VCORE setpoints and guard limits of the regions (12 R389, R390; 13 R413-R421; 14 R431). -/
namespace Sys2Proof.Machine
open Sys2Proof

/-! ### Targets (R389, R390, R418) -/

/-- The CCLK target of a mode (R389). -/
def modeTarget (x : Part) (md : Mode) : Nat :=
  match md with
  | .efficiency => min (configCclk x.config) 800
  | _ => configCclk x.config
/-- The current guard limit of a mode, in percent (R389). -/
def modeGuard : Mode → Nat
  | .efficiency => 70
  | _ => 100
/-- Mode target and module cap, whichever is lower (R390). -/
def targetOf (x : Part) : Nat := min (modeTarget x x.mode) x.cclkCap
/-- The guard percentage of a partition (R418). -/
def guardOf (x : Part) : Nat := min (modeGuard x.mode) (x.powerCap / 3)
/-- The VCORE setpoint for a CCLK at an operating point (R413), mV. -/
def vcoreMv (mhz : Nat) (low : Bool) : Nat :=
  if mhz ≤ 400 then 550
  else if mhz ≤ 600 then (if low then 600 else 650)
  else if mhz ≤ 800 then (if low then 660 else 720)
  else if mhz ≤ 1000 then 780
  else 850
/-- A mode uses the low operating point (R389). -/
def lowPoint : Mode → Bool
  | .efficiency => true
  | _ => false

/-! ### Regions -/

/-- The partition a physical region serves. -/
def regionPart (m : Mod) (r : Nat) : Option Part := (servedBy m r).bind (partOf? m)
/-- The CCLK target of a region: its partition's, or 400 MHz without a role (log entry 27). -/
def regionTarget (m : Mod) (r : Nat) : Nat := ((regionPart m r).map (fun x => x.targetMhz)).getD 400
/-- The region's core domain carries a clock. -/
def coreUp (m : Mod) (r : Nat) : Bool :=
  match (regionAt m r).power.core with
  | .on => true
  | .warm => true
  | _ => false
/-- The operating point of a region. -/
def regionLow (m : Mod) (r : Nat) : Bool := ((regionPart m r).map (fun x => lowPoint x.mode)).getD false

/-- Number of failed cells of a region. -/
def cellsFailed (x : RegPower) : Nat := (bitsOf x.cellsFailed).length
/-- Numerator over 22 of the cell factor (R421). -/
def cellFactor (x : RegPower) : Nat :=
  match cellsFailed x with
  | 3 => 21
  | 4 => 20
  | _ => 22
/-- The guard percentage in force in a region: its partition's, less what overpower took (R418, R423). -/
def regionPct (m : Mod) (r : Nat) : Nat :=
  ((regionPart m r).map (fun x => x.guardPct)).getD 100 - (regionAt m r).power.overPct
/-- I_lim of a region in 0.1 A (R418, R420, R421). -/
def ilimDa (x : RegPower) : Nat := 2250 * x.pct * (if x.capped then 90 else 100) * cellFactor x / (100 * 100 * 22)

/-- The guard percentage of a region follows its sources. -/
def retargetGuard (m : Mod) (r : Nat) : Mod := updPower m r (fun y => { y with pct := regionPct m r })

/-- CCLK and VCORE of a region follow target and ceiling (R390, R413); the lowest sensor reads the setpoint (R414). -/
def retargetClock (m : Mod) (r : Nat) : Mod :=
  if coreUp m r then
    let y := (regionAt m r).clock
    let f := if y.forced then min 400 (regionTarget m r) else min (regionTarget m r) y.ceilingMhz
    let v := if (servedBy m r).isSome then vcoreMv f (regionLow m r) else 550
    updPower (updClock m r (fun c => { c with cclkMhz := f })) r (fun p => { p with setMv := v, minMv := v })
  else updPower (updClock m r (fun c => { c with cclkMhz := 0 })) r (fun p => { p with setMv := 0, minMv := 0 })

/-- Clock, voltage and guard of a region. -/
def retargetRegion (m : Mod) (r : Nat) : Mod := retargetClock (retargetGuard m r) r

/-- Target, guard and every region of a partition follow its mode and caps. -/
def retargetPart (m : Mod) (p : Nat) : Mod :=
  let m1 := updPart m p (fun x => { x with targetMhz := targetOf x, guardPct := guardOf x })
  match partOf? m1 p with
  | some x => forAll m1 (partRegions m1 x) retargetRegion
  | none => m1

/-- The thermal ceiling of a region changes (R431): a fall acts at once, a rise at the region's next beat boundary. -/
def setCeiling (m : Mod) (r c : Nat) : Mod :=
  let m1 := updClock m r (fun y => { y with ceilingMhz := c })
  let now : Bool := match regionPart m r with
    | some x => atBoundary m x
    | none => true
  if c < (regionAt m r).clock.cclkMhz ∨ now then retargetClock m1 r else m1

end Sys2Proof.Machine
end

