-- ==== Sys2Proof/Machine/ErrorWatch.lean ====
section
/-! DEFINITION. The check lane's verdicts and the error watch (04_error_watch_and_widening.md R123-R142). -/
namespace Sys2Proof.Machine
open Sys2Proof

/-! ### Scoring a tile (R118, R125-R129) -/

/-- Weight lines of a sampled tile. -/
def tileLines (e : CheckEntry) : Nat :=
  match packedOf (fld e.word 32 6) with
  | some fw => e.results.length * runLines fw (fld e.word 96 16)
  | none => 0

/-- One output of a sampled tile: y_m, y_c, y_q, the output unit, the gross threshold T + 2^12 u. -/
structure TileOut where
  ym : B32
  yc : B32
  yq : B32
  u : Int
  limit : Fl

/-- The captured inputs, completed with zeros to the reduction length. -/
def tileInputs (e : CheckEntry) : List B32 :=
  let k := 32 * fld e.word 96 16
  e.inputs.take k ++ List.replicate (k - e.inputs.length) 0

/-- The re-quantised inputs at the tile's format and scale (R125): lines and values. -/
def tileQuant (fa : Packed) (e : CheckEntry) : List Line × List B32 :=
  let ls := packRun fa e.level (quantRun fa e.scale 0 (tileInputs e))
  (ls, (List.range (tileInputs e).length).map (runVal fa ls))

/-- Recompute output `l` of a tile; none when y_c, y_q or A is not finite (R126-R128). -/
def tileOut (fw fa : Packed) (e : CheckEntry) (ls : List Line) (q : List Line × List B32) (l : Nat) : Option TileOut :=
  let kblk := fld e.word 96 16
  let ws := (ls.drop (l * runLines fw kblk)).take (runLines fw kblk)
  let xs := (tileInputs e).map b32Val
  let yc := checkDot fw ws xs
  let yq := checkDot fw ws (q.2.map b32Val)
  let a := checkAbs fw ws xs
  if flFinite (b32Val yc) && flFinite (b32Val yq) && flFinite (b32Val a) then
    let r := runTerms (winOffset fw fa) e.interval (groupScales fw fa (4 * 2 ^ fld e.word 44 2) kblk ws q.1) none
    let t := flAdd r.1 (flMul (.fin false r.2 (-24)) (b32Val a))
    some { ym := e.results.getD l 0, yc := yc, yq := yq, u := unitExp a, limit := flAdd t (.fin false 1 (12 + unitExp a)) }
  else none

/-- An output is a gross mismatch (R129); a non-finite y_m always is (R127). -/
def grossOut (t : TileOut) : Bool :=
  match flAdd (b32Val t.ym) (flNeg (b32Val t.yq)) with
  | .fin s m e => flLt t.limit (flAbs (.fin s m e))
  | _ => true

/-- Weights and inputs of a tile are finite (R127); a poisoned weight line counts as non-finite (log entry 28). -/
def tileFinite (fw : Packed) (e : CheckEntry) (ls : List Line) : Bool :=
  let k := 32 * fld e.word 96 16
  let n := runLines fw (fld e.word 96 16)
  (tileInputs e).all (fun v => flFinite (b32Val v)) && !ls.any tagPoison
    && (List.range e.results.length).all (fun l => (List.range k).all (fun i =>
      flFinite (b32Val (runVal fw ((ls.drop (l * n)).take n) i))))

/-- Score a tile: the divergence score, or the largest gross ratio, or neither (R126-R130). -/
def scoreTile (s : Nat) (e : CheckEntry) (ls : List Line) : Score :=
  let none_ : Score := { layer := e.layer, level := e.level, score := none, gross := none, site := s, handle := e.handle }
  match packedOf (fld e.word 32 6), packedOf e.fmt with
  | some fw, some fa =>
    if !tileFinite fw e ls then none_
    else
      let q := tileQuant fa e
      let outs := (List.range e.results.length).filterMap (tileOut fw fa e ls q)
      if outs.length < e.results.length then none_
      else if outs.any grossOut then
        { none_ with gross := some (outs.foldl (fun a t => max a (ulpRatio t.ym t.yq t.u)) 0) }
      else
        { none_ with score := some (meanFloor (log2 outs.length) (outs.map (fun t => divergence t.ym t.yc t.u))) }
  | _, _ => none_

/-- `CHECK_TILE_DONE`: the first captured tile is recomputed and posted, its entry freed (R72); while the region
controller restarts the tile is dropped (R469). -/
def doCheckTile (s : Nat) (fs : List MemFault) (m : Mod) : Mod :=
  match partAtSite m s, (siteOf m s).core.reserve.find? (fun e => !e.results.isEmpty) with
  | some p, some e =>
    let r := readLines m s e.source (tileLines e) fs
    let m1 := updCore r.1 s (fun c => { c with
      reserve := c.reserve.erase e, checkDone := c.checkDone + 1 })
    if (regionAt m (regionOf s)).fwRestart then
      updRegion m1 (regionOf s) (fun y => { y with tilesDropped := sat32 (y.tilesDropped + 1) })
    else updPart m1 p (fun x => { x with scores := x.scores ++ [scoreTile s e r.2] })
  | _, _ => m

/-! ### Staging level changes (R137-R141) -/

/-- The virtual cores that hold a layer: some instruction of their beat programs names it (log entry 29). -/
def holdsLayer (v : VCore) (layer : Nat) : Bool := (allInstrs (progCore v.prog)).any (fun i => wLayer i.2.2 == layer)

/-- The regions that hold cores of a layer. -/
def layerRegions (pl : Plan) (layer : Nat) : List Nat :=
  ((List.range pl.sites.length).filterMap (fun v => match pl.sites[v]?, pl.vcores[v]? with
    | some s, some c => if holdsLayer c layer then some (regionOf s) else none
    | _, _ => none)).eraseDups

/-- Beats of the partition are being released. -/
def beatsRun (x : Part) : Bool := x.inStep && (x.frame0 == .run || x.frame0 == .holdPending)

/-- The beat a stage message names (R392, R393). -/
def stageBeat (x : Part) : Nat := if beatsRun x then x.beatCount + 2 else x.beatCount

/-- A level change of a layer is staged. -/
def levelStaged (x : Part) (layer : Nat) : Option Staged :=
  x.staged.find? (fun t => match t.kind with
    | .level l _ _ _ => l == layer
    | _ => false)

/-- Stage a level change at the regions that hold the layer (R138). -/
def stageLevel (m : Mod) (p layer new cause : Nat) : Mod :=
  match partOf? m p with
  | none => m
  | some x => match x.plan with
    | none => m
    | some pl =>
      let rs := layerRegions pl layer
      let st : Staged :=
        { kind := .level layer new cause x.stepCount, waiting := rs, beat := stageBeat x, committed := rs.isEmpty, cmd := none,
          time := m.time }
      updPart m p (fun y => { y with staged := y.staged ++ [st] })

/-- A change of the layer is allowed in this step (R137, R138). -/
def levelFree (x : Part) (l : LayerSt) : Bool := l.changeStep + 256 ≤ x.stepCount && l.failStep != some x.stepCount

/-- Withdraw an uncommitted fall of a layer (R141). -/
def withdrawFall (m : Mod) (p layer : Nat) (l : LayerSt) : Mod :=
  updPart m p (fun x => match levelStaged x layer with
    | some t => match t.kind, t.committed with
      | .level _ new _ _, false =>
        if new < l.level then { x with staged := x.staged.filter (fun u => u != t), cancels := sat32 (x.cancels + 1) } else x
      | _, _ => x
    | none => x)

/-- An upward trigger (R136, R137, R139, R141). -/
def trigger (m0 : Mod) (p layer cause : Nat) : Mod :=
  match (partOf? m0 p).bind (fun x => mget? x.layers layer) with
  | none => m0
  | some l =>
    let m := withdrawFall m0 p layer l
    match partOf? m p, (partOf? m p).bind (fun x => layerEntry x layer) with
    | some x, some e =>
      if e.maxLevel ≤ l.level then
        let m1 := updLayer m p layer (fun l => { l with capped := true })
        if l.cappedStep.all (fun t => t + 256 ≤ x.stepCount) then
          postWith (updLayer m1 p layer (fun l => { l with cappedStep := some x.stepCount })) 0x0103 7 (some p) none none
            (layerPayload p layer l.level l.level 0 0xFFFF x.stepCount l.lastScore 0xFFFFFFFF)
        else m1
      else if (levelStaged x layer).isSome then m
      else if levelFree x l then stageLevel m p layer (l.level + 1) cause
      else updLayer m p layer (fun l => { l with pending := true })
    | _, _ => m

/-- Stage a fall by one level if it is allowed and above `INIT_LEVEL` (R140). -/
def narrow (m : Mod) (p layer cause : Nat) : Mod :=
  match partOf? m p, (partOf? m p).bind (fun x => layerEntry x layer), (partOf? m p).bind (fun x => mget? x.layers layer) with
  | some x, some e, some l =>
    if e.initLevel < l.level ∧ levelFree x l ∧ (levelStaged x layer).isNone then stageLevel m p layer (l.level - 1) cause else m
  | _, _, _ => m

/-! ### Scores (R127, R130, R131, R136, R140) -/

/-- `THRESH` in force (R134). -/
def threshOf (e : LayerEntry) : Nat := if e.thresh = 0 then 16384 else e.thresh
/-- `STREAK_K` in force. -/
def streakOf (e : LayerEntry) : Nat := if e.streakK = 0 then 4 else e.streakK
/-- `ZF_LIMIT` in force. -/
def zfLimitOf (e : LayerEntry) : Nat := if e.zfLimit = 0 then 64 else e.zfLimit
/-- `SAT_LIMIT` in force. -/
def satLimitOf (e : LayerEntry) : Nat := if e.satLimit = 0 then 16 else e.satLimit

/-- Gross-tile entries of a site in the last 600 s (R131). -/
def grossRecent (m : Mod) (s : Nat) : Nat :=
  (m.ledger.entries.filter (fun e => e.event == 0x0105 && fld e.payload 48 16 == s && decide (m.time ≤ e.time + 600000000000))).length

/-- A gross tile (R130, R144): ledger entry and event. `level` is the layer's level, which the event leaves as it is. -/
def takeGross (m : Mod) (p : Nat) (x : Part) (level : Nat) (sc : Score) (ratio : Nat) : Mod :=
  let m1 := postLedger m 0x0105 (some p) 2 4
    (layerPayload p sc.layer level level 0 sc.site x.stepCount ratio sc.handle.toNat)
  updEnv m1 sc.site (fun e => { e with gross := sat32 (e.gross + 1) })

/-- An accepted score (R136, R140). -/
def takeScore (m : Mod) (p : Nat) (e : LayerEntry) (layer d : Nat) : Mod :=
  let high := decide (threshOf e < d)
  let m1 := updLayer m p layer (fun l => { l with
    lastScore := d, streak := if high then l.streak + 1 else 0,
    clean := if d ≤ threshOf e / 2 then sat32 (l.clean + 1) else 0 })
  match (partOf? m1 p).bind (fun x => mget? x.layers layer) with
  | none => m1
  | some l =>
    if streakOf e ≤ l.streak then trigger (updLayer m1 p layer (fun l => { l with streak := 0 })) p layer 1
    else if 4096 ≤ l.clean ∧ (l.level = 1 ∨ l.level = 2) then narrow m1 p layer 5
    else m1

/-- The error watch takes the oldest score or gross result of a partition (R127, R130). -/
def doScore (p : Nat) (m : Mod) : Mod :=
  match partOf? m p with
  | none => m
  | some x => match if rmAlive m then x.scores else [] with
    | [] => m
    | sc :: rest =>
      let m1 := updPart m p (fun y => { y with scores := rest })
      match layerEntry x sc.layer, mget? x.layers sc.layer with
      | some e, some l =>
        let m2 := match sc.gross with
          | some g => takeGross m1 p x l.level sc g
          | none => m1
        let bad (m : Mod) : Mod := updLayer m p sc.layer (fun l => { l with nonfinite := sat16 (l.nonfinite + 1) })
        if l.level ≠ sc.level then bad m2
        else match sc.score, sc.gross with
          | some d, _ => takeScore m2 p e sc.layer d
          | none, none => bad m2
          | none, some _ => m2
      | _, _ => m1

/-! ### Windows and timeouts -/

/-- The counting window of one layer ends (R132). -/
def endWindow (p : Nat) (m : Mod) (layer : Nat) : Mod :=
  match (partOf? m p).bind (fun x => layerEntry x layer), (partOf? m p).bind (fun x => mget? x.layers layer) with
  | some e, some l =>
    let w := l.window
    let m1 := updLayer m p layer (fun l => { l with window := ⟨0, 0, 0, 0⟩ })
    let z := decide (zfLimitOf e * w.blocks < 65536 * w.zero)
    let s := decide (satLimitOf e * w.blocks < 65536 * w.sat)
    if w.blocks = 0 ∨ ¬ (z || s) then m1
    else trigger (updLayer m1 p layer (fun l => { l with clean := 0, calmStep := (stepsOf m p) })) p layer (if z then 2 else 3)
  | _, _ => m
where
  /-- Steps begun by the partition. -/
  stepsOf (m : Mod) (p : Nat) : Nat := ((partOf? m p).map (fun x => x.stepCount)).getD 0

/-- A counting window of 64 steps is over: as many whole windows as steps have completed, and no beat of the next step
has released yet (R132). -/
def windowOver (x : Part) : Bool :=
  let n := if x.inStep then x.stepCount - 1 else x.stepCount
  n != 0 && n % 64 == 0 && (!x.inStep || x.schedPos == 0)

/-- `QUANT_WINDOW_END`: acts at the end of a window aligned to multiples of 64 steps (R132). -/
def doQuantWindow (p : Nat) (m : Mod) : Mod :=
  match partOf? m p with
  | some x => if rmAlive m && windowOver x then forAll m (x.layers.map Prod.fst) (endWindow p) else m
  | none => m

/-- `PENDING_ESCALATE` (R137). -/
def doPending (p layer : Nat) (m : Mod) : Mod :=
  match partOf? m p, (partOf? m p).bind (fun x => mget? x.layers layer) with
  | some x, some l => if rmAlive m && l.pending && levelFree x l then trigger m p layer 4 else m
  | _, _ => m

/-- `LEVEL3_TIMEOUT` (R140): 65,536 steps have begun at level 3 since its last change and its last counter trigger. -/
def doLevel3 (p layer : Nat) (m : Mod) : Mod :=
  match partOf? m p, (partOf? m p).bind (fun x => mget? x.layers layer) with
  | some x, some l => if rmAlive m ∧ l.level = 3 ∧ max l.changeStep l.calmStep + 65536 ≤ x.stepCount then narrow m p layer 6 else m
  | _, _ => m

/-! ### The commands -/

/-- `CHECK_TILE_DONE`. -/
def execCheckTileDone (site : SiteId) (mem : List MemFault) (s : State) : Host.Outcome State Fault Refusal :=
  lift (doCheckTile site.val mem) s
/-- `QUANT_WINDOW_END`. -/
def execQuantWindowEnd (p : PartId) (s : State) : Host.Outcome State Fault Refusal := lift (doQuantWindow p.val) s
/-- `PENDING_ESCALATE`. -/
def execPendingEscalate (p : PartId) (layer : Fin 4096) (s : State) : Host.Outcome State Fault Refusal :=
  lift (doPending p.val layer.val) s
/-- `LEVEL3_TIMEOUT`. -/
def execLevel3Timeout (p : PartId) (layer : Fin 4096) (s : State) : Host.Outcome State Fault Refusal :=
  lift (doLevel3 p.val layer.val) s

end Sys2Proof.Machine
end

