-- ==== Sys2Proof/Machine/Staging.lean ====
section
/-! DEFINITION. The staged commit: modes, module limits, ownership checks, replica swaps (12 R389-R395, R405; 14 R440). -/
namespace Sys2Proof.Machine
open Sys2Proof

/-! ### Staging (R392, R393) -/

/-- Stage a change at every region controller of a partition (R392). -/
def stageChange (m : Mod) (p : Nat) (k : ChangeKind) (cmd : Option (RingRef × BitVec 16)) : Mod :=
  match partOf? m p with
  | none => m
  | some x => updPart m p (fun y => { y with staged := y.staged ++
      [{ kind := k, waiting := partRegions m x, beat := stageBeat x, committed := false, cmd := cmd, time := m.time }] })

/-- The change is a mode or a module limit: staged one at a time (R391). -/
def isModeKind (t : Staged) : Bool :=
  match t.kind with
  | .mode _ => true
  | .limits _ _ _ => true
  | _ => false

/-- Drop a staged change from its partition. -/
def dropStaged (m : Mod) (p : Nat) (st : Staged) : Mod :=
  updPart m p (fun x => { x with staged := x.staged.filter (fun t => t != st) })

/-- Complete the command of a staged change. -/
def completeStaged (m : Mod) (st : Staged) (status : Status) (b : Nat) : Mod :=
  match st.cmd with
  | some (r, cid) =>
    let k := compl cid status
    complete m r { k with result1 := b }
  | none => m

/-- Note the outcome of a partition in the MODULE_LIMITS in progress (R395): status code and beat. -/
def noteLimits (m : Mod) (status b : Nat) : Mod :=
  { m with limits := m.limits.map (fun l => { l with results := l.results ++ [(status, b)] }) }

/-! ### Taking effect -/

/-- Payload of a thermal or clock event (R448). -/
def thmPayload (m : Mod) (site region sensor cause temp value p : Nat) : BitVec 192 :=
  payload [(0, 16, site), (16, 6, region), (22, 2, sensor), (24, 8, cause), (32, 16, temp), (48, 16, value), (64, 4, p), timeField m]

/-- The mode of a partition changes (R389): check interval, target, guard. -/
def applyMode (m : Mod) (p : Nat) (md : Mode) : Mod :=
  let m1 := updPart m p (fun x => { x with mode := md, predictions := [] })
  let m2 := match partOf? m1 p with
    | some x => forAll m1 (partSites x) (fun m s => updCore m s (fun c => { c with checkN := checkInterval md }))
    | none => m1
  retargetPart m2 p

/-- The route ids a swap exchanges, as (id, partner) both ways (R440). -/
def swapPairs (pl : Plan) (c : CarEntry) : List (Nat × Nat) :=
  (List.range c.count).flatMap (fun k =>
    let a := physId pl.routeBase (c.primary + k)
    let b := physId pl.routeBase (c.alternate + k)
    [(a, b), (b, a)])

/-- A bank of a partition's entries with the exchanged ids, laid over another bank. -/
def swapBank (p : Nat) (ps : List (Nat × Nat)) (src dst : SMap (BitVec 32)) : SMap (BitVec 32) :=
  let mine := src.filter (fun e => fld e.2 18 4 == p)
  let other (k : Nat) : Nat := ((ps.find? (fun q => q.1 = k)).map Prod.snd).getD k
  mine.foldl (fun b e => mset b (other e.1) e.2) (releaseBank p dst)

/-- A replica swap takes effect (R440, R184). -/
def applySwap (m : Mod) (p i : Nat) : Mod :=
  match partOf? m p, (partOf? m p).bind (fun x => x.plan), (partOf? m p).bind (fun x => mget? x.cars i) with
  | some x, some pl, some c =>
    let ps := swapPairs pl c
    let b := partEpoch m x
    let m1 := forAll m (concerned m p x) (fun m s =>
      updRouter m s (fun r => if b then { r with routesA := swapBank p ps r.routesB r.routesA }
        else { r with routesB := swapBank p ps r.routesA r.routesB }))
    let m2 := switchEpoch m1 p x
    let m3 := updPart m2 p (fun y => { y with
      cars := mset y.cars i { c with swapped := !c.swapped, swaps := sat16 (c.swaps + 1), lastSwap := some m.time } })
    post m3 0x0905 none (thmPayload m3 0xFFFF 0x3F 0 i 0 0 p)
  | _, _, _ => m

/-- Ownership checks of a partition go off or on (R405). -/
def applyOwnCheck (m : Mod) (p : Nat) (off : Bool) : Mod :=
  let m1 := updPart m p (fun x => { x with ownCheckOff := off })
  match partOf? m1 p with
  | some x => forAll m1 (partRegions m1 x) (fun m r => updRegion m r (fun y => { y with ownCheck := !off }))
  | none => m1

/-- A committed change other than a level takes effect at the release ending beat `b`, or standing at `b` (R392, R393). -/
def applyChange (p b : Nat) (m : Mod) (st : Staged) : Mod :=
  let m1 := dropStaged m p st
  match st.kind with
  | .mode md => completeStaged (applyMode m1 p md) st .ok b
  | .limits modes cclk power =>
    let m2 := updPart m1 p (fun x => { x with modesCap := modes, cclkCap := cclk, powerCap := power })
    noteLimits (retargetPart m2 p) 0 b
  | .swap i => applySwap m1 p i
  | .ownCheck off => applyOwnCheck m1 p off
  | .epoch => match partOf? m1 p with
    | some x => switchEpoch m1 p x
    | none => m1
  | .level _ _ _ _ => m

/-- Commit every staged change whose regions have all acknowledged (R392). -/
def commitStaged (x : Part) : Part :=
  let due (t : Staged) : Bool := t.waiting.isEmpty && !t.committed
  { x with
    commits := sat32 (x.commits + (x.staged.filter due).length),
    staged := x.staged.map (fun t => if due t then { t with committed := true } else t) }

/-- Commit what is acknowledged; while no beat is released, committed changes take effect at once (R393). -/
def settleStaged (m : Mod) (p : Nat) : Mod :=
  let m1 := updPart m p commitStaged
  match partOf? m1 p with
  | none => m1
  | some x =>
    if beatsRun x then m1
    else (x.staged.filter (fun t => t.committed && !isLevelKind t)).foldl (applyChange p x.beatCount) m1

/-- Changes that take effect at the release ending beat `b` (R392). -/
def applyAt (m : Mod) (p b : Nat) : Mod :=
  match partOf? m p with
  | some x => (x.staged.filter (fun t => t.committed && !isLevelKind t && t.beat ≤ b)).foldl (applyChange p b) m
  | none => m

/-- A staged change whose outcome is open at the end of beat `b` withholds the gates (R392). -/
def withheld (x : Part) (b : Nat) : Bool := x.staged.any (fun t => !t.committed && t.beat ≤ b)

/-! ### Cancelling (R393, R394, R138) -/

/-- Cancel an uncommitted change: nothing changes in any region. A cancelled switch to a new plan's route tables is staged
once more (DESIGN CHOICE, log entry 93). -/
def cancelStaged (m : Mod) (p : Nat) (st : Staged) : Mod :=
  let m1 := updPart (dropStaged m p st) p (fun x => { x with cancels := sat32 (x.cancels + 1) })
  match st.kind with
  | .mode _ => completeStaged (retargetPart m1 p) st .aborted 0
  | .limits _ _ _ => noteLimits (retargetPart m1 p) 1 0
  | .swap i => updPart m1 p (fun x => match mget? x.cars i with
      | some c => { x with cars := mset x.cars i { c with lastSwap := some m.time } }
      | none => x)
  | .ownCheck _ => m1
  | .epoch => stageEpoch m1 p
  | .level layer new cause step =>
    match partOf? m1 p, (partOf? m1 p).bind (fun x => mget? x.layers layer) with
    | some x, some l =>
      let m2 := updLayer m1 p layer (fun l => { l with failStep := some x.stepCount, pending := l.pending || decide (l.level < new) })
      post m2 0x0104 (some p) (layerPayload p layer l.level l.level cause 0xFFFF step l.lastScore 0xFFFFFFFF)
    | _, _ => m1

/-- Cancel every uncommitted change of a partition that `f` picks. -/
def cancelWhere (m : Mod) (p : Nat) (f : Staged → Bool) : Mod :=
  match partOf? m p with
  | some x => (x.staged.filter (fun t => !t.committed && f t)).foldl (fun m t => cancelStaged m p t) m
  | none => m

/-! ### MODULE_LIMITS (R395) -/

/-- The result buffer. -/
def limitsBytes (l : LimitsRun) : List Byte := l.results.flatMap (fun e => leBytes 1 e.1 ++ leBytes 7 0 ++ leBytes 8 e.2)

/-- Every partition has its outcome: write the buffer and complete. -/
def finishLimits (m : Mod) (l : LimitsRun) : Mod :=
  let bits := (List.range l.results.length).foldl (fun a p => a + (if (l.results.getD p (1, 0)).1 = 0 then 2 ^ p else 0)) 0
  let m1 := { m with limits := none }
  if l.config then completeS m1 l.ring l.cid .ok
  else
    let k := compl l.cid .ok
    complete (bufWrite m1 l.ring l.cid l.addr (limitsBytes l)) l.ring { k with result0 := bits }

/-- Stage the caps on the next partition; a number not in use has its result at once. -/
def limitsGo : Nat → Mod → Mod
  | 0, m => m
  | n + 1, m =>
    match m.limits with
    | none => m
    | some l =>
      let p := l.results.length
      if 16 ≤ p then finishLimits m l
      else match partOf? m p with
        | none => limitsGo n (noteLimits m 3 0)
        | some x => if x.staged.any isModeKind then m else stageChange m p (.limits l.modes l.cclk l.power) none

/-- Staged changes of a partition move on. -/
def stageWork (m : Mod) (p : Nat) : Mod := limitsGo 17 (settleStaged m p)

/-- Caps within their ranges (R395). -/
def capsOk (cclk power : Nat) : Bool := 400 ≤ cclk && cclk ≤ 1200 && cclk % 100 == 0 && 50 ≤ power && power ≤ 300

/-- The modes in force of every partition are allowed (R395). -/
def modesFit (m : Mod) (modes : BitVec 4) : Bool := m.parts.all (fun px => bit modes (modeNo px.2.mode))
where
  /-- Code of a mode (R389). -/
  modeNo : Mode → Nat
    | .latency => 0
    | .throughput => 1
    | .efficiency => 2
    | .fidelity => 3

/-- Code of a mode (R389). -/
def modeCode (md : Mode) : Nat := modesFit.modeNo md

/-- Begin staging module limits on each partition in turn. -/
def beginLimits (m : Mod) (r : RingRef) (cid : BitVec 16) (addr : Nat) (modes : BitVec 4) (cclk power : Nat) (config : Bool) : Mod :=
  limitsGo 17 { m with
    limitModes := modes, limitCclk := cclk, limitPower := power,
    limits := some { ring := r, cid := cid, addr := addr, modes := modes, cclk := cclk, power := power, results := [],
                     config := config } }

/-- MODULE_LIMITS. -/
def runModuleLimits (m : Mod) (r : RingRef) (c : Cmd) : Mod :=
  let e := c.entry
  let modes := BitVec.ofNat 4 (argN e 0 1)
  let cclk := argN e 2 2
  let power := argN e 4 2
  if !entryClean e false true false [(0, 4), (16, 16), (32, 16)] || !capsOk cclk power then completeS m r e.cid .badDescriptor
  else if e.len0.toNat < 256 then
    let k := compl e.cid .refusedResources
    complete m r { k with result1 := 256 }
  else onAdmin m r c (fun _ =>
    if m.limits.isSome then waitCmd m r c
    else if !modesFit m modes then completeS m r e.cid .notPermitted
    else beginLimits (runningCmd m r c) r e.cid e.addr0.toNat modes cclk power false)

/-! ### MODE_SET (R391) -/

/-- The mode of a code. -/
def modeOf (n : Nat) : Mode :=
  match n with
  | 0 => .latency
  | 1 => .throughput
  | 2 => .efficiency
  | _ => .fidelity

/-- An earlier mode or limit change of the partition has no outcome yet (R391). -/
def modeWaits (m : Mod) (p : Nat) (x : Part) (c : Cmd) : Bool :=
  x.staged.any isModeKind || m.limits.any (fun l => decide (l.results.length ≤ p))
    || (partCmds x).any (fun d => d.entry.opcode == 0x18 && d.phase == .waiting && decide (d.fetchNo < c.fetchNo))
    || m.hosts.any (fun h => h.admin.cmds.any (fun d => d.entry.opcode == 0x44 && d.phase == .waiting && decide (d.fetchNo < c.fetchNo)))

/-- MODE_SET. -/
def runModeSet (m : Mod) (r : RingRef) (c : Cmd) : Mod :=
  let e := c.entry
  let n := argN e 0 1
  if !entryClean e false false false [(0, 8)] || 3 < n then completeS m r e.cid .badDescriptor
  else onPart m r c (fun p x =>
    let k := compl e.cid .ok
    if modeWaits m p x c then waitCmd m r c
    else if modeCode x.mode = n then complete m r { k with result1 := x.beatCount }
    else if !bit (configModes x.config) n || !bit x.modesCap n then completeS m r e.cid .notPermitted
    else if x.repair.isSome then completeS m r e.cid .aborted
    else stageWork (stageChange (runningCmd m r c) p (.mode (modeOf n)) (some (r, e.cid))) p)

/-! ### Acknowledgements -/

/-- The staged change raises VCORE in a region: the voltage reached before the acknowledgement (R392, R413). -/
def raiseVcore (m : Mod) (r : Nat) (x : Part) (st : Staged) : Mod :=
  let want (f : Nat) (low : Bool) : Mod :=
    let v := vcoreMv (min f (regionAt m r).clock.ceilingMhz) low
    if coreUp m r then updPower m r (fun y => { y with setMv := max y.setMv v, minMv := max y.setMv v }) else m
  match st.kind with
  | .mode md => want (min (modeTarget x md) x.cclkCap) (lowPoint md)
  | .limits _ cclk _ => want (min (modeTarget x x.mode) cclk) (lowPoint x.mode)
  | _ => m

/-- `STAGE_ACK`: a region controller acknowledges the oldest change staged at it; one that restarts, or whose region is
evacuated or lost, does not (R394). -/
def doStageAck (p r : Nat) (m : Mod) : Mod :=
  match partOf? m p with
  | none => m
  | some x =>
    let y := regionAt m r
    if y.fwRestart || y.lost || y.evacuated then m
    else match x.staged.find? (fun t => t.waiting.contains r) with
      | none => m
      | some t =>
        let m1 := updPart (raiseVcore m r x t) p (fun z => { z with staged := z.staged.map (fun u =>
          if u = t then { u with waiting := u.waiting.filter (fun q => q != r) } else u) })
        kick (stageWork m1 p) p

/-- `STAGE_TIMEOUT`: the oldest change without every acknowledgement is cancelled (R393). -/
def doStageTimeout (p : Nat) (m : Mod) : Mod :=
  match partOf? m p with
  | none => m
  | some x => match x.staged.find? (fun t => !t.committed) with
    | some t => stageWork (cancelStaged m p t) p
    | none => m

/-! ### Ownership checks (R405) -/

/-- The state of a partition's checks once everything staged has taken effect. -/
def ownCheckDue (x : Part) : Bool :=
  x.staged.foldl (fun a t => match t.kind with
    | .ownCheck off => off
    | _ => a) x.ownCheckOff

/-- Set `SEC.OWN_CHECK`: every partition whose checks change stages the change. -/
def setOwnCheck (v : BitVec 16) (m : Mod) : Mod :=
  let m1 := { m with sec := { m.sec with ownCheckDisable := v } }
  forAll m1 (partIds m1) (fun m p => match partOf? m p with
    | some x => if ownCheckDue x = bit v p then m else stageWork (stageChange m p (.ownCheck (bit v p)) none) p
    | none => m)

/-- `OWN_CHECK_WRITE`: accepted while `ISOLATION_LOCK` is unblown and `DEBUG_LEVEL` is at most 1. -/
def doOwnCheck (fz : Fuses) (v : BitVec 16) (m : Mod) : Mod :=
  if fz.isolationLock ∨ 1 < fz.debugLevel then m else setOwnCheck v m

/-! ### The commands -/

/-- `MODE_SET`. -/
def execModeSet (r : RingRef) (e : SqEntry) (h : HostSide) (s : State) : Host.Outcome State Fault Refusal :=
  lift (takeCmd r e h 0x18 runModeSet) s
/-- `MODULE_LIMITS`. -/
def execModuleLimits (r : RingRef) (e : SqEntry) (h : HostSide) (s : State) : Host.Outcome State Fault Refusal :=
  lift (takeCmd r e h 0x44 runModuleLimits) s
/-- `STAGE_ACK`. -/
def execStageAck (p : PartId) (region : RegionId) (s : State) : Host.Outcome State Fault Refusal :=
  lift (doStageAck p.val region.val) s
/-- `STAGE_TIMEOUT`. -/
def execStageTimeout (p : PartId) (s : State) : Host.Outcome State Fault Refusal := lift (doStageTimeout p.val) s
/-- `OWN_CHECK_WRITE`. -/
def execOwnCheckWrite (disable : BitVec 16) (s : State) : Host.Outcome State Fault Refusal :=
  lift (doOwnCheck s.fuses disable) s

end Sys2Proof.Machine
end

