-- ==== Sys2Proof/Machine/Control.lean ====
section
/-! DEFINITION. QUERY, frame control, ABORT (06 R209-R213; 09 R303-R312). -/
namespace Sys2Proof.Machine
open Sys2Proof

/-! ### Frames (R209-R213) -/

/-- Code of a frame state (R213). -/
def frameCode : FrameState → Nat
  | .idle => 0
  | .run => 1
  | .holdPending => 2
  | .held => 3
  | .faulted => 4

/-- Frames of a partition; without a plan frame 0 alone. -/
def frameCount (x : Part) : Nat := match x.plan with
  | some pl => pl.parents.length
  | none => 1

/-- The sites of a frame's members. -/
def frameSites (x : Part) (f : Nat) : List Nat :=
  match x.plan with
  | some pl => (List.range pl.sites.length).filterMap (fun v =>
      if f = 0 ∨ underFrame pl.parents f pl.parents.length (pl.coreFrame.getD v 0) then pl.sites[v]? else none)
  | none => []

/-- A frame status record (R213). -/
def frameRecord (m : Mod) (p : Nat) (x : Part) (f : Nat) : List Byte :=
  let ss := frameSites x f
  let bad := (ss.filter (fun s => (siteOf m s).core.fault.isSome)).length
  let mine : Bool := f == 0 || ss.contains x.firstSite
  leBytes 2 f
    ++ leBytes 1 (frameCode x.frame0 + 8 * b2n (x.frameHolds.contains f) + 16 * b2n (x.frameHolds.any (fun g => g != f)))
    ++ leBytes 1 p ++ leBytes 2 ss.length ++ leBytes 2 bad ++ leBytes 8 x.beatCount ++ leBytes 8 x.stepCount
    ++ leBytes 2 (if mine then x.firstSite else 0xFFFF) ++ leBytes 1 (if mine then x.firstCode else 0) ++ leBytes 1 0
    ++ leBytes 4 x.frameHolds.length

/-! ### QUERY (R145, R305-R307, R337) -/

/-- Partition summary (R306). -/
def summaryRecord (p : Nat) (x : Part) : List Byte :=
  leBytes 1 p ++ leBytes 1 (modeCode x.mode) ++ leBytes 1 (frameCode x.frame0 + 8 * b2n x.holdHost + 16 * b2n x.plan.isSome)
    ++ leBytes 1 x.bucket ++ leBytes 4 x.seqs.length ++ leBytes 4 (x.seqs.filter (fun q => q.hold)).length
    ++ leBytes 4 (pageSlots x) ++ leBytes 4 (pageSlots x - x.pages.length) ++ leBytes 4 0 ++ leBytes 8 x.stepCount

/-- Configuration record and digest. -/
def configRecord (x : Part) : List Byte := leBytes 128 x.config.toNat ++ digestBytes x.digest

/-- Sequence record (R307). -/
def seqRecord (q : Seq) : List Byte :=
  leBytes 4 q.handle.toNat ++ leBytes 1 (seqCode q.state)
    ++ leBytes 1 (b2n q.hold + 2 * q.bind + 8 * b2n (q.storePages != 0)) ++ leBytes 1 q.cls ++ leBytes 1 0
    ++ leBytes 4 q.length ++ leBytes 4 q.posOffset ++ leBytes 4 (residents q).length ++ leBytes 4 (storedLeaves q)
    ++ leBytes 2 (q.adapter.getD 0xFFFF) ++ leBytes 2 q.version ++ leBytes 4 q.pending.length

/-- Layer state record (R145). -/
def layerRecord (x : Part) (e : Nat × LayerSt) : List Byte :=
  let l := e.2
  let top := ((layerEntry x e.1).map (fun t => t.maxLevel)).getD 0
  let since := x.stepCount - l.changeStep
  leBytes 2 e.1 ++ leBytes 1 (l.level + 8 * top + 64 * b2n l.capped + 128 * b2n l.pending) ++ leBytes 1 (l.streak % 16)
    ++ leBytes 4 (if l.level = 3 then sat32 since else l.clean) ++ leBytes 4 l.lastScore ++ leBytes 2 (sat16 since)
    ++ leBytes 2 l.nonfinite

/-- Order of adapter versions. -/
def versionLe (a b : Adapter) : Bool := a.id < b.id || (a.id == b.id && a.version ≤ b.version)
/-- Insert a version in order. -/
def insertVersion (a : Adapter) : List Adapter → List Adapter
  | [] => [a]
  | b :: bs => if versionLe a b then a :: b :: bs else b :: insertVersion a bs

/-- Adapter version record (R337). -/
def versionRecord (x : Part) (a : Adapter) : List Byte :=
  leBytes 2 a.id ++ leBytes 2 a.version ++ leBytes 1 (b2n (newestVersion x a.id == some a.version) + 2 * b2n a.retiring)
    ++ leBytes 3 0 ++ leBytes 4 (versionRefs x a) ++ leBytes 4 a.blocks.length

/-- The records of a selector from `i` on (R305); none for a selector that does not exist. -/
def queryRecords (m : Mod) (p : Nat) (x : Part) (sel i : Nat) : Option (List (List Byte)) :=
  match sel with
  | 1 => some ([summaryRecord p x].drop i)
  | 2 => some ([configRecord x].drop i)
  | 3 => some ((x.seqs.filter (fun q => i ≤ hSlot q.handle)).map seqRecord)
  | 4 => some (((x.seqs.filter (fun q => q.hold)).drop i).map seqRecord)
  | 5 => some ((x.layers.filter (fun l => i ≤ l.1)).map (layerRecord x))
  | 6 => some ((List.range (frameCount x - i)).map (fun k => frameRecord m p x (i + k)))
  | 7 => some ((((x.adapters.filter (fun a => !a.loading)).foldl (fun l a => insertVersion a l) []).drop i).map (versionRecord x))
  | 8 => some ((if x.refusal.isEmpty then [] else [x.refusal]).drop i)
  | _ => none

/-- Answer a QUERY: as many records as `COUNT` and the buffer allow. -/
def answerQuery (m : Mod) (r : RingRef) (c : Cmd) (rs : List (List Byte)) : Mod :=
  let e := c.entry
  let size := max 1 ((rs.headD []).length)
  let out := rs.take (min (argN e 8 4) (e.len0.toNat / size))
  let k := compl e.cid .ok
  complete (if out.isEmpty then m else bufWrite m r e.cid e.addr0.toNat out.flatten) r
    { k with result0 := out.length, result1 := rs.length }

/-- QUERY. -/
def runQuery (m : Mod) (r : RingRef) (c : Cmd) : Mod :=
  let e := c.entry
  let sel := argN e 0 1
  let i := argN e 4 4
  match r with
  | .part p _ =>
    if !entryClean e false true false [(0, 8), (32, 32), (64, 32)] then completeS m r e.cid .badDescriptor
    else match (partOf? m p.val).bind (fun x => queryRecords m p.val x sel i) with
      | some rs => answerQuery m r c rs
      | none => completeS m r e.cid .notFound
  | .admin _ =>
    let p := argN e 12 1
    if !entryClean e false true false [(0, 8), (32, 32), (64, 32), (96, 4)] then completeS m r e.cid .badDescriptor
    else if sel ≠ 1 ∧ sel ≠ 2 ∧ sel ≠ 6 then completeS m r e.cid .notFound
    else match (partOf? m p).bind (fun x => queryRecords m p x sel i) with
      | some rs => answerQuery m r c rs
      | none => completeS m r e.cid .notFound

/-! ### FRAME_CONTROL (R210, R211) -/

/-- A hold or its release acts now: the partition stands at a boundary, or no beat of it can end. -/
def actsNow (m : Mod) (x : Part) : Bool := x.repair.isNone && (atBoundary m x || x.frame0 == .faulted)

/-- Complete with the beat count at which a partition stands. -/
def completeBeat (m : Mod) (r : RingRef) (c : Cmd) (p : Nat) : Mod :=
  let k := compl c.entry.cid .ok
  complete m r { k with result1 := ((partOf? m p).map (fun x => x.beatCount)).getD 0 }

/-- Clear the fault summary, kept until a resume (R211). -/
def clearSummary (x : Part) : Part := if x.frame0 = .faulted then x else { x with firstSite := 0xFFFF, firstCode := 0 }

/-- Common checks of FRAME_CONTROL; `a` is the action of the row. -/
def frameCmd (a : Nat) (m : Mod) (r : RingRef) (c : Cmd) (f : Nat → Part → Nat → Mod) : Mod :=
  let e := c.entry
  if argN e 0 1 ≤ 2 ∧ argN e 0 1 ≠ a then m
  else if !entryClean e false false false [(0, 8), (16, 16)] || 2 < argN e 0 1 then completeS m r e.cid .badDescriptor
  else onPart m r c (fun p x => if frameCount x ≤ argN e 2 2 then completeS m r e.cid .notFound else f p x (argN e 2 2))

/-- START. -/
def runFrameStart (m : Mod) (r : RingRef) (c : Cmd) : Mod :=
  frameCmd 0 m r c (fun p x fr =>
    if fr ≠ 0 ∨ x.frame0 ≠ .idle ∨ x.plan.isNone then completeS m r c.entry.cid .notPermitted
    else
      let m1 := markCores (updPart m p (fun y => { y with frame0 := .run })) p .run
      kick (completeBeat (settleHold m1 p) r c p) p)

/-- HOLD. -/
def runFrameHold (m : Mod) (r : RingRef) (c : Cmd) : Mod :=
  frameCmd 1 m r c (fun p x fr =>
    let m1 := settleHold (updPart m p (fun y => { y with
      frameHolds := if y.frameHolds.contains fr then y.frameHolds else y.frameHolds ++ [fr] })) p
    if actsNow m x then completeBeat m1 r c p else waitCmd m1 r c)

/-- RESUME. -/
def runFrameResume (m : Mod) (r : RingRef) (c : Cmd) : Mod :=
  frameCmd 2 m r c (fun p x fr =>
    if x.frame0 = .faulted ∧ (x.faultPlan ∨ x.faultLink) then completeS m r c.entry.cid .notPermitted
    else if actsNow m x then
      let m1 := updPart m p (fun y => clearSummary { y with frameHolds := y.frameHolds.filter (fun g => g != fr) })
      kick (completeBeat (settleHold m1 p) r c p) p
    else waitCmd m r c)

/-! ### ABORT (R310-R312) -/

/-- The ABORTED completion of a command that has committed nothing, a SEQ_GENERATE with its stop reason (R304). -/
def abortedCompl (t : Cmd) : Completion := { (compl t.entry.cid .aborted) with detail := if t.entry.opcode = 0x03 then 3 else 0 }

/-- Complete an aborted sequence command: what was committed is reported. -/
def abortSeqCmd (m : Mod) (p : Nat) (tr : RingRef) (t : Cmd) : Mod :=
  let h := t.entry.handle
  match (partOf? m p).bind (fun x => seqOf? x h) with
  | some q => complete (updSeq m p h (fun s => settleSeq (unqueue s (tr, t.entry.cid)))) tr
      (runResult t q .aborted 3)
  | none => complete m tr (abortedCompl t)

/-- Stop a running SEQ_PARK: the sequence returns to its state before (R284). -/
def abortPark (m : Mod) (p : Nat) (tr : RingRef) (t : Cmd) : Mod :=
  let k := compl t.entry.cid .aborted
  complete (updSeq m p t.entry.handle (fun q => { q with state := beforePark q, pausedBefore := false })) tr
    { k with handle := t.entry.handle, result0 := t.done }

/-- The pages of an unparking sequence go back to their store copies; a page without one stays resident. -/
def backToStore (x : Part) (q : Seq) : Part :=
  let gone := (List.range q.leaves.length).filterMap (fun i => if (copyOf x q i).isSome then residentPage q i else none)
  let x1 := gone.foldl dropRef (keepSnaps x q.handle gone)
  putSeq x1 { q with
    state := .parked,
    leaves := (List.range q.leaves.length).map (fun i => match copyOf x q i with
      | some c => .stored c
      | none => q.leaves.getD i .empty) }

/-- Stop a running SEQ_UNPARK: the sequence returns to PARKED or LOST (R284). -/
def abortUnpark (m : Mod) (p : Nat) (tr : RingRef) (t : Cmd) : Mod :=
  let h := t.entry.handle
  let k := compl t.entry.cid .aborted
  complete (writeTables (updPart m p (fun x =>
    let x1 : Part := { x with
      reserved := x.reserved.filter (fun e => e.1 != h), storeReads := x.storeReads.filter (fun e => e.handle != h) }
    match seqOf? x1 h with
    | some q => if q.wasLost then putSeq x1 { q with state := .lost } else backToStore x1 q
    | none => x1)) p) tr { k with handle := h, result0 := t.done }

/-- Stop a flushing SEQ_SNAPSHOT. -/
def abortSnap (m : Mod) (p : Nat) (tr : RingRef) (t : Cmd) : Mod :=
  let k := compl t.entry.cid .aborted
  complete (updPart m p (fun x => (x.snaps.filter (fun s => s.ring = tr && s.cid = t.entry.cid)).foldl (fun y s => endSnap s y) x)) tr
    { k with handle := t.entry.handle, result0 := t.done }

/-- What an ABORT does with its target now: wait for the boundary, answer that the outcome is fixed, or stop it. -/
inductive AbortOut where
  | wait
  | fixed
  | stop (m : Mod)

/-- A target waits for a boundary at which it acts, and not behind other commands (R312). -/
def atItsTurn (m : Mod) (tr : RingRef) (t : Cmd) : Bool := t.phase == .waiting && !orderedWaits (pairOf m tr) t

/-- The step boundary at which a waiting command of a sequence acts is the next one. -/
def boundaryDue (m : Mod) (x : Part) (tr : RingRef) (t : Cmd) : Bool :=
  x.inStep && !planStopped x && !earlierWaits x t && atItsTurn m tr t

/-- Decide an ABORT (R311, R312). -/
def abortTarget (m : Mod) (p : Nat) (x : Part) (tr : RingRef) (t : Cmd) : AbortOut :=
  match t.entry.opcode.toNat with
  | 2 | 3 =>
    if t.phase = .running ∧ (x.seqs.any (fun q => q.handle = t.entry.handle && q.pending.head? == some (tr, t.entry.cid)))
        ∧ (memberNow x t.entry.handle).isSome then .wait
    else .stop (abortSeqCmd m p tr t)
  | 6 => .stop (if t.phase = .running then abortPark m p tr t else abortSeqCmd m p tr t)
  | 7 => .stop (if t.phase = .running then abortUnpark m p tr t else abortSeqCmd m p tr t)
  | 0x0B => .stop (if t.phase = .running then abortSnap m p tr t else abortSeqCmd m p tr t)
  | 4 | 5 | 8 | 9 | 0x0A => if boundaryDue m x tr t then .wait else .stop (abortSeqCmd m p tr t)
  | 0x18 => match x.staged.find? (fun s => s.cmd == some (tr, t.entry.cid)) with
    | some s => if s.committed then .fixed else .stop (stageWork (cancelStaged m p s) p)
    | none => .stop (completeS m tr t.entry.cid .aborted)
  | 0x1A => if atItsTurn m tr t then .wait else .stop (completeS m tr t.entry.cid .aborted)
  | 0x20 => .stop (if x.load.any (fun l => l.ring = tr && l.cid = t.entry.cid) then abortLoad m p else completeS m tr t.entry.cid .aborted)
  | _ => .fixed

/-- ABORT. -/
def runAbort (m : Mod) (r : RingRef) (c : Cmd) : Mod :=
  let e := c.entry
  let tr := targetRing r (argN e 0 1)
  let tcid : BitVec 16 := BitVec.ofNat 16 (argN e 2 2)
  let waited : Bool := c.phase == .waiting
  if !entryClean e false false false [(0, 6), (16, 16)] then completeS m r e.cid .badDescriptor
  else match cmdOf? m tr tcid with
    | none => completeS m r e.cid (if waited then .alreadyComplete else .notFound)
    | some t =>
      if t.entry.opcode = 0x1F then completeS m r e.cid .notPermitted
      else if t.phase = .completed then completeS m r e.cid .alreadyComplete
      else match r with
        | .admin _ => completeS m r e.cid .alreadyComplete
        | .part p _ => match partOf? m p.val with
          | none => m
          | some x => match abortTarget m p.val x tr t with
            | .wait => waitCmd (updCmd (closeGates m p.val) tr tcid (fun d => { d with abortBy := some (r, e.cid) })) r c
            | .fixed => completeS m r e.cid .alreadyComplete
            | .stop m1 => if x.repair.isSome then waitCmd (closeGates m p.val) r c else kick (completeS m1 r e.cid .ok) p.val

/-! ### The commands -/

/-- `QUERY`. -/
def execQuery (r : RingRef) (e : SqEntry) (h : HostSide) (s : State) : Host.Outcome State Fault Refusal :=
  lift (takeCmd r e h 0x19 runQuery) s
/-- `FRAME_START`. -/
def execFrameStart (r : RingRef) (e : SqEntry) (h : HostSide) (s : State) : Host.Outcome State Fault Refusal :=
  lift (takeCmd r e h 0x1A runFrameStart) s
/-- `FRAME_HOLD`. -/
def execFrameHold (r : RingRef) (e : SqEntry) (h : HostSide) (s : State) : Host.Outcome State Fault Refusal :=
  lift (takeCmd r e h 0x1A runFrameHold) s
/-- `FRAME_RESUME`. -/
def execFrameResume (r : RingRef) (e : SqEntry) (h : HostSide) (s : State) : Host.Outcome State Fault Refusal :=
  lift (takeCmd r e h 0x1A runFrameResume) s
/-- `ABORT`. -/
def execAbort (r : RingRef) (e : SqEntry) (h : HostSide) (s : State) : Host.Outcome State Fault Refusal :=
  lift (takeCmd r e h 0x1F runAbort) s

end Sys2Proof.Machine
end

