-- ==== Sys2Proof/Machine/Sessions.lean ====
section
/-! DEFINITION. Sessions, ring pair set-up, host loss, UCIe links (09_host_rings_and_commands.md R287-R296, R313-R317). -/
namespace Sys2Proof.Machine
open Sys2Proof

/-! ### Stopping commands -/

/-- Take a sequence out of the step in progress: the member runs on as an empty entry. -/
def evictMember (x : Part) (h : BitVec 32) : Part :=
  match memberNow x h with
  | some b =>
    let x1 := dropMember x b
    { x1 with batch := x1.batch.map (fun d => if d.handle = h && d.valid then { d with valid := false, new := 0, newPages := [], cow := none } else d) }
  | none => x

/-- End with ABORTED a command that is past its commit point, at a resumption without its buffers (R316): its effect, where it
still has one to come, is no longer announced, and an adapter version that is loading goes. A retirement whose DEFERRED was
written keeps the completion that follows (R301; log entry 97). -/
def abandonCmd (m : Mod) (p : Nat) (tr : RingRef) (t : Cmd) : Mod :=
  let mine (c : Option (RingRef × BitVec 16)) : Bool := c == some (tr, t.entry.cid)
  if t.entry.opcode = 0x11 ∧ t.done = 1 then m
  else completeS (updPart m p (fun x => { x with
    staged := x.staged.map (fun s => if mine s.cmd then { s with cmd := none } else s),
    adapters := (x.adapters.filter (fun a => !(a.loading && mine a.cmd))).map (fun a => if mine a.cmd then { a with cmd := none } else a) }))
    tr t.entry.cid .aborted

/-- Stop a command as an ABORT does; one that takes part in the step in progress leaves it. -/
def stopNow (m : Mod) (p : Nat) (tr : RingRef) (t : Cmd) : Mod :=
  match partOf? m p with
  | none => m
  | some x => match abortTarget m p x tr t with
    | .stop m1 => m1
    | .wait => abortSeqCmd (if t.entry.opcode.toNat = 2 ∨ t.entry.opcode.toNat = 3 then updPart m p (fun y => evictMember y t.entry.handle) else m)
        p tr t
    | .fixed => abandonCmd m p tr t

/-- Stop a command as an ABORT decoded now does: at once, or at the next boundary (R311, R319). -/
def stopSoon (m : Mod) (p : Nat) (tr : RingRef) (t : Cmd) : Mod :=
  match partOf? m p with
  | none => m
  | some x => match abortTarget m p x tr t with
    | .stop m1 => m1
    | .wait => updCmd m tr t.entry.cid (fun d => { d with abortBy := some (tr, t.entry.cid) })
    | .fixed => m

/-- The commands of a pair that have not completed. -/
def liveCmds (p : Pair) : List Cmd := p.cmds.filter (fun c => !(c.phase = .completed))

/-! ### Enabling and disabling pairs (R293-R295, R316, R319) -/

/-- Reserve units of the pairs of a host site, but for one pair (R295). -/
def unitsUsed (m : Mod) (h : Nat) (r : RingRef) : Nat :=
  let parts := m.parts.foldl (fun a px =>
    if partHost px.2 = h then
      px.2.pairs.foldl (fun b q => if r != ringOf px.1 q.1 then b + q.2.reserve else b) a
    else a) 0
  let a := (hostOf m h).admin
  let own : Bool := match r with
    | .admin _ => true
    | .part _ _ => false
  parts + (if own then 0 else a.reserve)

/-- The pair may be enabled now: an admin pair, or a partition pair in ACTIVE or REATTACH (R293). -/
def mayEnable (m : Mod) (r : RingRef) : Bool :=
  match r with
  | .admin _ => true
  | .part p _ => (partOf? m p.val).any (fun x => x.session == .active || x.session == .reattach)

/-- A pair in service from index 0; a STALE pair keeps its commands and held output (R295, R316). -/
def startPair (p : Pair) : Pair :=
  let stale : Bool := p.state == .stale
  let q : Pair := { p with
    enable := true, state := .active, cqFull := false, error := 0, sqHead := 0, cqTail := 0, phase := true, sqTail := 0, cqHead := 0,
    posted := [], unannounced := 0, oldest := 0, sentWrites := [], sentCompls := [], reserve := p.units }
  if !stale && p.cmds.any (fun c => c.abortBy.isSome) then
    { q with cmds := p.cmds.filter (fun c => c.abortBy.isSome), outbox := [], heldWrites := [] }
  else if stale then { q with cmds := q.cmds.filter (fun c => !(c.phase = .completed) || q.outbox.any (fun o => o.cid = c.entry.cid)) }
  else { q with cmds := [], outbox := [], heldWrites := [] }

/-- `RP_ENABLE`. -/
def doRpEnable (r : RingRef) (m : Mod) : Mod :=
  let p := pairOf m r
  if p.enable || !mayEnable m r then m
  else
    let on := updPair m r (fun q => { q with enable := true })
    if !(6 ≤ p.sqLog2 && p.sqLog2 ≤ 16 && 6 ≤ p.cqLog2 && p.cqLog2 ≤ 16 && 1 ≤ p.units && p.units ≤ 16) then pairError on r 5
    else if 1024 < unitsUsed m (ringHost m r) r + p.units then pairError on r 4
    else updPair m r startPair

/-- `RP_DISABLE`: commands stop as under ABORT, completions are discarded (R319). -/
def doRpDisable (r : RingRef) (m : Mod) : Mod :=
  let p := pairOf m r
  if !p.enable then m
  else
    let left := liveCmds p
    let m1 := updPair m r (fun q => { q with
      enable := false, outbox := [], heldWrites := [], posted := [], cqFull := false, cmds := left,
      sentWrites := [], sentCompls := [],
      state := if left.isEmpty then .off else q.state, reserve := if left.isEmpty then 0 else q.reserve })
    match r with
    | .admin _ => m1
    | .part n _ => left.foldl (fun m c => stopSoon m n.val r c) m1

/-! ### Sessions (R293) -/

/-- `ATTACH`. -/
def doAttach (h p : Nat) (m : Mod) : Mod :=
  match partOf? m p with
  | none => m
  | some x =>
    if partHost x ≠ h then m
    else match x.session with
      | .idle =>
        if x.cookieReg = 0 then updPart m p (fun y => { y with cookieBad := true })
        else updPart m p (fun y => { y with session := .active, cookie := y.cookieReg, cookieBad := false })
      | .lost =>
        if x.cookieReg = x.cookie then updPart m p (fun y => { y with session := .reattach, cookieBad := false })
        else updPart m p (fun y => { y with cookieBad := true })
      | _ => m

/-- `DETACH`. -/
def doDetach (h p : Nat) (m : Mod) : Mod :=
  match partOf? m p with
  | none => m
  | some x =>
    if partHost x = h ∧ x.session = .active ∧ x.pairs.all (fun q => !q.2.enable) then
      updPart m p (fun y => { y with session := .idle, cookie := 0 })
    else m

/-! ### RESUME (R316) -/

/-- Write the held writes of a pair; a rejected one turns its command's completion into BAD_DESCRIPTOR. -/
def writeHeld (m : Mod) (r : RingRef) : Mod :=
  (pairOf m r).heldWrites.foldl (fun m w =>
    if rejected (hostOf m (ringHost m r)) w.1 w.2.1.length then
      updPair m r (fun q => { q with
        cmds := q.cmds.map (fun c => if c.entry.cid = w.2.2 then { c with bad := true } else c),
        outbox := q.outbox.map (fun o => if o.cid = w.2.2 then { o with status := .badDescriptor } else o) })
    else updHost m (ringHost m r) (fun y => hostWrite y w.1 w.2.1)) (updPair m r (fun q => { q with heldWrites := [] }))

/-- The commands of a pair that are outstanding at a resumption: without a completion, or with one that is held (R316). -/
def openCmds (p : Pair) : List Cmd := p.cmds.filter (fun c => !(c.phase = .completed) || p.outbox.any (fun o => o.cid = c.entry.cid))

/-- A held completion that is discarded with its pair's buffers: the command completes ABORTED, what it committed reported
(R304, R316). A later completion of a retirement stays as it is (R301). -/
def abortHeld (cmds : List Cmd) (o : Completion) : Completion :=
  if o.final then o
  else { o with status := .aborted, detail := if cmds.any (fun c => c.entry.cid = o.cid && c.entry.opcode = 0x03) then 3 else 0 }

/-- A retirement whose DEFERRED was held completes ABORTED and no more. -/
def forgetDeferred (m : Mod) (p : Nat) (r : RingRef) (old : Pair) : Mod :=
  let held (cid : BitVec 16) : Bool := old.outbox.any (fun o => o.cid = cid && o.status == .deferred)
  let m1 := updPart m p (fun x => { x with adapters := x.adapters.map (fun a =>
    if a.cmd.any (fun c => c.1 == r && held c.2) then { a with cmd := none } else a) })
  updPair m1 r (fun q => { q with cmds := q.cmds.map (fun c => if held c.entry.cid then { c with phase := .completed } else c) })

/-- A re-registered pair without its buffers: held output is discarded, every outstanding command completes ABORTED; a command
stays known until that completion is consumed (R297, R316). -/
def dropHeld (m : Mod) (p : Nat) (r : RingRef) : Mod :=
  let old := pairOf m r
  let m1 := forgetDeferred (updPair m r (fun q => { q with heldWrites := [], outbox := [] })) p r old
  let m2 := (liveCmds (pairOf m1 r)).foldl (fun m c => stopNow m p r c) m1
  old.outbox.foldl (fun m o => pushCompl m r (abortHeld old.cmds o)) m2

/-- A pair still STALE: its commands are aborted, their completions discarded and counted. -/
def abandonPair (m : Mod) (p : Nat) (r : RingRef) : Mod :=
  let old := pairOf m r
  let m1 := (liveCmds old).foldl (fun m c => stopNow m p r c) m
  updPart (updPair m1 r (fun q => { q with
      state := .off, reserve := 0, heldWrites := [], outbox := [], sentWrites := [], sentCompls := [], cmds := [], posted := [] })) p
    (fun x => { x with
      abandoned := sat32 (x.abandoned + (openCmds old).length),
      adapters := x.adapters.map (fun a => if a.cmd.any (fun c => c.1 == r) then { a with cmd := none } else a) })

/-- Resume one pair. -/
def resumePair (p : Nat) (m : Mod) (q : Nat) : Mod :=
  let r := ringOf p q
  match (pairOf m r).state with
  | .active => if (pairOf m r).keepBuffers then writeHeld m r else dropHeld m p r
  | .stale => abandonPair m p r
  | _ => m

/-- Commands aborted at a resumption: those of pairs still STALE, and of pairs that keep no buffers (R317). -/
def abortedAt (x : Part) : Nat :=
  x.pairs.foldl (fun a q =>
    if q.2.state = .stale ∨ (q.2.state = .active ∧ ¬ q.2.keepBuffers) then a + (openCmds q.2).length else a) 0

/-- `RESUME`. -/
def doResume (h p : Nat) (side : HostSide) (m0 : Mod) : Mod :=
  let m := applySide m0 h side
  match partOf? m p with
  | none => m
  | some x =>
    if partHost x ≠ h ∨ x.session ≠ .reattach then m
    else
      let held := heldBytes x
      let m1 := forAll (updPart m p (fun y => { y with holdHost := false })) (x.pairs.map Prod.fst) (resumePair p)
      let lost := abortedAt x
      let m2 := settleHold (updPart m1 p (fun y => { y with session := .active })) p
      kick (post m2 0x0602 (some p) (lossPayload m2 h 0 [p] held lost)) p

/-! ### Host loss (R313-R317) -/

/-- A cause of host loss with the partitions it affects. -/
def hostLoss (m : Mod) (h cause : Nat) (ps : List Nat) : Mod :=
  let hit := ps.filter (fun p => (partOf? m p).any (fun x => partHost x == h && (x.session == .active || x.session == .reattach)))
  let m1 := updHost m h (fun y => { y with losses := sat32 (y.losses + 1), loss := y.loss ++ [(cause, hit, hit)] })
  postLosses (forAll m1 hit (fun m p =>
    settleHold (updPart m p (fun x => { x with holdHost := true, losses := sat32 (x.losses + 1) })) p))

/-- The banked registers of a host site after its loss or a reset of function 0 (R499): admin commands fetched run on,
their completions discarded; the event ring keeps its hold queue. -/
def bankReset (h : HostId) (m : Mod) : Mod :=
  updHost m h.val (fun y => { y with
    admin := { Pair.reset with
      cmds := (liveCmds y.admin).map (fun c => { c with abortBy := some (.admin h, c.entry.cid) }) },
    ring := { y.ring with enable := false, state := .off },
    msixTable := [], msixPending := [], hiLatch := [] })

/-- `HOST_LINK_DOWN`: the link leaves the active state, or the host resets it. -/
def doLinkLoss (h : HostId) (hot : Bool) (m : Mod) : Mod :=
  if (hostOf m h.val).linkUp then
    let m1 := hostFlag (updHost (bankReset h m) h.val (fun y => { y with
      linkUp := false, modulesUp := if hot then y.modulesUp else 0, rate := if hot then y.rate else 0 })) h.val 0
    hostLoss m1 h.val (if hot then 2 else 1) (partIds m1)
  else m

/-- `FUNCTION_LEVEL_RESET`: of function 0 the admin pair and event ring of the site are disabled. -/
def doFlr (h : HostId) (fn : Nat) (m : Mod) : Mod :=
  let m1 := hostFlag m h.val 5
  if fn = 0 then hostLoss (bankReset h m1) h.val 3 []
  else if (partOf? m1 (fn - 1)).any (fun x => partHost x == h.val) then hostLoss m1 h.val 3 [fn - 1]
  else m1

/-! ### UCIe (R288) -/

/-- `UCIE_RETRAIN`: an adapter event; the last module disabled takes the link down. -/
def doUcieRetrain (hs : HostId) (ev : UcieEvent) (m : Mod) : Mod :=
  let h := hs.val
  match ev with
  | .retrain => updHost m h (fun y => { y with retrains := sat32 (y.retrains + 1) })
  | .laneRepair k => hostFlag (updHost m h (fun y => { y with repaired := lupd y.repaired k.val (fun n => min 15 (n + 1)) })) h 2
  | .moduleDisable k =>
    let m1 := hostFlag (updHost m h (fun y => { y with
      disabled := setBit y.disabled k.val true, modulesUp := setBit y.modulesUp k.val false })) h 3
    if (hostOf m1 h).modulesUp = 0 then doLinkLoss hs false m1 else m1
  | .rateFallback => hostFlag (updHost m h (fun y => { y with rate := if y.rate = 2 then 1 else y.rate })) h 4
  | .replay n => updHost m h (fun y => { y with replays := sat32 (y.replays + n) })

/-- `UCIE_LINK_UP`: the link enters the active state on the modules trained. -/
def doUcieUp (h : Nat) (modules : BitVec 4) (gt32 : Bool) (m : Mod) : Mod :=
  let up := modules &&& ~~~(hostOf m h).disabled
  if up = 0 then m
  else hostFlag (updHost m h (fun y => { y with modulesUp := up, rate := if gt32 then 2 else 1, linkUp := true })) h 1

/-! ### The class table (R321, R388) -/

/-- `CLASS_TABLE_WRITE`: an entry takes effect when its `FTL_US` is written. -/
def doClassWrite (p cls : Nat) (ftl : BitVec 32) (m : Mod) : Mod :=
  updPart m p (fun x => { x with classes := lupd x.classes cls (fun c => { c with itlUs := c.itlNext, ftlUs := ftl.toNat }) })

/-! ### The commands -/

/-- `ATTACH`. -/
def execAttach (h : HostId) (p : PartId) (s : State) : Host.Outcome State Fault Refusal := lift (viaSite h.val (doAttach h.val p.val)) s
/-- `RESUME`. -/
def execResume (h : HostId) (p : PartId) (side : HostSide) (s : State) : Host.Outcome State Fault Refusal :=
  lift (viaSite h.val (doResume h.val p.val side)) s
/-- `DETACH`. -/
def execDetach (h : HostId) (p : PartId) (s : State) : Host.Outcome State Fault Refusal := lift (viaSite h.val (doDetach h.val p.val)) s
/-- `RP_ENABLE`. -/
def execRpEnable (r : RingRef) (s : State) : Host.Outcome State Fault Refusal := lift (viaRing r (doRpEnable r)) s
/-- `RP_DISABLE`. -/
def execRpDisable (r : RingRef) (s : State) : Host.Outcome State Fault Refusal := lift (viaRing r (doRpDisable r)) s
/-- `HOST_LINK_DOWN`. -/
def execHostLinkDown (h : HostId) (hotReset : Bool) (s : State) : Host.Outcome State Fault Refusal :=
  lift (doLinkLoss h hotReset) s
/-- `FUNCTION_LEVEL_RESET`. -/
def execFunctionLevelReset (h : HostId) (fn : Fin 17) (s : State) : Host.Outcome State Fault Refusal :=
  lift (doFlr h fn.val) s
/-- `UCIE_RETRAIN`. -/
def execUcieRetrain (h : HostId) (ev : UcieEvent) (s : State) : Host.Outcome State Fault Refusal := lift (doUcieRetrain h ev) s
/-- `UCIE_LINK_UP`. -/
def execUcieLinkUp (h : HostId) (modules : BitVec 4) (gt32 : Bool) (s : State) : Host.Outcome State Fault Refusal :=
  lift (doUcieUp h.val modules gt32) s
/-- `CLASS_TABLE_WRITE`. -/
def execClassTableWrite (p : PartId) (cls : Fin 8) (ftlUs : BitVec 32) (s : State) : Host.Outcome State Fault Refusal :=
  lift (doClassWrite p.val cls.val ftlUs) s

end Sys2Proof.Machine
end

