-- ==== Sys2Proof/Machine/Olix.lean ====
section
/-! DEFINITION. Olix links, their flits and messages, partners (11_olix_links_and_partners.md R350-R380). -/
namespace Sys2Proof.Machine
open Sys2Proof

/-! ### Groups and lanes (R353, R354) -/

/-- Links of a bond mode. -/
def bondLinks (bond : Nat) : Nat := 2 ^ bond
/-- Lanes of a link of a bond mode. -/
def lanesPer (bond : Nat) : Nat := 16 / bondLinks bond
/-- The lanes of link `k`. -/
def linkLanes (bond k : Nat) : BitVec 16 := BitVec.ofNat 16 (at_ (lanesPer bond * k) (lanesPer bond) 0xFFFF)
/-- Lanes in use. -/
def lanesUsed (x : Link) : Nat := (bitsOf x.mask).length

/-! ### Partners (R364, R365, R372) -/

/-- A node id is held: by the module itself or by a PRESENT partner. -/
def nodeHeld (m : Mod) (node : Nat) : Bool := node == m.nodeId || (partnerOf m node).isSome
/-- Change a partner entry. -/
def updPartner (m : Mod) (idx : Nat) (f : Partner → Partner) : Mod :=
  { m with partners := m.partners.map (fun q => if q.index = idx then f q else q) }
/-- The groups over which a set of links runs. -/
def linkGroups (links : BitVec 64) : List Nat := (List.range 16).filter (fun g => fld links (4 * g) 4 != 0)
/-- Partition number of the gateway's own service traffic: image lists (R365). -/
def gatewayPart : Nat := 16

/-- Read a partner's image list as service traffic: 1,280 bytes at local address 0 (R365). -/
def readImages (m : Mod) (q : Partner) : Mod :=
  match (linkGroups q.links).head? with
  | some g =>
    if bit q.caps 4 ∧ m.nodeId ≠ 0xFF then remoteAccess m g q.node q.moduleId false 2 0 18 [] gatewayPart none q.index 0 else m
  | none => m

/-- Reissue the kept requests that a partner now PRESENT answers (R372). -/
def reissueKept (m : Mod) (q : Partner) : Mod :=
  let mine (r : Request) : Bool :=
    r.kept && r.node == q.node && (r.moduleId == 0 || r.moduleId == q.moduleId) && fld q.links (4 * r.group) 4 != 0
  (m.requests.filter mine).foldl issueRequest { m with requests := m.requests.filter (fun r => !mine r) }

/-- Clear the PARTNER hold of partitions that keep no plan request (R372). -/
def releasePartnerHolds (m : Mod) (q : Partner) : Mod :=
  forAll m (partIds m) (fun m p => match partOf? m p with
    | some x =>
      if x.holdPartner ∧ ¬ m.requests.any (fun r => r.kept && r.part == p && r.cls == 0) then
        let m1 := settleHold (updPart m p (fun y => { y with holdPartner := false })) p
        post m1 0x0707 (some p) (olixPayload m1 ((linkGroups q.links).headD 0) 0 q.index q.node 0 0 p q.moduleId)
      else m
    | none => m)

/-- A partner has become PRESENT: `PARTNER_JOIN`, image list, kept requests. -/
def joinPartner (m : Mod) (g k : Nat) (q : Partner) : Mod :=
  let m1 := post (pgFlag m g 4) 0x0704 none (olixPayload m g k q.index q.node 0 0 0 q.moduleId)
  releasePartnerHolds (reissueKept (readImages m1 q) q) q

/-- The earliest CONFLICT entry of a node id that no one holds becomes PRESENT (R364). -/
def promoteNode (m : Mod) (node : Nat) : Mod :=
  if nodeHeld m node then m
  else
    let cs := m.partners.filter (fun q => q.node = node && q.state = .conflict)
    match cs.find? (fun q => cs.all (fun r => q.order ≤ r.order)) with
    | none => m
    | some q =>
      let q' := { q with state := .present, joined := m.time }
      joinPartner (updPartner m q.index (fun _ => q')) ((linkGroups q.links).headD 0) 0 q'

/-- The requests a partner leaves unanswered are kept (R372). -/
def keepFor (m : Mod) (q : Partner) : Mod :=
  let mine (r : Request) : Bool := !r.kept && r.node == q.node && r.moduleId == q.moduleId
  let dead := m.requests.filter mine
  let m1 := { m with
    requests := m.requests.filter (fun r => !mine r),
    outMsgs := m.outMsgs.filter (fun x => !(gDst x.header == q.node)) }
  dead.foldl keepRequest m1

/-- Free a partner entry with `PARTNER_LEAVE` (R364). -/
def removePartner (m : Mod) (idx cause : Nat) : Mod :=
  match m.partners.find? (fun q => q.index = idx) with
  | none => m
  | some q =>
    let gs := linkGroups q.links
    let m1 := { m with partners := m.partners.filter (fun r => r.index != idx) }
    let m2 := forAll m1 gs (fun m g => pgFlag (updGroup m g (fun y => { y with
      links := y.links.map (fun l => if l.partner = some idx then { l with partner := none } else l) })) g 4)
    let m3 := post m2 0x0705 none (olixPayload m2 (gs.headD 0) 0 idx q.node cause 0 0 q.moduleId)
    if q.state = .present then promoteNode (keepFor (forAll m3 (partIds m3) (dropWindow q.moduleId)) q) q.node else m3

/-! ### Links going up and down (R351, R358) -/

/-- The messages a link going down has not had acknowledged, and those that still wait for it. -/
def unsent (m : Mod) (g k : Nat) : List Message :=
  (linkAt m g k).sent.map Prod.snd ++ m.outMsgs.filter (fun x => x.group = g && x.link = k && x.cls != 3)

/-- Send a message of a dead link over another link of the group that reaches the same partner; a request that finds none
is kept, an answer that finds none is lost with its partner. -/
def resend (g : Nat) (m : Mod) (x : Message) : Mod :=
  let node := gDst x.header
  match (linksTo m g node).filter (fun j => (linkAt m g j).state = .up) with
  | j :: _ =>
    sendMessage { m with requests := m.requests.map (fun r => if r.tag = gTag x.header && r.group = g && !r.kept && x.cls != 1 then { r with link := j } else r) }
      { x with link := j }
  | [] =>
    let mine (r : Request) : Bool := !r.kept && r.tag == gTag x.header && r.group == g && r.node == node
    if x.cls = 1 then m
    else (m.requests.filter mine).foldl keepRequest { m with requests := m.requests.filter (fun r => !mine r) }

/-- A link goes DOWN: event, its messages elsewhere, its partner entry (R358, R364). -/
def dropLink (m : Mod) (g k cause : Nat) : Mod :=
  let l := linkAt m g k
  let was : Bool := l.state == .up || l.state == .retrain
  let ms := unsent m g k
  let m1 := updLink { m with outMsgs := m.outMsgs.filter (fun x => !(x.group = g && x.link = k)) } g k (fun y => { y with
    state := .down, partner := none, mask := 0, replay := [], sent := [], units := [], replayTimes := 0, unackedRx := 0,
    nakDue := false, freed := [0, 0, 0], credits := [128, 128, 128], txSeq := 0, rxNext := 0, early := [] })
  let q := linkPartner m1 l
  let m2 := match q with
    | some q => updPartner m1 q.index (fun r => { r with links := setBit r.links (4 * g + k) false })
    | none => m1
  let m3 := if was then post (pgFlag m2 g 0) 0x0702 none (linkPayload m2 g k cause 0 0 q) else m2
  let m4 := ms.foldl (resend g) m3
  match q with
  | some q => if setBit q.links (4 * g + k) false = 0 then removePartner m4 q.index 2 else m4
  | none => m4

/-- A link begins to train. -/
def startTraining (g : PortGroup) (l : Link) : Link := { l with state := .training, rate := if g.rate100 then 1 else 2, mask := 0 }

/-- A link retrains: it keeps its sequence state and its replay buffer (R358). -/
def retrainLink (l : Link) : Link := { l with state := .retrain, retrains := sat32 (l.retrains + 1), replayTimes := 0 }

/-- `OLIX_TRAIN_TIMEOUT`: 500 ms at 200 Gb/s without UP. -/
def doTrainTimeout (g k : Nat) (m : Mod) : Mod :=
  updLink m g k (fun l => if l.state = .training ∧ l.rate = 2 then { l with rate := 1 } else l)

/-- `OLIX_LINK_UP`: a link of an enabled group reaches UP on the lanes that locked; a link that was not retraining begins
with fresh sequence numbers; dropped lanes have rejoined. -/
def doOlixUp (g k : Nat) (lanes : BitVec 16) (m : Mod) : Mod :=
  let y := groupOf m g
  let l := linkAt m g k
  let mask := lanes &&& linkLanes y.bondInForce k
  if !y.enable || !y.domainOn || bondLinks y.bondInForce ≤ k || l.state == .up || mask == 0 then m
  else
    let fresh (x : Link) : Link :=
      if x.state = .retrain then x
      else { x with txSeq := 0, rxNext := 0, unackedRx := 0, nakDue := false, replay := [], sent := [], replayTimes := 0,
                    credits := [128, 128, 128], freed := [0, 0, 0], units := [], early := [] }
    let all := linkLanes y.bondInForce k
    let m1 := updGroup m g (fun z => { z with
      lock := (z.lock &&& ~~~all) ||| mask, dropped := z.dropped &&& ~~~all,
      links := lupd z.links k (fun x => { (fresh x) with state := .up, mask := mask }) })
    let m2 := pgFlag m1 g 1
    let m3 := if l.rate = 1 then pgFlag m2 g 3 else m2
    pumpAll (post m3 0x0701 none (linkPayload m3 g k l.rate 0 0 (linkPartner m3 (linkAt m3 g k))))

/-- Replay of every flit not acknowledged; the eighth replay of the same flit retrains the link (R358). -/
def replayLink (l : Link) : Link :=
  if l.replay.isEmpty then l
  else
    let l1 := { l with replays := sat32 (l.replays + 1), tx := l.tx + l.replay.length, replayTimes := l.replayTimes + 1 }
    if 8 ≤ l1.replayTimes then retrainLink l1 else l1

/-- `OLIX_LANE_DROP`: `bad` 0 stands for a lane that lost lock, else its uncorrectable codewords within 1 s; a link left
without a lane retrains. -/
def doLaneDrop (g lane bad : Nat) (m : Mod) : Mod :=
  let y := groupOf m g
  let k := lane / lanesPer y.bondInForce
  let m1 := updLink m g k (fun l => { l with fecUncorr := sat32 (l.fecUncorr + bad) })
  let l := linkAt m1 g k
  if l.state ≠ .up ∨ ¬ bit l.mask lane ∨ (0 < bad ∧ bad ≤ 16) then m1
  else
    let m2 := updGroup m1 g (fun z => { z with
      lock := if bad = 0 then setBit z.lock lane false else z.lock, dropped := setBit z.dropped lane true })
    let m3 := updLink m2 g k (fun l =>
      let l1 := replayLink { l with mask := setBit l.mask lane false }
      if l1.mask = 0 ∧ l1.state = .up then retrainLink l1 else l1)
    post (pgFlag m3 g 2) 0x0703 none (linkPayload m3 g k 0 lane 0 (linkPartner m3 (linkAt m3 g k)))

/-- `OLIX_LINK_DOWN`: a retraining link has not returned to UP within 100 ms (R358). -/
def doOlixDown (g k : Nat) (m : Mod) : Mod := if (linkAt m g k).state = .retrain then dropLink m g k 1 else m

/-! ### `PG_CTRL` (R353, R375) -/

/-- Enable a group: its links train, with the configuration's settings where a CONFIG_WRITE made them due (R467). -/
def enableGroup (m : Mod) (g : Nat) : Mod :=
  let cfg := ((if m.rm.useConfigB then m.rm.configB else m.rm.configA).pgDefault).getD g 0
  updGroup m g (fun y =>
    let z := if y.defaultDue then { y with bond := min 2 (fld cfg 0 2), rate100 := bit cfg 2, media := bit cfg 3, defaultDue := false } else y
    let z1 := { z with enable := true, bondInForce := z.bond }
    if z1.domainOn then
      { z1 with links := (List.range 4).map (fun k =>
          let l := z1.links.getD k Link.reset
          if k < bondLinks z1.bond then startTraining z1 l else l) }
    else z1)

/-- Disable a group: its links go DOWN. -/
def disableGroup (m : Mod) (g : Nat) : Mod :=
  updGroup (forAll m [0, 1, 2, 3] (fun m k => if (linkAt m g k).state = .down then m else dropLink m g k 2)) g (fun y =>
    { y with enable := false, lock := 0, dropped := 0 })

/-- Retrain every link of an enabled group, from 200 Gb/s (R351). -/
def retrainGroup (m : Mod) (g : Nat) : Mod :=
  updGroup m g (fun y =>
    if !y.enable || !y.domainOn then y
    else { y with links := (List.range 4).map (fun k =>
      let l := y.links.getD k Link.reset
      if bondLinks y.bondInForce ≤ k then l
      else match l.state with
        | .up => { (retrainLink l) with rate := if y.rate100 then 1 else 2 }
        | .retrain => { l with rate := if y.rate100 then 1 else 2 }
        | _ => startTraining y l) })

/-- A write of `PG_CTRL`: the locked fields first, then `ENABLE`, then `RETRAIN`. -/
def doPgCtrl (g : Nat) (v : BitVec 32) (m : Mod) : Mod :=
  let y := groupOf m g
  let m1 := if y.enable || y.owner.isSome then m
    else updGroup m g (fun z => { z with bond := if fld v 0 2 = 3 then z.bond else fld v 0 2, rate100 := bit v 3, media := bit v 4 })
  let m2 := if bit v 2 && !y.enable then enableGroup m1 g else if !bit v 2 && y.enable then disableGroup m1 g else m1
  if bit v 5 then retrainGroup m2 g else m2

/-- `PG_RETRAIN`: a write of `PG_CTRL` with `RETRAIN` that leaves every other field as it is. -/
def doPgRetrain (g : Nat) (m : Mod) : Mod := retrainGroup m g

/-! ### Discovery (R362, R364) -/

/-- `HELLO_SEND`: the 48 bytes of R362. -/
def doHelloSend (g k : Nat) (fz : Fuses) (m : Mod) : Mod :=
  let l := linkAt m g k
  if l.state ≠ .up then m
  else
    let c := fields [(0, 64, fz.moduleId.toNat), (64, 8, m.nodeId), (72, 8, 1), (80, 16, 3), (96, 8, g), (104, 8, k), (112, 8, lanesUsed l)]
    let node := ((linkPartner m l).map (fun q => q.node)).getD 0xFF
    let us := (mkMessage 6 m.nodeId node 0 0 1 0) :: (List.range 3).map (fun j => BitVec.ofNat 144 (c >>> (144 * j)))
    updLink m g k (fun x => sendFlit x 3 us true)

/-- A HELLO's fields. -/
def helloPartner (m : Mod) (c : HelloContent) (idx g k : Nat) (st : PartnerState) : Partner :=
  { index := idx, moduleId := fld c 0 64, node := fld c 64 8, role := fld c 72 8, state := st, caps := BitVec.ofNat 16 (fld c 80 16),
    links := setBit 0 (4 * g + k) true, capacity := fld c 128 64, bandwidth := fld c 192 32, joined := m.time, imageGen := fld c 224 32,
    images := [], order := m.partnerOrder, lastHello := m.time, poison := 0 }

/-- A HELLO of a module that is not in the table. -/
def newPartner (m : Mod) (g k : Nat) (c : HelloContent) : Mod :=
  match (List.range 64).find? (fun i => m.partners.all (fun q => q.index != i)) with
  | none => m
  | some i =>
    let node := fld c 64 8
    let st : PartnerState := if node = 0xFF then .unnamed else if nodeHeld m node then .conflict else .present
    let q := helloPartner m c i g k st
    let m1 := updLink { m with partners := m.partners ++ [q], partnerOrder := m.partnerOrder + 1 } g k (fun l => { l with partner := some i })
    match st with
    | .present => joinPartner m1 g k q
    | .conflict => post m1 0x0706 none (olixPayload m1 g k i node 0 0 0 q.moduleId)
    | .unnamed => m1

/-- `HELLO` (R364); an entry whose node id changed is freed, whatever its state. -/
def doHello (g k : Nat) (c : HelloContent) (m : Mod) : Mod :=
  if (linkAt m g k).state ≠ .up then m
  else match m.partners.find? (fun q => q.moduleId = fld c 0 64) with
    | none => newPartner m g k c
    | some q =>
      if q.node ≠ fld c 64 8 then removePartner m q.index 3
      else
        let fresh := q.imageGen != fld c 224 32
        let q' := { q with
          links := setBit q.links (4 * g + k) true, lastHello := m.time, caps := BitVec.ofNat 16 (fld c 80 16), role := fld c 72 8,
          capacity := fld c 128 64, bandwidth := fld c 192 32, imageGen := fld c 224 32 }
        let m1 := updLink (updPartner m q.index (fun _ => q')) g k (fun l => { l with partner := some q.index })
        if q.state ≠ .present then m1
        else
          let m2 := if fresh then readImages m1 q' else m1
          releasePartnerHolds (reissueKept m2 q') q'

/-- `PARTNER_TIMEOUT`: no HELLO on any link for 4 ms. -/
def doPartnerTimeout (idx : Nat) (m : Mod) : Mod := removePartner m idx 1

/-! ### Inbound messages (R359, R367, R368, R371) -/

/-- Answer a message. -/
def answer (m : Mod) (g k op status : Nat) (hd : Header) (ls : List Line) : Mod :=
  sendMessage m { group := g, link := k, cls := 1,
                  header := mkMessage op m.nodeId (gSrc hd) (gTag hd) 0 (max 1 ls.length) status, lines := ls }

/-- Refuse a message with ERROR: counted and flagged (R368). -/
def refuseMsg (m : Mod) (g k status : Nat) (hd : Header) : Mod :=
  let m1 := pgFlag (updGroup m g (fun y => { y with refusals := sat32 (y.refusals + 1) })) g 5
  answer m1 g k 5 status hd []

/-- A header's reserved fields are 0 and its `OP` is one of R359. -/
def headerOk (hd : Header) : Bool := 1 ≤ gOp hd && gOp hd ≤ 6 && !bit hd 95 && fld hd 100 44 == 0

/-- What an aperture makes of a message: refused with a status, or served at a byte address of host memory, or at a line
of a site's vertical memory, or made to wait (R367, R368, R194). -/
inductive ApOut where
  | refuse (status : Nat)
  | host (h a : Nat)
  | slice (s a : Nat)
  | wait
  deriving DecidableEq, Repr

/-- The aperture entry that a READ or WRITE meets when it arrives. -/
def apertureEntry (m : Mod) (g : Nat) (hd : Header) : Aperture := (groupOf m g).apertures.getD (gAddr hd / 2 ^ 45 % 8) ⟨0, 0, 0⟩

/-- What an aperture entry makes of a READ or WRITE. -/
def aperture (m : Mod) (g : Nat) (ap : Aperture) (hd : Header) (write : Bool) : ApOut :=
  let a := gAddr hd
  let sel := a / 2 ^ 52
  if sel < 4 then .refuse 3
  else if sel ≠ 8 ∨ a / 2 ^ 48 % 16 ≠ g then .refuse 1
  else
    let off := a % 2 ^ 45
    match (groupOf m g).owner.bind (partOf? m) with
    | none => .refuse 1
    | some x =>
      if !bit ap.ctrl 0 || (bit ap.ctrl 1 && x.plan.isNone) then .refuse 1
      else if !bit ap.ctrl 4 && gSrc hd != fld ap.ctrl 5 8 then .refuse 3
      else if !bit ap.ctrl (if write then 3 else 2) then .refuse 3
      else if off % 72 ≠ 0 ∨ 72 * ap.lines < off + 72 * gLines hd then .refuse 2
      else if !bit ap.ctrl 1 then .host (partHost x) (ap.base.toNat + off)
      else match x.plan.bind (fun pl => pl.sites[fld ap.ctrl 13 11]?), x.plan.bind (fun pl => pl.vcores[fld ap.ctrl 13 11]?) with
        | some s, some vc =>
          let a := ap.base.toNat + off / 72
          if suVseg vc.setup (fld ap.ctrl 24 2) < a + gLines hd then .refuse 2
          else if serviceOk x then .slice s (vc.vsegBase.getD (fld ap.ctrl 24 2) 0 + a) else .wait
        | _, _ => .refuse 2

/-- Count lines that arrive poisoned from a partner (R371). -/
def countPoison (m : Mod) (g : Nat) (hd : Header) (ls : List Line) : Mod :=
  let n := (ls.filter tagPoison).length
  let m1 := updGroup m g (fun y => { y with poison := sat32 (y.poison + n) })
  match partnerOf m (gSrc hd) with
  | some q => updPartner m1 q.index (fun r => { r with poison := sat32 (r.poison + n) })
  | none => m1

/-- Serve a READ or WRITE under an aperture entry, or let it wait with that entry (R377). -/
def serveUnder (m : Mod) (x : Message) (ap : Aperture) : Mod :=
  let hd := x.header
  let write : Bool := gOp hd == 3
  match aperture m x.group ap hd write with
  | .refuse st => refuseMsg m x.group x.link st hd
  | .wait => { m with inMsgs := m.inMsgs ++ [(x, ap)] }
  | .host h a =>
    if rejected (hostOf m h) a (72 * gLines hd) then refuseMsg m x.group x.link 2 hd
    else if write then answer (updHost m h (fun y => hostWrite y a (x.lines.flatMap lineBytes))) x.group x.link 4 0 hd []
    else answer m x.group x.link 2 0 hd (bytesLines (hostRead (hostOf m h) a (72 * gLines hd)))
  | .slice s a =>
    if write then answer (writeLines m s a x.lines []) x.group x.link 4 0 hd []
    else
      let r := readLines m s a (gLines hd) []
      answer r.1 x.group x.link 2 0 hd r.2

/-- Serve a READ or WRITE that arrives. -/
def serveInbound (m : Mod) (x : Message) : Mod := serveUnder m x (apertureEntry m x.group x.header)

/-- The inbound messages that wait for service slots try again, each under the entry it was accepted by (R377). -/
def retryInbound (m : Mod) : Mod := m.inMsgs.foldl (fun m e => serveUnder m e.1 e.2) { m with inMsgs := [] }

/-- Checks that every message passes before it is acted on (R359); links carry HELLO only while the module has no node
id (R363). -/
def acceptMsg (m : Mod) (g k : Nat) (hd : Header) (op : Nat) (f : Mod → Mod) : Mod :=
  if (linkAt m g k).state ≠ .up ∨ m.nodeId = 0xFF then m
  else if !headerOk hd || gOp hd != op then (if op = 5 then m else refuseMsg m g k 3 hd)
  else if gDst hd ≠ m.nodeId then (if op = 5 then m else refuseMsg m g k 4 hd)
  else f m

/-- `READ`. -/
def doRead (g k : Nat) (hd : Header) (side : HostSide) (m0 : Mod) : Mod :=
  let m := match (groupOf m0 g).owner.bind (partOf? m0) with
    | some x => applySide m0 (partHost x) side
    | none => m0
  acceptMsg m g k hd 1 (fun m => serveInbound m { group := g, link := k, cls := 0, header := hd, lines := [] })

/-- `WRITE`. -/
def doWrite (g k : Nat) (hd : Header) (ls : List Line) (side : HostSide) (m0 : Mod) : Mod :=
  let m := match (groupOf m0 g).owner.bind (partOf? m0) with
    | some x => applySide m0 (partHost x) side
    | none => m0
  acceptMsg m g k hd 3 (fun m => serveInbound (countPoison m g hd ls) { group := g, link := k, cls := 0, header := hd, lines := ls })

/-! ### Responses (R360, R369, R370) -/

/-- The request a response answers. -/
def requestOf (m : Mod) (g : Nat) (hd : Header) (write : Bool) : Option Request :=
  m.requests.find? (fun r => r.tag = gTag hd && r.group = g && !r.kept && r.node = gSrc hd && r.write == write)

/-- A response that answers nothing is dropped and counted (R372). -/
def lateResponse (m : Mod) (g : Nat) : Mod := updGroup m g (fun y => { y with refusals := sat32 (y.refusals + 1) })

/-- Part of an image list has arrived. -/
def takeImages (m : Mod) (r : Request) (ls : List Line) : Mod :=
  updPartner m r.rtag (fun q =>
    let old := (q.images.flatMap (fun e => leBytes 80 e.toNat)) ++ List.replicate (1280 - 80 * q.images.length) (0 : Byte)
    let new_ := (old.take (72 * r.doff) ++ ls.flatMap lineBytes ++ old.drop (72 * (r.doff + ls.length))).take 1280
    { q with images := (chunksOf 80 new_).map (fun b => BitVec.ofNat 640 (leNat b)) })

/-- Response route of the window a core's reply tag belongs to. -/
def replyRoute (m : Mod) (x : Part) (s rtag : Nat) : Option Nat :=
  (((siteOf m s).core.xfers.find? (fun t => t.replyTag = some rtag)).bind (fun t => windowOf x t.gwin)).map (fun w => w.rspRoute)

/-- `READ_DATA`: injected as `GRSP` packets at the group's injection router, or taken as service data. -/
def doReadData (g k : Nat) (hd : Header) (ls : List Line) (m0 : Mod) : Mod :=
  acceptMsg m0 g k hd 2 (fun m0 =>
    let m := countPoison m0 g hd ls
    match requestOf m g hd false with
    | none => lateResponse m g
    | some r =>
      let m1 := { m with requests := m.requests.erase r }
      match r.site, partOf? m r.part with
      | some s, some x => match replyRoute m x s r.rtag with
        | some route => injectGrsp m1 (injectSite m1 g) r.part route r.rtag r.doff ls
        | none => m1
      | _, _ => if r.part = gatewayPart then takeImages m1 r ls else m1)

/-- `WRITE_ACK`: the last message of a packet acknowledges the packet to its core. -/
def doWriteAck (g k : Nat) (hd : Header) (m0 : Mod) : Mod :=
  acceptMsg m0 g k hd 4 (fun m =>
    match requestOf m g hd true with
    | none => lateResponse m g
    | some r =>
      let m1 := { m with requests := m.requests.erase r }
      match r.site with
      | some s => { m1 with fabric := { m1.fabric with acks := m1.fabric.acks ++ [{ src := s, seq := r.rtag, site := injectSite m1 g, kind := 3 }] } }
      | none => m1)

/-- A service request is answered ERROR: the transfer it belongs to fails (R245, R276, R277). -/
def serviceError (m : Mod) (r : Request) : Mod :=
  let m1 := { m with requests := m.requests.filter (fun q => !(q.part = r.part && q.cls = 2 && q.write == r.write)) }
  match partOf? m r.part with
  | none => m1
  | some x =>
    if r.write then doStoreWriteAck r.part true m1
    else if x.load.isSome then doWeightChunk r.part [] true m1
    else doStoreReadData r.part true [] m1

/-- `ERROR`: a partner refuses a request; a plan's request raises REMOTE_REFUSED (R370). -/
def doError (g k : Nat) (hd : Header) (m0 : Mod) : Mod :=
  acceptMsg m0 g k hd 5 (fun m =>
    match m.requests.find? (fun r => r.tag = gTag hd && r.group = g && !r.kept && r.node = gSrc hd) with
    | none => lateResponse m g
    | some r =>
      if r.cls = 0 then gatewayFault { m with requests := m.requests.erase r } r.part (r.site.getD 0xFFFF) 0x29 (some g) k (partnerOf m r.node)
      else serviceError m r)

/-! ### Flits (R355-R358) -/

/-- A valid unit of a flit, and whether it is a message header. -/
def flitUnits (f : BitVec 1280) : List (Bool × BitVec 144) :=
  ((List.range 8).filter (fun j => bit f (1152 + j))).map (fun j => (bit f (1160 + j), BitVec.ofNat 144 (fld f (144 * j) 144)))

/-- Data units of a message by its header (R359). -/
def dataUnits (hd : Header) : Nat :=
  if gOp hd = 2 ∨ gOp hd = 3 then 4 * gLines hd else if gOp hd = 6 then 3 else 0

/-- Act on a complete message as its own command does. -/
def takeMessage (m : Mod) (g k : Nat) (hd : Header) (us : List (BitVec 144)) : Mod :=
  let ls := (chunksOf 4 us).map unitsLine
  let quiet : HostSide := { writes := [], rejects := [] }
  match gOp hd with
  | 1 => acceptMsg m g k hd 1 (fun m => serveInbound m { group := g, link := k, cls := 0, header := hd, lines := [] })
  | 2 => doReadData g k hd ls m
  | 3 => acceptMsg m g k hd 3 (fun m => serveInbound (countPoison m g hd ls) { group := g, link := k, cls := 0, header := hd, lines := ls })
  | 4 => doWriteAck g k hd m
  | 5 => doError g k hd m
  | 6 =>
    if headerOk hd then doHello g k (BitVec.ofNat 384 (us.foldr (fun u a => u.toNat + 2 ^ 144 * a) 0)) m
    else if (linkAt m g k).state ≠ .up ∨ m.nodeId = 0xFF then m
    else refuseMsg m g k 3 hd
  | _ => doRead g k hd quiet m

/-- Take the units of a class that make a complete message; `n` bounds the messages of one flit. -/
def takeUnits (g k cls : Nat) : Nat → Mod → Mod
  | 0, m => m
  | n + 1, m =>
    let us := ((linkAt m g k).units.filter (fun u => u.1 = cls)).map Prod.snd
    match us with
    | [] => m
    | hd :: rest =>
      let d := dataUnits hd
      if rest.length < d then m
      else
        let m1 := updLink m g k (fun l => { l with
          units := l.units.filter (fun u => u.1 != cls) ++ (rest.drop d).map (fun u => (cls, u)) })
        takeUnits g k cls n (takeMessage m1 g k hd (rest.take d))

/-- Take the acknowledgement of a flit. -/
def takeFlitAck (f : BitVec 1280) (l : Link) : Link :=
  let ack := fld f 1182 12
  if bit f 1194 then
    let keep := match l.replay.findIdx? (fun e => e.1 = ack) with
      | some i => l.replay.drop (i + 1)
      | none => l.replay
    if keep.length < l.replay.length then
      { l with
        replay := keep, replayTimes := 0,
        sent := l.sent.filter (fun e => keep.any (fun r => r.1 = e.1)) }
    else l
  else l

/-- Take a flit that is next in order: its number, its credits, its units (R355, R357). -/
def acceptFlit (g k : Nat) (f : BitVec 1280) (m : Mod) : Mod :=
  let cls := fld f 1168 2
  takeUnits g k cls 8 (updLink m g k (fun l => { l with
    rxNext := (l.rxNext + 1) % 4096, unackedRx := l.unackedRx + 1,
    credits := (List.range 3).map (fun c => min 128 (l.credits.getD c 0 + fld f (1196 + 8 * c) 8)),
    freed := if cls < 3 then lupd l.freed cls (fun n => n + 1) else l.freed,
    units := l.units ++ (flitUnits f).map (fun u => (cls, u.2)) }))

/-- The flits that came ahead of their turn follow as soon as it comes (R356). -/
def drainEarly (g k : Nat) : Nat → Mod → Mod
  | 0, m => m
  | n + 1, m =>
    match (linkAt m g k).early.find? (fun e => e.1 = (linkAt m g k).rxNext) with
    | none => m
    | some e => drainEarly g k n (acceptFlit g k e.2 (updLink m g k (fun l => { l with early := l.early.erase e })))

/-- Restore the order of the flits by `FSEQ`: the next one is taken, one ahead of its turn is held, a repeated one dropped
(R356). -/
def orderFlit (g k : Nat) (f : BitVec 1280) (m : Mod) : Mod :=
  let l := linkAt m g k
  let n := fld f 1170 12
  let ahead := (n + 4096 - l.rxNext) % 4096
  if ahead = 0 then drainEarly g k l.early.length (acceptFlit g k f m)
  else if ahead < 1024 ∧ ¬ l.early.any (fun e => e.1 = n) then updLink m g k (fun l => { l with early := l.early ++ [(n, f)] })
  else m

/-- An acknowledgement goes out: a flit of class 3 without units. -/
def sendAck (l : Link) : Link := sendFlit l 3 [] false

/-- `OLIX_FLIT_RECEIVE`. -/
def doFlitReceive (g k : Nat) (f : BitVec 1280) (m : Mod) : Mod :=
  let l := linkAt m g k
  if l.state ≠ .up then m
  else if !flitOk f then
    updLink m g k (fun l => sendAck { l with crcErr := sat32 (l.crcErr + 1), nakDue := true })
  else
    let m1 := updLink m g k (fun l => takeFlitAck f { l with rx := l.rx + 1 })
    let m2 := if bit f 1195 then updLink m1 g k replayLink else m1
    let m3 := orderFlit g k f m2
    let m5 := if 64 ≤ (linkAt m3 g k).unackedRx then updLink m3 g k sendAck else m3
    pumpAll m5

/-- `OLIX_ACK_TIMER`: 1 us without an acknowledgement sent. -/
def doAckTimer (g k : Nat) (m : Mod) : Mod :=
  updLink m g k (fun l => if l.state = .up ∧ 0 < l.unackedRx then sendAck l else l)

/-! ### PARTNER_LIST (R378) -/

/-- State code of a partner. -/
def partnerCode : PartnerState → Nat
  | .present => 1
  | .conflict => 2
  | .unnamed => 3

/-- A partner record. -/
def partnerRecord (m : Mod) (q : Partner) : List Byte :=
  leBytes 8 q.moduleId ++ leBytes 1 q.index ++ leBytes 1 q.node ++ leBytes 1 q.role ++ leBytes 1 (partnerCode q.state)
    ++ leBytes 2 q.caps.toNat ++ leBytes 2 0 ++ leBytes 8 q.links.toNat ++ leBytes 8 q.capacity ++ leBytes 4 q.bandwidth
    ++ leBytes 4 (if q.state = .present then committedAt m q.node else 0) ++ leBytes 8 q.joined ++ leBytes 4 q.imageGen ++ leBytes 12 0

/-- Partners from table index `i` on, in index order. -/
def partnersFrom (m : Mod) (i : Nat) : List Partner :=
  (List.range (64 - i)).filterMap (fun k => m.partners.find? (fun q => q.index = i + k))

/-- Write the whole records that fit, and complete with their number and the number available (R298, R305). -/
def answerRecords (m : Mod) (r : RingRef) (c : Cmd) (size : Nat) (rs : List (List Byte)) : Mod :=
  let out := rs.take (c.entry.len0.toNat / size)
  let k := compl c.entry.cid .ok
  complete (if out.isEmpty then m else bufWrite m r c.entry.cid c.entry.addr0.toNat out.flatten) r
    { k with result0 := out.length, result1 := rs.length }

/-- PARTNER_LIST. -/
def runPartnerList (m : Mod) (r : RingRef) (c : Cmd) : Mod :=
  let e := c.entry
  let i := argN e 4 4
  if !entryClean e false true false [(0, 8), (32, 32)] || 1 < argN e 0 1 then completeS m r e.cid .badDescriptor
  else onAdmin m r c (fun _ =>
    if argN e 0 1 = 0 then answerRecords m r c 64 ((partnersFrom m i).map (partnerRecord m))
    else match m.partners.find? (fun q => q.index = i && q.state = .present) with
      | none => completeS m r e.cid .notFound
      | some q => answerRecords m r c 80 ((List.range 16).map (fun j => leBytes 80 (q.images.getD j 0).toNat)))

/-! ### The commands -/

/-- `OLIX_TRAIN_TIMEOUT`. -/
def execOlixTrainTimeout (g : GroupId) (k : LinkId) (s : State) : Host.Outcome State Fault Refusal :=
  lift (doTrainTimeout g.val k.val) s
/-- `OLIX_LINK_UP`. -/
def execOlixLinkUp (g : GroupId) (k : LinkId) (lanes : BitVec 16) (s : State) : Host.Outcome State Fault Refusal :=
  lift (doOlixUp g.val k.val lanes) s
/-- `OLIX_LANE_DROP`. -/
def execOlixLaneDrop (g : GroupId) (lane : Fin 16) (uncorrectable : Nat) (s : State) : Host.Outcome State Fault Refusal :=
  lift (doLaneDrop g.val lane.val uncorrectable) s
/-- `OLIX_FLIT_RECEIVE`. -/
def execOlixFlitReceive (g : GroupId) (k : LinkId) (flit : BitVec 1280) (s : State) : Host.Outcome State Fault Refusal :=
  lift (doFlitReceive g.val k.val flit) s
/-- `OLIX_ACK_TIMER`. -/
def execOlixAckTimer (g : GroupId) (k : LinkId) (s : State) : Host.Outcome State Fault Refusal := lift (doAckTimer g.val k.val) s
/-- `OLIX_LINK_DOWN`. -/
def execOlixLinkDown (g : GroupId) (k : LinkId) (s : State) : Host.Outcome State Fault Refusal := lift (doOlixDown g.val k.val) s
/-- `HELLO_SEND`. -/
def execHelloSend (g : GroupId) (k : LinkId) (s : State) : Host.Outcome State Fault Refusal :=
  lift (doHelloSend g.val k.val s.fuses) s
/-- `HELLO`. -/
def execHello (g : GroupId) (k : LinkId) (c : HelloContent) (s : State) : Host.Outcome State Fault Refusal :=
  lift (doHello g.val k.val c) s
/-- `PARTNER_TIMEOUT`. -/
def execPartnerTimeout (idx : RegionId) (s : State) : Host.Outcome State Fault Refusal := lift (doPartnerTimeout idx.val) s
/-- `READ`. -/
def execRead (g : GroupId) (k : LinkId) (hd : Header) (h : HostSide) (s : State) : Host.Outcome State Fault Refusal :=
  lift (doRead g.val k.val hd h) s
/-- `WRITE`. -/
def execWrite (g : GroupId) (k : LinkId) (hd : Header) (lines : List Line) (h : HostSide) (s : State) :
    Host.Outcome State Fault Refusal :=
  if lines.length = headerLines hd then lift (doWrite g.val k.val hd lines h) s else .fault .illFormed
/-- `READ_DATA`. -/
def execReadData (g : GroupId) (k : LinkId) (hd : Header) (lines : List Line) (s : State) : Host.Outcome State Fault Refusal :=
  if lines.length = headerLines hd then lift (doReadData g.val k.val hd lines) s else .fault .illFormed
/-- `WRITE_ACK`. -/
def execWriteAck (g : GroupId) (k : LinkId) (hd : Header) (s : State) : Host.Outcome State Fault Refusal :=
  lift (doWriteAck g.val k.val hd) s
/-- `ERROR`. -/
def execError (g : GroupId) (k : LinkId) (hd : Header) (s : State) : Host.Outcome State Fault Refusal :=
  lift (doError g.val k.val hd) s
/-- `PG_ENABLE`. -/
def execPgEnable (g : GroupId) (value : BitVec 32) (s : State) : Host.Outcome State Fault Refusal := lift (doPgCtrl g.val value) s
/-- `PG_RETRAIN`. -/
def execPgRetrain (g : GroupId) (s : State) : Host.Outcome State Fault Refusal := lift (doPgRetrain g.val) s
/-- `PARTNER_LIST`. -/
def execPartnerList (r : RingRef) (e : SqEntry) (h : HostSide) (s : State) : Host.Outcome State Fault Refusal :=
  lift (takeCmd r e h 0x58 runPartnerList) s

end Sys2Proof.Machine
end

