-- ==== Sys2Proof/Machine/Partition.lean ====
section
/-! DEFINITION. Partitions, fuses, attestation (12_partitions_modes_protection.md R381-R405). -/
namespace Sys2Proof.Machine
open Sys2Proof

/-! ### Grants and ownership (R382) -/

/-- A grant entry: site, port, slots, and whether its reserved fields are 0. -/
structure Grant where
  site : Nat
  port : Nat
  slots : Nat
  clean : Bool
  deriving DecidableEq, Repr

/-- A grant from its 8 bytes. -/
def grantOf (v : BitVec 64) : Grant :=
  { site := fld v 0 11, port := fld v 16 3, slots := fld v 24 7, clean := fld v 11 5 == 0 && fld v 19 5 == 0 && fld v 31 33 == 0 }

/-- The slots a grant names. -/
def grantSlots (g : Grant) : List Nat := (List.range 7).filter (fun k => g.slots.testBit k)

/-- No partition owns a slot direction in either bank. -/
def slotUnowned (m : Mod) (s port slot : Nat) : Bool :=
  let r := (siteOf m s).router
  (mget? r.ownA (8 * port + slot)).isNone && (mget? r.ownB (8 * port + slot)).isNone

/-- A grant can be owned (check 10): an existing port that is neither terminated nor a management port, scheduled slots
that exist on it and that no partition owns. -/
def grantOk (m : Mod) (g : Grant) : Bool :=
  g.site < 1536 && g.port < 4 && portLeads g.site g.port
    && (grantSlots g).all (fun k => !isCorridorSlot g.site g.port k && slotUnowned m g.site g.port k)

/-- The slot directions of a partition by its own regions, as (site, key): links and crossings inside them, and outward
ports towards its host site and its port groups. -/
def ownDirections (c : BitVec 1024) : List (Nat × Nat) :=
  let rs := configRegions c
  (rs.flatMap sitesOf).flatMap (fun s => [0, 1, 2, 3].flatMap (fun p =>
    let n := if isSeamPort s p then 3 else 7
    let mine : Bool := match neighbour s p with
      | some t => rs.contains (regionOf t)
      | none => outwardPort s == some p && (hostAt s == some (configHost c) || (match groupAt s with
          | some g => bit (configGroups c) g
          | none => false))
    if mine then (List.range n).map (fun k => (s, 8 * p + k)) else []))

/-- Give a partition a slot direction in both banks. -/
def ownSlot (p : Nat) (m : Mod) (d : Nat × Nat) : Mod :=
  updRouter m d.1 (fun r => { r with ownA := mset r.ownA d.2 p, ownB := mset r.ownB d.2 p })

/-- Clear a partition's ownership entries at every router. -/
def disown (m : Mod) (p : Nat) : Mod :=
  { m with sites := m.sites.map (fun s => (s.1, { s.2 with router := { s.2.router with
      ownA := s.2.router.ownA.filter (fun e => e.2 != p), ownB := s.2.router.ownB.filter (fun e => e.2 != p) } })) }

/-! ### Creating (R383-R385) -/

/-- The reserved fields of a configuration record are 0 (R220). -/
def configClean (c : BitVec 1024) : Bool :=
  fld c 42 6 == 0 && fld c 55 9 == 0 && fld c 132 4 == 0 && fld c 138 6 == 0 && fld c 192 832 == 0

/-- Every service region named holds its role on a region whose core domain is ON, its own or a spare (check 8, R409). -/
def roleUp (m : Mod) (r : Nat) : Bool := (roleHolder m r).any (fun q => (regionAt m q).power.core == .on)

/-- The first check of R384 that a request fails, with its status. -/
def createFails (fz : Fuses) (m : Mod) (e : SqEntry) (c : BitVec 1024) (gs : List Grant) : Option (Nat × Status) :=
  let p := argN e 0 1
  let init := argN e 1 1
  let rs := configRegions c
  if !entryClean e false true false [(0, 4), (8, 2), (32, 32)] || !configClean c || !gs.all (fun g => g.clean)
      || fld c 0 32 != 0x46435041 || fld c 32 8 != m.grade then some (1, .badDescriptor)
  else if fz.maxPartitions ≤ p ∨ (partOf? m p).isSome then some (2, .notPermitted)
  else if rs.any isSpareRegion || fld c 48 7 != rs.length || rs.isEmpty then some (3, .badDescriptor)
  else if configModes c == 0 || !bit (configModes c) init || configPermits c == 0 || 3 * coresPer m < configPermits c
      || configCclk c < 400 || 1200 < configCclk c || configCclk c % 100 != 0 then some (4, .badDescriptor)
  else if configTwin c && (rs.length < 2 || !bit (configModes c) 3) then some (5, .badDescriptor)
  else if !bit m.limitModes init then some (6, .notPermitted)
  else if rs.any (fun r => (regionOwner m r).isSome) then some (7, .refusedResources)
  else if !rs.all (roleUp m) then some (8, .refusedResources)
  else if (bitsOf (configGroups c)).any (fun g => (groupOf m g).owner.isSome) then some (9, .refusedResources)
  else if !gs.all (grantOk m) then some (10, .refusedResources)
  else none

/-- A partition as it is created: every register of its blocks at reset (R388), its session IDLE (R293). -/
def Part.create (m : Mod) (c : BitVec 1024) (gs : List (BitVec 64)) (md : Mode) (off : Bool) : Part :=
  { config := c, digest := sha512 (leBytes 128 c.toNat), grants := gs, mode := md, session := .idle, cookie := 0, cookieBad := false,
    cookieReg := 0, losses := 0, abandoned := 0, pairErr := 0, pairs := [], msixTable := [], msixPending := [], holdAdmin := false,
    holdHost := false, holdPartner := false, holdSeam := false, frameHolds := [], ownCheckOff := off, targetMhz := 0, guardPct := 0,
    commits := 0, cancels := 0, modesCap := m.limitModes, cclkCap := m.limitCclk, powerCap := m.limitPower, staged := [],
    classes := List.replicate 8 ⟨0, 0, 0, 0, 0, 0⟩, plan := none, load := none, refusal := [], frame0 := .idle, beatCount := 0,
    stepCount := 0, firstSite := 0xFFFF, firstCode := 0, faultPlan := false, faultLink := false, faultStall := false, inStep := false,
    schedPos := 0, bucket := 0, nextBucket := 0, batch := [], nextBatch := [], tableWaiting := false, stepStart := 0, predictions := [],
    epoch := 0, epochTime := m.time, seqs := [], gens := [], pages := [], leafUsed := [], poolLow := false, reserved := [],
    storeWrites := [], storeReads := [], snaps := [], journalQ := [], maskReports := [], adapters := [], layers := [],
    massPosted := none, scores := [], repair := none, restartDue := false, faultQ := [], refill := [], twinLeft := [], stretchUs := 0, tableQ := [],
    cars := [], draining := [], epochDue := false, linkFault := false, late := [] }

/-- Create a partition that passed every check. -/
def createPart (fz : Fuses) (m : Mod) (p : Nat) (c : BitVec 1024) (gs : List (BitVec 64)) (md : Mode) : Mod :=
  let off := bit m.sec.ownCheckDisable p && !fz.isolationLock
  let x := Part.create m c gs md off
  let m1 := { m with parts := mset m.parts p x }
  let dirs := ownDirections c ++ (gs.map grantOf).flatMap (fun g => (grantSlots g).map (fun k => (g.site, 8 * g.port + k)))
  let m2 := dirs.foldl (ownSlot p) m1
  let m3 := forAll m2 (bitsOf (configGroups c)) (fun m g => updGroup m g (fun y => { y with owner := some p }))
  let m4 := forAll m3 (partRegions m3 x) (fun m r => updRegion m r (fun y => { y with ownCheck := !off, activeBank := false }))
  let m5 := retargetPart m4 p
  if m5.fabric.seamDown ∧ ownsSeam m5 p then settleHold (updPart m5 p (fun y => { y with holdSeam := true })) p else m5

/-- PARTITION_CREATE. -/
def runPartitionCreate (fz : Fuses) (m : Mod) (r : RingRef) (c : Cmd) : Mod :=
  let e := c.entry
  onAdmin m r c (fun h =>
    let n := argN e 4 4
    let fail (d : Nat) (st : Status) : Mod :=
      let k := compl e.cid st
      complete m r { k with detail := d }
    let a := e.addr0.toNat
    if 4096 < n ∨ e.len0.toNat ≠ 128 + 8 * n ∨ a % 8 ≠ 0 then fail 1 .badDescriptor
    else if rejected (hostOf m h) a (128 + 8 * n) then completeS m r e.cid .badDescriptor
    else
      let bs := hostRead (hostOf m h) a (128 + 8 * n)
      let cfg : BitVec 1024 := BitVec.ofNat 1024 (leNat (bs.take 128))
      let gs := (chunksOf 8 (bs.drop 128)).map (fun b => (BitVec.ofNat 64 (leNat b) : BitVec 64))
      match createFails fz m e cfg (gs.map grantOf) with
      | some (d, st) => fail d st
      | none =>
        let p := argN e 0 1
        let m1 := createPart fz m p cfg gs (modeOf (argN e 1 1))
        let k := compl e.cid .ok
        complete m1 r { k with result0 := p, result1 := fld (sha512 (leBytes 128 cfg.toNat)) 0 64 })

/-! ### Destroying (R386, R319) -/

/-- Complete every command of a partition that has not completed with ABORTED, and write what its rings can take. -/
def abortAll (m : Mod) (p : Nat) : Mod :=
  match partOf? m p with
  | none => m
  | some x =>
    let m1 := (ringCmds p x).foldl (fun m rc => if rc.2.phase = .completed then m else complete m rc.1 (abortedCompl rc.2)) m
    forAll m1 (x.pairs.map Prod.fst) (fun m q => postMany (ringOf p q) (pairOf m (ringOf p q)).outbox.length m)

/-- Remove a partition: staged changes cancelled, plan unloaded, ownership, apertures, regions and groups released. -/
def destroyPart (m : Mod) (p : Nat) : Mod :=
  match partOf? m p with
  | none => m
  | some x =>
    let m1 := abortLoad (cancelWhere m p (fun _ => true)) p
    let m2 := abortAll (unloadPlan m1 p) p
    let rs := partRegions m2 x
    let m3 := disown m2 p
    let m4 := forAll m3 (bitsOf (configGroups x.config)) (fun m g => updGroup m g (fun y => { y with
      owner := none, apertures := y.apertures.map (fun a => { a with ctrl := setBit a.ctrl 0 false }) }))
    let m5 := { m4 with
      parts := mdel m4.parts p,
      requests := m4.requests.filter (fun q => q.part != p),
      fabric := { m4.fabric with reports := m4.fabric.reports.filter (fun n => n.1 != p) } }
    let m6 := forAll m5 rs (fun m r => retargetRegion (updRegion m r (fun y => { y with
      gateClosed := false, ownCheck := true, switchPending := false })) r)
    let m7 := forAll m6 [0, 1, 2, 3] (fun m h => updHost m h (fun y => { y with
      loss := y.loss.map (fun l => (l.1, l.2.1, l.2.2.filter (fun q => q != p))) }))
    limitsGo 17 (postLosses m7)

/-- Commands naming a partition in a0 [3:0]: reserved fields, then the partition. -/
def onNamed (m : Mod) (r : RingRef) (c : Cmd) (f : Nat → Part → Mod) : Mod :=
  let e := c.entry
  if !entryClean e false false false [(0, 4)] then completeS m r e.cid .badDescriptor
  else onAdmin m r c (fun _ => match partOf? m (argN e 0 1) with
    | none => completeS m r e.cid .notFound
    | some x => f (argN e 0 1) x)

/-- PARTITION_DESTROY: held with cause ADMIN, then destroyed at the boundary. -/
def runPartitionDestroy (m : Mod) (r : RingRef) (c : Cmd) : Mod :=
  onNamed m r c (fun p x =>
    let m1 := settleHold (updPart m p (fun y => { y with holdAdmin := true })) p
    if unloadNow m x then completeS (destroyPart m1 p) r c.entry.cid .ok else waitCmd m1 r c)

/-! ### Holding (R387) -/

/-- PARTITION_HOLD. -/
def runPartitionHold (m : Mod) (r : RingRef) (c : Cmd) : Mod :=
  onNamed m r c (fun p x =>
    let waited : Bool := c.phase == .waiting
    if x.holdAdmin ∧ ¬ waited then completeBeat m r c p
    else
      let m1 := settleHold (updPart m p (fun y => { y with holdAdmin := true })) p
      if actsNow m x then completeBeat m1 r c p else waitCmd m1 r c)

/-- PARTITION_RESUME. -/
def runPartitionResume (m : Mod) (r : RingRef) (c : Cmd) : Mod :=
  onNamed m r c (fun p x =>
    if !x.holdAdmin then completeBeat m r c p
    else if actsNow m x then
      kick (completeBeat (settleHold (updPart m p (fun y => clearSummary { y with holdAdmin := false })) p) r c p) p
    else waitCmd m r c)

/-! ### The module configuration record (R466) -/

/-- The configuration copy in force. -/
def configNow (m : Mod) : ConfigCopy := if m.rm.useConfigB then m.rm.configB else m.rm.configA

/-- Bytes 0-4,031 of a module configuration record. -/
def configBody (c : ConfigCopy) : List Byte :=
  leBytes 4 0x474D5841 ++ leBytes 2 0x0100 ++ leBytes 2 0 ++ leBytes 8 c.sequence ++ leBytes 1 c.nodeId ++ leBytes 1 c.modes.toNat
    ++ leBytes 2 c.cclkCap ++ leBytes 2 c.powerCap ++ leBytes 2 0 ++ ((List.range 16).map (fun g => c.pgDefault.getD g 0))
    ++ leBytes 3992 0

/-- A module configuration record with its digest. -/
def configBytes (c : ConfigCopy) : List Byte := configBody c ++ digestBytes (sha512 (configBody c))

/-! ### Attestation (R402, R403) -/

/-- The fuse state record: every field of R396 but `IDENTITY_KEY`, in table order, packed from bit 0 (log entry 30). -/
def fuseRecord (fz : Fuses) : List Byte :=
  leBytes 666 (fields
    ((List.range 4).map (fun k => (512 * k, 512, (fz.rootDigest.getD k 0).toNat))
      ++ [(2048, 4, fz.rootRevoked.toNat), (2052, 127, 2 ^ fz.rollback - 1), (2179, 2, 2 ^ fz.debugLevel - 1), (2181, 1, b2n fz.jtagLock),
          (2182, 1, b2n fz.isolationLock), (2183, 4, fz.maxPartitions - 1), (2187, 2, fz.grade)]
      ++ (List.range 64).map (fun r => (2189 + 48 * r, 48, (fz.spareMap.getD r 0).toNat)) ++ [(5261, 64, fz.moduleId.toNat)]))

/-- Digest of a Ringmaster member's image. -/
def memberDigest (m : Mod) (x : RmMember) : BitVec 512 := ((m.rm.fw[if x.slotB then 1 else 0]?).map (fun s => s.digest)).getD 0

/-- The distinct region controller images in force. -/
def rcDigests (m : Mod) : List (BitVec 512) :=
  (m.rm.rcSlotB.map (fun b => ((m.rm.fw[if b then 3 else 2]?).map (fun s => s.digest)).getD 0)).eraseDups

/-- A measurement entry. -/
def measureEntry (kind idx : Nat) (d : BitVec 512) : List Byte := leBytes 2 kind ++ leBytes 1 idx ++ leBytes 13 0 ++ digestBytes d

/-- Entries of a partition: kinds 6 to 8. -/
def partEntries (p : Nat) (x : Part) : List (List Byte) :=
  [measureEntry 6 p x.digest, measureEntry 7 p ((x.plan.map (fun pl => pl.image)).getD 0),
   measureEntry 8 p ((x.plan.map (fun pl => pl.weightDigest)).getD 0)]

/-- The entries of a report on the partitions `ps`. -/
def reportEntries (fz : Fuses) (m : Mod) (ps : List (Nat × Part)) : List (List Byte) :=
  let act := if m.rm.activeEast then m.rm.east else m.rm.west
  let other := if m.rm.activeEast then m.rm.west else m.rm.east
  let rc := rcDigests m
  [measureEntry 1 0 (memberDigest m act), measureEntry 2 0 (memberDigest m other)]
    ++ (List.range rc.length).map (fun k => measureEntry 3 k (rc.getD k 0))
    ++ [measureEntry 4 0 (sha512 (fuseRecord fz)), measureEntry 5 0 (sha512 (configBytes (configNow m)))]
    ++ ps.flatMap (fun px => partEntries px.1 px.2)

/-- A report with its signature. -/
def attestReport (fz : Fuses) (m : Mod) (scope p nonce : Nat) (ps : List (Nat × Part)) : List Byte :=
  let es := reportEntries fz m ps
  let signer := b2n m.rm.activeEast
  let body := leBytes 4 0x54545841 ++ leBytes 2 0x0100 ++ leBytes 1 scope ++ leBytes 1 p ++ leBytes 8 fz.moduleId.toNat
    ++ leBytes 8 m.time ++ leBytes 24 nonce ++ leBytes 4 es.length
    ++ leBytes 1 (b2n (ps.any (fun px => px.2.ownCheckOff)) + 2 * b2n (m.regions.any (fun r => r.2.fwRestart) || decide (1 < (rcDigests m).length)))
    ++ leBytes 1 signer ++ leBytes 74 0 ++ es.flatten
  let sig := Config.sign signer body
  body ++ (sig ++ List.replicate 512 (0 : Byte)).take 512

/-- The certificate chain, each certificate preceded by its length. -/
def certBytes (m : Mod) : List Byte := (Config.certChain (b2n m.rm.activeEast)).flatMap (fun c => leBytes 4 c.length ++ c)

/-- Write an output of known size, or name the size needed. -/
def answerSized (m : Mod) (r : RingRef) (e : SqEntry) (bs : List Byte) : Mod :=
  if e.len0.toNat < bs.length then
    let k := compl e.cid .refusedResources
    complete m r { k with result1 := bs.length }
  else
    let k := compl e.cid .ok
    complete (bufWrite m r e.cid e.addr0.toNat bs) r { k with result1 := bs.length }

/-- ATTEST. -/
def runAttest (fz : Fuses) (m : Mod) (r : RingRef) (c : Cmd) : Mod :=
  let e := c.entry
  let scope := argN e 0 1
  let p := argN e 1 1
  if 2 < scope || !entryClean e false true false [(0, 8), (8, if scope = 1 then 4 else 0), (64, 192)] then completeS m r e.cid .badDescriptor
  else onAdmin m r c (fun h =>
    if scope = 0 then answerSized m r e (attestReport fz m 0 0xFF (argN e 8 24) m.parts)
    else if scope = 2 then answerSized m r e (certBytes m)
    else match partOf? m p with
      | none => completeS m r e.cid .notFound
      | some x =>
        if partHost x ≠ h then completeS m r e.cid .notPermitted
        else answerSized m r e (attestReport fz m 1 p (argN e 8 24) [(p, x)]))

/-! ### Fuses (R397) -/

/-- `FUSE_KEY`: 0x5AF0, then 0x0FA5 within 1 ms. -/
def doFuseKey (v : BitVec 32) (m : Mod) : Mod :=
  let k := fld v 0 16
  let sec := m.sec
  if k = 0x5AF0 then { m with sec := { sec with firstKey := some m.time, unlocked := false } }
  else
    let ok := k = 0x0FA5 ∧ sec.firstKey.any (fun t => m.time ≤ t + 1000000)
    { m with sec := { sec with firstKey := none, unlocked := decide ok } }

/-- A write of `FUSE_CMD`: refused with a reason, or programming begins; while programming goes on it is ignored. -/
def fuseCmd (m : Mod) (op : Except Nat FuseOp) : Mod :=
  if m.sec.state = 1 then m
  else
    let idle : Sec := { m.sec with unlocked := false, firstKey := none }
    if !m.sec.unlocked then { m with sec := { idle with state := 3, reason := 5 } }
    else match op with
      | .error why => { m with sec := { idle with state := 3, reason := why } }
      | .ok f => { m with sec := { idle with state := 1, reason := 0, busy := some f } }

/-- Revoking a root key: refused for the key of the running firmware and for the last key not revoked. -/
def revokeOp (fz : Fuses) (sec : Sec) (k : Nat) : Except Nat FuseOp :=
  if 3 < k then .error 5
  else if k = sec.bootKey then .error 1
  else if (List.range 4).all (fun j => j = k || bit fz.rootRevoked j) then .error 2
  else .ok (.revoke k)
/-- Advancing the rollback counter. -/
def rollbackOp (fz : Fuses) (sec : Sec) (v : Nat) : Except Nat FuseOp :=
  if v ≤ fz.rollback ∨ sec.fwRollback < v then .error 3 else .ok (.rollback v)
/-- Raising the debug level. -/
def debugOp (fz : Fuses) (v : Nat) : Except Nat FuseOp := if v ≤ fz.debugLevel ∨ 2 < v then .error 3 else .ok (.debug v)
/-- Blowing `JTAG_LOCK`. -/
def jtagOp (fz : Fuses) : Except Nat FuseOp := if fz.jtagLock then .error 4 else .ok .jtag
/-- Blowing `ISOLATION_LOCK`. -/
def isolationOp (fz : Fuses) : Except Nat FuseOp := if fz.isolationLock then .error 4 else .ok .isolation

/-- `OP` and `ARG` of a fuse operation. -/
def fuseOpCode : FuseOp → Nat × Nat
  | .revoke k => (1, k)
  | .rollback v => (2, v)
  | .debug v => (3, v)
  | .jtag => (4, 0)
  | .isolation => (5, 0)

/-- The fuses after an operation. -/
def blow (fz : Fuses) : FuseOp → Fuses
  | .revoke k => { fz with rootRevoked := setBit fz.rootRevoked k true }
  | .rollback v => { fz with rollback := max fz.rollback v }
  | .debug v => { fz with debugLevel := max fz.debugLevel v }
  | .jtag => { fz with jtagLock := true }
  | .isolation => { fz with isolationLock := true }

/-- Ownership checks on in every region at once (R397). -/
def forceOwnCheck (m : Mod) : Mod :=
  { m with
    sec := { m.sec with ownCheckDisable := 0 },
    regions := m.regions.map (fun r => (r.1, { r.2 with ownCheck := true })),
    parts := m.parts.map (fun p => (p.1, { p.2 with
      ownCheckOff := false,
      staged := p.2.staged.filter (fun t => match t.kind with
        | .ownCheck _ => false
        | _ => true) })) }

/-- What a blown fuse changes beside the fuse map. -/
def afterBlow (f : FuseOp) (m : Mod) : Mod :=
  match f with
  | .isolation => forceOwnCheck m
  | .debug 2 => setOwnCheck 0 m
  | _ => m

/-- `FUSE_PROGRAM_DONE`: the fuse reads as blown; a ledger entry (R474). -/
def doFuseDone (s : State) : State :=
  match s.mod.sec.busy with
  | none => s
  | some f =>
    let m1 := { s.mod with sec := { s.mod.sec with state := 2, busy := none } }
    let c := fuseOpCode f
    { s with fuses := blow s.fuses f, mod := afterBlow f (ledgerAdd m1 0 0 0 (payload [(0, 8, c.1), (8, 8, c.2), timeField m1])) }

/-! ### The commands -/

/-- `PARTITION_CREATE`. -/
def execPartitionCreate (r : RingRef) (e : SqEntry) (h : HostSide) (s : State) : Host.Outcome State Fault Refusal :=
  lift (takeCmd r e h 0x40 (runPartitionCreate s.fuses)) s
/-- `PARTITION_DESTROY`. -/
def execPartitionDestroy (r : RingRef) (e : SqEntry) (h : HostSide) (s : State) : Host.Outcome State Fault Refusal :=
  lift (takeCmd r e h 0x41 runPartitionDestroy) s
/-- `PARTITION_HOLD`. -/
def execPartitionHold (r : RingRef) (e : SqEntry) (h : HostSide) (s : State) : Host.Outcome State Fault Refusal :=
  lift (takeCmd r e h 0x42 runPartitionHold) s
/-- `PARTITION_RESUME`. -/
def execPartitionResume (r : RingRef) (e : SqEntry) (h : HostSide) (s : State) : Host.Outcome State Fault Refusal :=
  lift (takeCmd r e h 0x43 runPartitionResume) s
/-- `ATTEST`. -/
def execAttest (r : RingRef) (e : SqEntry) (h : HostSide) (s : State) : Host.Outcome State Fault Refusal :=
  lift (takeCmd r e h 0x54 (runAttest s.fuses)) s
/-- `FUSE_KEY`. -/
def execFuseKey (value : BitVec 32) (s : State) : Host.Outcome State Fault Refusal := lift (doFuseKey value) s
/-- `FUSE_REVOKE_KEY`. -/
def execFuseRevokeKey (arg : Byte) (s : State) : Host.Outcome State Fault Refusal :=
  lift (fun m => fuseCmd m (revokeOp s.fuses m.sec arg.toNat)) s
/-- `FUSE_ADVANCE_ROLLBACK`. -/
def execFuseAdvanceRollback (arg : Byte) (s : State) : Host.Outcome State Fault Refusal :=
  lift (fun m => fuseCmd m (rollbackOp s.fuses m.sec arg.toNat)) s
/-- `FUSE_RAISE_DEBUG_LEVEL`. -/
def execFuseRaiseDebugLevel (arg : Byte) (s : State) : Host.Outcome State Fault Refusal :=
  lift (fun m => fuseCmd m (debugOp s.fuses arg.toNat)) s
/-- `FUSE_JTAG_LOCK`; `ARG` has no part in it. -/
def execFuseJtagLock (_arg : Byte) (s : State) : Host.Outcome State Fault Refusal :=
  lift (fun m => fuseCmd m (jtagOp s.fuses)) s
/-- `FUSE_ISOLATION_LOCK`; `ARG` has no part in it. -/
def execFuseIsolationLock (_arg : Byte) (s : State) : Host.Outcome State Fault Refusal :=
  lift (fun m => fuseCmd m (isolationOp s.fuses)) s
/-- `FUSE_PROGRAM_DONE`. -/
def execFuseProgramDone (s : State) : Host.Outcome State Fault Refusal := .next (doFuseDone s)

end Sys2Proof.Machine
end

