-- ==== Sys2Proof/Machine/Repair.lean ====
section
/-! DEFINITION. Faults at Ringmaster, takeover, evacuation, refill (07 R249; 15_faults_and_live_service.md R449-R461). -/
namespace Sys2Proof.Machine
open Sys2Proof

/-! ### Reporting (R470, R507) -/

/-- Payload of the events of repair and live service (R470). -/
def fltPayload (m : Mod) (site standin region to_ p cause us stretch : Nat) : BitVec 192 :=
  payload [(0, 16, site), (16, 16, standin), (32, 6, region), (40, 6, to_), (48, 4, p), (56, 8, cause), (64, 32, us), (96, 32, stretch),
    timeField m]

/-- Payload of `PLAN_FAULT` (R507). -/
def planPayload (m : Mod) (p : Nat) (x : Part) (n : FaultNote) : BitVec 192 :=
  let f := if n.code < 0x20 then (siteOf m n.site).core.fault else none
  let v := (x.plan.bind (fun pl => vcoreAt pl n.site)).getD 0xFFFFFFFF
  payload [(0, 16, n.site), (16, 8, n.code), (24, 4, p), (28, 3, (f.map (fun d => d.engine)).getD 7),
    (32, 4, (f.map (fun d => d.list)).getD 0), (48, 16, (f.map (fun d => d.instr)).getD 0xFFFF), (64, 32, v), timeField m]

/-- A ledger-only entry for a hardware fault that no event entered (R474). -/
def faultEntry (m : Mod) (p : Nat) (n : FaultNote) (flags : Nat) : Mod :=
  ledgerAdd m 0 (faultClassCode n.cls) flags (fltPayload m n.site 0xFFFF (regionOf n.site) 0x3F p n.code 0 0)

/-- Microseconds since the fault a repair handles (R450). -/
def interruptUs (m : Mod) (d : Repair) : Nat := sat32 ((m.time - d.since) / 1000)

/-! ### Plan faults (R249) -/

/-- The partition is FAULTED for good: the step is discarded, SEQ_APPEND and SEQ_GENERATE complete with ABORTED. -/
def planFault (m : Mod) (p : Nat) (x : Part) (n : FaultNote) : Mod :=
  let m1 := markCores (discardStep (updPart (faultPart m p n.site n.code) p (fun y => { y with faultPlan := true })) p) p .held
  let m2 := postLedger m1 0x0401 (some p) 1 0 (planPayload m1 p x n)
  x.seqs.foldl (fun m q => endPending m p q.handle .aborted 3 q.length) m2

/-! ### The live map (R26, R453) -/

/-- The SPARE site of a region with the lowest local index. -/
def spareSite (fz : Fuses) (m : Mod) (r : Nat) : Option Nat := (sitesOf r).find? (fun s => liveClass fz m s = .spare)

/-- A site is retired: BAD in the live map and in the retirement store, its core off, its slice unpowered. -/
def retireLive (m : Mod) (s : Nat) : Mod :=
  let m1 := updSite m s (fun x => { x with
    live := some .bad, standin := false, core := { x.core with state := .off }, slice := { slicePowerOff x.slice with state := .retired } })
  { m1 with ledger := { m1.ledger with store := { m1.ledger.store with sites := mset m1.ledger.store.sites s .bad } } }

/-- An ACTIVE site is retired and nothing takes its place: the region has one ACTIVE site fewer (R31). -/
def retireActive (m : Mod) (s : Nat) : Mod :=
  updRegion (retireLive m s) (regionOf s) (fun y => { y with activeSites := y.activeSites - 1 })

/-- The site of a region that can take a role: its SPARE site of lowest index; none in a region that has lost its role or its
supply (R28, R456). -/
def standinSite (fz : Fuses) (m : Mod) (r : Nat) : Option Nat :=
  if (regionAt m r).evacuated || (regionAt m r).lost then none else spareSite fz m r

/-- A spare site takes a role: ACTIVE with `STANDIN`, its slice powered (R454 step 3). -/
def callStandin (m : Mod) (t : Nat) : Mod :=
  updSite m t (fun x => { x with 
    live := some .active, standin := true, slice := { slicePowerOff x.slice with state := .init },
    core := if x.core.state = .off then { x.core with state := .idle } else x.core })

/-- Retire a site and give its place in the region to the next spare, where there is one. -/
def replaceSite (fz : Fuses) (m : Mod) (s : Nat) : Mod × Option Nat :=
  if liveClass fz m s = .active then
    match standinSite fz m (regionOf s) with
    | some t => (callStandin (retireLive m s) t, some t)
    | none => (retireActive m s, none)
  else (retireLive m s, none)

/-! ### What a lost slice takes with it (R283, R459-R461) -/

/-- The virtual core holds pairs of the cache or twins of pairs. -/
def holdsPairs (pl : Plan) (v : Nat) : Bool := pl.pairs.any (fun k => k.vcore = v)

/-- The copy of page `g` on virtual core `v` is there and current. -/
def copyThere (x : Part) (pl : Plan) (gone : List Nat) (g v : Nat) : Bool :=
  !gone.contains v && !x.twinLeft.contains (pl.sites.getD v 0xFFFF, g)

/-- A frame slot of page `g` is lost with the virtual cores `gone`: of one pair neither copy is there. -/
def pageGone (x : Part) (pl : Plan) (gone : List Nat) (g : Nat) : Bool :=
  (planPairs pl).any (fun k =>
    let copies := (pl.pairs.filter (fun t => t.layer = k.layer && t.head = k.head)).map (fun t => t.vcore)
    copies.any (fun v => gone.contains v) && !(copies.any (copyThere x pl gone g)))

/-- The virtual core that keeps the count tables of a sequence (R340): its place, or the lowest that samples. -/
def tableCore (pl : Plan) (q : Seq) : Option Nat :=
  match q.tableAt with
  | some a => some a.1
  | none => pl.vcores.findIdx? (fun c => isSampling c.prog)

/-- The sequence whose count table is rebuilt next: of those that wait, the first in the scheduler's order (R324, R459). -/
def tableFirst (m : Mod) (x : Part) : Option (BitVec 32) :=
  let key (q : Seq) : Seq × Option Nat := (q, (oldestCmd m q).bind (fun t => deadlineOf m x q t.2))
  let qs := (x.seqs.filter (fun q => x.tableQ.contains q.handle)).map key
  (qs.foldl (fun (b : Option (Seq × Option Nat)) q => match b with
    | some a => if orderLe a q then some a else some q
    | none => some q) none).map (fun k => k.1.handle)

/-- Sequences whose count table lay on the virtual cores `gone` wait until it is rebuilt. -/
def loseTables (x : Part) (pl : Plan) (gone : List Nat) : Part :=
  let hit (q : Seq) : Bool := (tableCore pl q).any (fun v => gone.contains v && (pl.vcores[v]?).any (fun c => isSampling c.prog))
  let hs := (x.seqs.filter hit).map (fun q => q.handle)
  { x with
    seqs := x.seqs.map (fun q => if hit q then { q with tableReady := false } else q),
    tableQ := x.tableQ.filter (fun h => !hs.contains h) ++ hs }

/-- The slices of the virtual cores `gone` are lost: pages, tables, and what was still to be refilled or copied there. -/
def loseSlices (m : Mod) (p site : Nat) (x : Part) (pl : Plan) (gone : List Nat) : Mod :=
  let ss := gone.map (fun v => pl.sites.getD v 0xFFFF)
  let pages := (x.pages.filter (fun g => pageGone x pl gone g.1)).map Prod.fst
  let m1 := updPart m p (fun y => loseTables { y with
    refill := y.refill.filter (fun e => !ss.contains e.1), twinLeft := y.twinLeft.filter (fun e => !ss.contains e.1) } pl gone)
  losePages m1 p site pages

/-! ### Moving roles (R454, R455) -/

/-- Load a virtual core at its new site; it stands still until the step restarts. -/
def loadRole (md : Mode) (b : Nat) (pl : Plan) (m : Mod) (t : Nat × Nat × Nat) : Mod :=
  match pl.vcores[t.1]? with
  | some vc => updCore m t.2.2 (fun c => { (loadedCore c md vc) with state := .held, beatCount := b })
  | none => m

/-- The sites of a plan after moves. -/
def movedSites (sites : List Nat) (ts : List (Nat × Nat × Nat)) : List Nat := ts.foldl (fun l t => l.set t.1 t.2.2) sites

/-- Redirect the traffic of one moved role (R197): the router where it arrives and the new site point at each other. -/
def moveRoute (m : Mod) (p : Nat) (ds : List Nat) (t : Nat × Nat × Nat) : Mod × List Nat :=
  match (detourPairs ds).find? (fun d => d.2 = t.2.1) with
  | some d => (joinSites (setRedirect m p t.2.1 none) p (d.1, t.2.2),
      (detourPairs ds).flatMap (fun e => if e = d then [d.1, t.2.2] else [e.1, e.2]))
  | none => (joinSites m p (t.2.1, t.2.2), ds ++ [t.2.1, t.2.2])

/-- Redirect every moved role. -/
def moveRoutes (m : Mod) (p : Nat) (ds : List Nat) (ts : List (Nat × Nat × Nat)) : Mod × List Nat :=
  ts.foldl (fun (a : Mod × List Nat) t => moveRoute a.1 p a.2 t) (m, ds)

/-- Chunks a new site has to be refilled with (R457), ascending. -/
def chunksFor (pl : Plan) (v site : Nat) : List (Nat × Nat) :=
  ((List.range pl.chunks.length).filter (fun k => match pl.chunks[k]? with
    | some c => c.vcore == v && !c.streamed
    | none => false)).map (fun k => (site, k))

/-- Pages whose frame slots a new site has to be copied (R460, R461), ascending. -/
def twinsFor (x : Part) (pl : Plan) (v site : Nat) : List (Nat × Nat) :=
  if configTwin x.config && holdsPairs pl v then
    (x.pages.filter (fun g => !(g.2.state == .lost))).map (fun g => (site, g.1))
  else []

/-- The slices of a repair are READY: adapter blocks refilled (R333), redirects, refill map, pages to copy (R454 step 5,
R455 step 6). -/
def finishMoves (m : Mod) (p : Nat) : Mod :=
  match partOf? m p with
  | none => m
  | some x => match x.plan, x.repair with
    | some pl, some d =>
      let m0 := d.moves.foldl (fun m t => (x.adapters.filter (fun a => a.written)).foldl (writeBlocks pl (fun v => v == t.1)) m) m
      let r := moveRoutes m0 p pl.detours d.moves
      writeTables (updPart r.1 p (fun y => { y with
        plan := some { pl with detours := r.2 },
        refill := y.refill ++ d.moves.flatMap (fun t => chunksFor pl t.1 t.2.2),
        twinLeft := y.twinLeft ++ d.moves.flatMap (fun t => twinsFor y pl t.1 t.2.2) })) p
    | _, _ => m

/-- Begin a repair: the step stands still, roles move in the map, their cores are loaded. -/
def beginMoves (m : Mod) (p : Nat) (d : Repair) : Mod :=
  match partOf? m p with
  | none => m
  | some x => match x.plan with
    | none => updPart m p (fun y => { y with repair := some { d with moves := [] } })
    | some pl =>
      let m1 := d.moves.foldl (loadRole x.mode x.beatCount pl) m
      updPart m1 p (fun y => { y with repair := some d, plan := some { pl with sites := movedSites pl.sites d.moves } })

/-- Stop a partition for a repair: FAULTED, every core standing still (R451). -/
def stopForRepair (m : Mod) (p site code : Nat) : Mod := markCores (faultPart m p site code) p .held

/-- `FLT_TAKEOVER` (R454): site `t` holds the role of `s`. -/
def postTakeover (m : Mod) (p s t code us : Nat) : Mod :=
  postLedger (rgFlag m (regionOf s) 0) 0x0A01 none 0 0 (fltPayload m s t (regionOf s) 0x3F p code us 0)

/-- `FLT_EVACUATED` (R455): region `q` holds the role of `r`. -/
def postEvacuated (m : Mod) (p s r q us : Nat) : Mod :=
  postLedger (rgFlag m r 1) 0x0A02 none 0 0 (fltPayload m s 0xFFFF r q p 0 us 0)

/-- The site that `KV_PAGE_LOST` names on an evacuation: the lowest of the region's cache cores (R285). -/
def cacheSite (pl : Plan) (vs : List Nat) : Nat :=
  ((vs.filter (holdsPairs pl)).map (fun v => pl.sites.getD v 0xFFFF)).foldl min 0xFFFF

/-! ### A load in progress (R243) -/

/-- One role of a plan being loaded moves: its sections are loaded at the new site, its traffic redirected. -/
def moveLoad (md : Mode) (p : Nat) (a : Mod × Plan) (t : Nat × Nat × Nat) : Mod × Plan :=
  let m1 := updSlice (loadRole md 0 a.2 a.1 t) t.2.2 readySlice
  let r := moveRoute (updCore m1 t.2.2 (fun c => { c with state := .idle })) p a.2.detours t
  (r.1, { a.2 with sites := movedSites a.2.sites [t], detours := r.2 })

/-- Roles of a plan being loaded move to stand-ins; its weights are read again from the first chunk. -/
def remapLoad (m : Mod) (p : Nat) (x : Part) (l : Load) (ts : List (Nat × Nat × Nat)) : Mod :=
  let z := ts.foldl (moveLoad x.mode p) (m, l.plan)
  let m2 := updPart z.1 p (fun y => { y with load := some { l with plan := z.2 } })
  if l.headerDue then m2 else awaitChunk m2 p 0

/-- A plan being loaded finds `have_` cores in region `r`, too few for its role: the load is refused with `CORE_COUNT`. -/
def dropLoad (m : Mod) (p r have_ : Nat) : Mod :=
  match partOf? m p with
  | some x => if x.plan.isNone && x.load.isSome then failLoad m p { refuse 0x05 0 (coresPer m) have_ with region := r } else m
  | none => m

/-! ### Evacuation (R27, R29, R455, R456) -/

/-- The spare region that can take a role: WARM, no role, not lost. -/
def freeSpare (m : Mod) (r : Nat) : Option Nat :=
  (spareOrder r).find? (fun q => (regionAt m q).power.core == .warm && !(regionAt m q).standin && !(regionAt m q).lost)

/-- No spare region is free: the region is lost, and its partition stays FAULTED (R456). -/
def repairFail (m : Mod) (p site code r : Nat) : Mod :=
  let m1 := updRegion (stopForRepair (dropLoad m p r 0) p site code) r (fun y => { y with lost := true, activeSites := 0 })
  match partOf? m1 p with
  | none => postLedger m1 0x0A04 none 0 0 (fltPayload m1 site 0xFFFF r 0x3F p 1 0 0)
  | some x =>
    let m2 := updPart m1 p (fun y => { y with faultLink := true })
    let m3 := match x.plan with
      | some pl =>
        let vs := (List.range pl.sites.length).filter (fun v => regionOf (pl.sites.getD v 0) = r)
        loseSlices m2 p (cacheSite pl vs) x pl vs
      | none => m2
    postLedger m3 0x0A04 none 0 0 (fltPayload m3 site 0xFFFF r 0x3F p 1 0 0)

/-- The spare sites of a spare region: those made ACTIVE, and the surplus that becomes DISABLED (R27). -/
def spareSites (fz : Fuses) (m : Mod) (q : Nat) : List Nat × List Nat :=
  let ss := (sitesOf q).filter (fun s => liveClass fz m s = .spare)
  (ss.take (coresPer m), ss.drop (coresPer m + 2))

/-- Give the role of region `r` to the spare region `q`: maps, core domain, slices (R455 steps 3 to 5). -/
def switchRegion (fz : Fuses) (m : Mod) (r q : Nat) : Mod × List Nat :=
  let y := regionAt m r
  let z := spareSites fz m q
  let m1 := updRegion m r (fun d => { d with evacuated := true, activeSites := 0 })
  let m2 := updRegion m1 q (fun d => { d with
    standin := true, roleOf := r, activeSites := z.1.length, activeBank := y.activeBank, ownCheck := y.ownCheck,
    gateClosed := y.gateClosed, power := { d.power with core := .on } })
  let m3 := forAll m2 z.1 callStandin
  let m4 := forAll m3 z.2 (fun m s => updSite m s (fun x => { x with live := some .disabled }))
  (retargetRegion m4 q, z.1)

/-- The sites of a lost region stop, and their slices lose their contents (R422). -/
def darkSites (m : Mod) (r : Nat) : Mod :=
  forAll m (sitesOf r) (fun m s => updSite m s (fun x => { x with
    core := { x.core with state := .off }, slice := slicePowerOff x.slice }))

/-- Evacuate a region (R455); `p` may name no partition. -/
def evacuate (fz : Fuses) (m : Mod) (p site code r : Nat) : Mod :=
  if (regionAt m r).evacuated ∨ (regionAt m r).lost then m
  else match (if isSpareRegion r then none else freeSpare m r) with
  | none => repairFail m p site code r
  | some q =>
    let old := match partOf? m p with
      | some x => partSites x
      | none => []
    let vs := (List.range old.length).filter (fun v => regionOf (old.getD v 0) = r)
    let m1 := match partOf? m p with
      | some x => match x.plan with
        | some pl => loseSlices (stopForRepair m p site code) p (cacheSite pl vs) x pl vs
        | none => m
      | none => m
    let s := switchRegion fz m1 r q
    let m2 := darkSites s.1 r
    let moves := (vs.zip s.2).map (fun t => (t.1, old.getD t.1 0, t.2))
    let d : Repair := { code := code, site := site, standin := 0xFFFF, region := r, toRegion := q, evacuation := true, restart := false,
                        moves := moves, awaited := s.2, since := m.time }
    match partOf? m2 p with
    | none => postEvacuated m2 p site r q 0
    | some x => match x.plan, x.load with
      | none, some l => postEvacuated (remapLoad m2 p x l moves) p site r q 0
      | _, _ => updRegion (beginMoves m2 p d) q (fun y => { y with repairing := true })

/-! ### Takeover (R453, R454) -/

/-- Retire a site that holds no virtual core: the next spare is ACTIVE in its place. -/
def retireIdle (fz : Fuses) (m : Mod) (p s code : Nat) : Mod × Option Nat :=
  let z := replaceSite fz m s
  match z.2 with
  | some t => (postTakeover z.1 p s t code 0, some t)
  | none => z

/-- Retire a site; where it holds a role, a stand-in takes it, or its region is evacuated. -/
def takeover (fz : Fuses) (m : Mod) (p s code : Nat) : Mod :=
  if liveClass fz m s = .bad then m
  else match partOf? m p with
  | none => (retireIdle fz m p s code).1
  | some x => match x.plan, x.load with
    | none, some l =>
      match vcoreAt l.plan s, standinSite fz m (regionOf s) with
      | some v, some t => remapLoad (retireIdle fz m p s code).1 p x l [(v, s, t)]
      | some _, none =>
        let m1 := retireActive m s
        dropLoad m1 p (regionOf s) (regionAt m1 (regionOf s)).activeSites
      | none, _ => (retireIdle fz m p s code).1
    | none, none => (retireIdle fz m p s code).1
    | some pl, _ => match vcoreAt pl s with
      | none => (retireIdle fz m p s code).1
      | some v =>
        match standinSite fz m (regionOf s) with
        | none => evacuate fz (retireActive m s) p s code (regionOf s)
        | some t =>
          let m1 := loseSlices (stopForRepair m p s code) p s x pl [v]
          let m2 := (replaceSite fz m1 s).1
          let d : Repair := { code := code, site := s, standin := t, region := regionOf s, toRegion := 0x3F, evacuation := false,
                              restart := false, moves := [(v, s, t)], awaited := [t], since := m.time }
          updRegion (beginMoves m2 p d) (regionOf s) (fun y => { y with repairing := true })

/-- Stop for a step restart alone: nothing is retired (R449). -/
def beginRestart (m : Mod) (p : Nat) (n : FaultNote) : Mod :=
  updPart (stopForRepair m p n.site n.code) p (fun y => { y with
    repair := some { code := n.code, site := n.site, standin := 0xFFFF, region := regionOf n.site, toRegion := 0x3F,
                     evacuation := false, restart := true, moves := [], awaited := [], since := m.time } })

/-- The partition stays FAULTED until its partner answers (R370). -/
def partnerStall (m : Mod) (p : Nat) (n : FaultNote) : Mod :=
  updPart (faultPart m p n.site n.code) p (fun y => { y with faultStall := true })

/-! ### Faults reported (R249, R449, R453, R468) -/

/-- Ringmaster handles one fault of a partition. -/
def handleFault (fz : Fuses) (m : Mod) (p : Nat) (n : FaultNote) : Mod :=
  let x? := partOf? m p
  match n.cls with
  | .plan => match x? with
    | some x => if x.plan.isSome then planFault m p x n else m
    | none => m
  | .partner => partnerStall m p n
  | .fabric => beginRestart (faultEntry m p n 0) p n
  | .core => takeover fz (faultEntry m p n 4) p n.site n.code
  | .memory =>
    if n.code = 0 then takeover fz m p n.site 0
    else
      let m1 := faultEntry m p n 0
      if !n.partner && (siteOf m n.site).slice.bankRetired.isSome then takeover fz m1 p n.site n.code
      else beginRestart m1 p n
  | .supply => evacuate fz m p 0xFFFF n.code (regionOf n.site)

/-- A repair of the partition goes on, or the region's controller restarts: the fault waits (R468). -/
def faultWaits (m : Mod) (p : Nat) (n : FaultNote) : Bool :=
  match partOf? m p with
  | some x => x.repair.isSome || (regionAt m (regionOf n.site)).fwRestart
  | none => false

/-- Handle a fault now or later. -/
def takeFault (fz : Fuses) (m : Mod) (p : Nat) (n : FaultNote) : Mod :=
  if faultWaits m p n then
    let site := if n.cls = .supply then 0xFFFF else n.site
    updPart (faultPart m p site n.code) p (fun y => { y with faultQ := y.faultQ ++ [n] })
  else handleFault fz m p n

/-- `FAULT_REPORT`: Ringmaster takes the oldest report. -/
def doFaultReport (fz : Fuses) (m : Mod) : Mod :=
  match m.fabric.reports with
  | [] => m
  | (p, n) :: rest =>
    if rmAlive m then takeFault fz { m with fabric := { m.fabric with reports := rest } } p n else m

/-- `SCORE_RECEIVED`: a score or gross result is taken, and a site with a third gross entry within 600 s is retired as a core
hardware fault (R131, R453). -/
def doScoreReceived (fz : Fuses) (p : Nat) (m : Mod) : Mod :=
  let m1 := doScore p m
  match (partOf? m p).bind (fun x => x.scores.head?) with
  | some sc =>
    if rmAlive m && sc.gross.isSome && (siteOf m1 sc.site).env.gross != (siteOf m sc.site).env.gross
        && decide (3 ≤ grossRecent m1 sc.site) then
      takeFault fz m1 p { site := sc.site, code := 0, cls := .core, partner := false }
    else m1
  | none => m1

/-- The faults that waited, as far as they can be handled now. -/
def nextFault (fz : Fuses) (m : Mod) (p : Nat) : Mod :=
  match partOf? m p with
  | none => m
  | some x => match x.faultQ with
    | [] => m
    | n :: rest =>
      if faultWaits m p n then m else handleFault fz (updPart m p (fun y => { y with faultQ := rest })) p n

/-- `SLICE_READY`: a slice powered for a repair serves; when the last is ready the roles move (R171, R454 step 4). -/
def doSliceReady (s : Nat) (m : Mod) : Mod :=
  if (siteOf m s).slice.state = .init then
    let m1 := updSlice m s readySlice
    forAll m1 (partIds m1) (fun m p => match partOf? m p with
      | none => m
      | some x => match x.repair with
        | none => m
        | some d =>
          if d.awaited.contains s then
            let left := d.awaited.filter (fun t => t != s)
            let m2 := updPart m p (fun y => { y with repair := some { d with awaited := left } })
            if left.isEmpty then finishMoves m2 p else m2
          else m)
  else m

/-! ### Refill, count tables, twins (R457-R461) -/

/-- The refill source of a partition can be read: it is a store, or the partition is not held for HOST (R457, R468). -/
def refillRuns (m : Mod) (x : Part) (pl : Plan) : Bool := pl.source = 1 || registered m pl || !x.holdHost

/-- `REFILL_CHUNK_DONE`: every line of the next chunk of a stand-in arrives and its CRC verifies. -/
def doRefillChunk (p s : Nat) (bs : List Byte) (m : Mod) : Mod :=
  match partOf? m p with
  | none => m
  | some x => match x.plan, x.refill.find? (fun e => e.1 = s) with
    | some pl, some e => match pl.chunks[e.2]?, pl.vcores[((pl.chunks[e.2]?).map (fun c => c.vcore)).getD 0]? with
      | some c, some vc =>
        if !refillRuns m x pl || bs.length != 72 * c.lines || crc32c bs != c.crc then m
        else
          let m1 := writeLines m s (vc.vsegBase.getD c.vseg 0 + c.voff) (bytesLines bs) []
          let left := x.refill.filter (fun t => t != e)
          let m2 := updPart m1 p (fun y => { y with refill := left })
          if left.any (fun t => t.1 = s) then m2
          else postLedger (rgFlag m2 (regionOf s) 2) 0x0A05 none 0 0
            (fltPayload m2 0xFFFF s (regionOf s) 0x3F p 0 0 x.stretchUs)
      | _, _ => m
    | _, _ => m

/-- `COUNT_TABLE_REBUILT`: the table of the sequence whose turn it is is written; it may take steps again (R459). -/
def doTableRebuilt (p : Nat) (h : BitVec 32) (m : Mod) : Mod :=
  match partOf? m p with
  | none => m
  | some x =>
    if tableFirst m x = some h then
      kick (writeCounts (updPart m p (fun y => { (pSeq y h (fun q => { q with tableReady := true })) with
        tableQ := y.tableQ.filter (fun k => k != h) })) p h) p
    else m

/-- Copy the frame slots of page `g` that virtual core `v` holds from where the other copies lie (R460, R461). -/
def copyTwins (m : Mod) (pl : Plan) (f : Packed) (v s g : Nat) : Mod :=
  (pl.pairs.filter (fun k => k.vcore = v)).foldl (fun m k =>
    match pl.pairs.find? (fun t => t.layer = k.layer && t.head = k.head && t.twin != k.twin) with
    | none => m
    | some t => match frameLine pl f v k.twin k.layer k.head g, frameLine pl f t.vcore t.twin k.layer k.head g, pl.sites[t.vcore]? with
      | some d, some a, some u =>
        let r := readLines m u a (2 * runLen f) []
        writeLines r.1 s d r.2 []
      | _, _, _ => m) m

/-- `TWIN_PAGE_COPIED`: the first stand-in that still waits for page `g` receives its frame slots; the transfer's reference to
the page (R268) is taken and given back within the command. -/
def doTwinCopied (p g : Nat) (m : Mod) : Mod :=
  match partOf? m p with
  | none => m
  | some x => match x.plan, x.twinLeft.find? (fun e => e.2 = g) with
    | some pl, some e => match vcoreAt pl e.1, packedOf pl.cacheFormat with
      | some v, some f =>
        let m1 := copyTwins (updPart m p (fun y => addRef y g)) pl f v e.1 g
        let left := x.twinLeft.filter (fun t => t != e)
        let m2 := updPart m1 p (fun y => { dropRef y g with twinLeft := left })
        if left.any (fun t => t.1 = e.1) then m2
        else postLedger (rgFlag m2 (regionOf e.1) 3) 0x0A06 none 0 0
          (fltPayload m2 0xFFFF e.1 (regionOf e.1) 0x3F p 0 0 x.stretchUs)
      | _, _ => m
    | _, _ => m

/-! ### The commands -/

/-- `FAULT_REPORT`. -/
def execFaultReport (s : State) : Host.Outcome State Fault Refusal := lift (doFaultReport s.fuses) s
/-- `SCORE_RECEIVED`. -/
def execScoreReceived (p : PartId) (s : State) : Host.Outcome State Fault Refusal := lift (doScoreReceived s.fuses p.val) s
/-- `SLICE_READY`. -/
def execSliceReady (site : SiteId) (s : State) : Host.Outcome State Fault Refusal := lift (doSliceReady site.val) s
/-- `REFILL_CHUNK_DONE`. -/
def execRefillChunkDone (p : PartId) (site : SiteId) (payload : List Byte) (s : State) : Host.Outcome State Fault Refusal :=
  lift (doRefillChunk p.val site.val payload) s
/-- `COUNT_TABLE_REBUILT`. -/
def execCountTableRebuilt (p : PartId) (handle : BitVec 32) (s : State) : Host.Outcome State Fault Refusal :=
  lift (doTableRebuilt p.val handle) s
/-- `TWIN_PAGE_COPIED`. -/
def execTwinPageCopied (p : PartId) (page : Fin 16777216) (s : State) : Host.Outcome State Fault Refusal :=
  lift (doTwinCopied p.val page.val) s

end Sys2Proof.Machine
end

