-- ==== Sys2Proof/Machine/LedgerTime.lean ====
section
/-! DEFINITION. The Tally ledger, device time and calendar time, and what stays when power goes
(16_tally_ledger_and_time.md; 17 R488-R490). -/
namespace Sys2Proof.Machine
open Sys2Proof

/-! ### What a commit writes (R471, R475) -/

/-- Saturating 64-bit count. -/
def sat64 (n : Nat) : Nat := min n 0xFFFFFFFFFFFFFFFF

/-- The retirement store as it stands: before the maps are loaded (R481 step 6) it is the one read at start-up. -/
def storeNow (m : Mod) : RetireStore :=
  if m.startup.step < 5 then m.ledger.store
  else { m.ledger.store with
    live := m.sites.filterMap (fun s => s.2.live.map (fun c => (s.1, c))),
    standins := (m.sites.filter (fun s => s.2.standin)).map Prod.fst,
    evacuated := (m.regions.filter (fun r => r.2.evacuated)).map Prod.fst,
    regionStandins := (m.regions.filter (fun r => r.2.standin)).map Prod.fst,
    remaps := m.sites.flatMap (fun s => s.2.slice.banks.filterMap (fun b =>
      if b.2.remap.isEmpty then none else some (s.1, b.1, b.2.remap))),
    erasures := m.sites.flatMap (fun s => s.2.slice.banks.filterMap (fun b =>
      if b.2.erasure = 0 then none else some (s.1, b.1, b.2.erasure))),
    derates := (m.sites.filter (fun s => s.2.env.crack)).map Prod.fst,
    suspects := m.sites.flatMap (fun s =>
      (if s.2.env.dSuspect then [(s.1, false)] else []) ++ (if s.2.env.oSuspect then [(s.1, true)] else [])) }

/-- Add the counts of this run to those of the runs before, site by site. -/
def addRuns {α : Type} (m : Mod) (base : SMap α) (f : Nat → Site → Option α) : SMap α :=
  m.sites.foldl (fun a s => match f s.1 s.2 with
    | some v => mset a s.1 v
    | none => a) base

/-- A pair of counts, if any is not 0. -/
def countPair (a b : Nat) : Option (Nat × Nat) := if a = 0 ∧ b = 0 then none else some (a, b)

/-- Counts of a region, this run added. -/
def regionCounts (m : Mod) (n : Nat) : Nat × List Nat × Nat × Nat :=
  let b := mget m.ledger.counters.regions n (0, List.replicate 23 0, 0, 0)
  let y := regionAt m n
  (sat32 (b.1 + y.clock.onSeconds),
   (List.range 23).map (fun k => sat32 (b.2.1.getD k 0 + y.clock.bins.getD k 0)),
   sat32 (b.2.2.1 + y.clock.throttleSeconds), sat16 (b.2.2.2 + y.supplyFaults))

/-- The counter block as it stands. -/
def countersNow (m : Mod) : Counters :=
  let b := m.ledger.counters
  { regions := m.regions.foldl (fun a n => mset a n.1 (regionCounts m n.1)) b.regions,
    cells := addRuns m b.cells (fun s x =>
      let v := sat64 (mget b.cells s 0 + x.env.integral / 10)
      if v = 0 then none else some v),
    slices := addRuns m b.slices (fun _ x => countPair (sat64 x.slice.act) (sat64 x.slice.tref)),
    scratch := addRuns m b.scratch (fun s x =>
      let v := mget b.scratch s (0, 0)
      countPair (sat32 (v.1 + x.core.scratchCE)) (sat32 (v.2 + x.core.scratchUE))),
    gross := addRuns m b.gross (fun s x =>
      let v := sat32 (mget b.gross s 0 + x.env.gross)
      if v = 0 then none else some v),
    minclk := m.thm.minclkCount, energy := m.pwr.energy, firstUtc := b.firstUtc, firstUtcTime := b.firstUtcTime }

/-! ### Commits (R472) -/

/-- The copy in force. -/
def copyNow (l : Ledger) : LedgerCopy := if l.useB then l.copyB else l.copyA

/-- Put a copy in place of the one not in force. -/
def putOther (l : Ledger) (c : LedgerCopy) : Ledger := if l.useB then { l with copyA := c } else { l with copyB := c }

/-- A commit begins: the other copy is being written, and does not count until it is verified. -/
def beginCommit (m : Mod) : Mod :=
  let l := m.ledger
  let c : LedgerCopy :=
    { valid := false, commitSeq := (copyNow l).commitSeq + 1, time := m.time, next := l.next, entries := l.entries,
      store := storeNow m, counters := countersNow m }
  { m with ledger := { putOther l c with committing := true, again := false } }

/-- A commit is verified: the copy written is in force. -/
def endCommit (m : Mod) : Mod :=
  let l := m.ledger
  let c := if l.useB then l.copyA else l.copyB
  { m with ledger := { putOther l { c with valid := true } with
      committing := false, useB := !l.useB, committedNext := c.next, wear := l.wear + 1 } }

/-- The ledger is in use: a copy has been selected (R481 step 3). -/
def ledgerUp (m : Mod) : Bool := decide (3 ≤ m.startup.step)

/-- `LEDGER_COMMIT_TIMER`. -/
def doCommitTimer (m : Mod) : Mod := if ledgerUp m && rmAlive m && !m.ledger.committing then beginCommit m else m

/-- `LEDGER_COMMIT_DONE`. -/
def doCommitDone (m : Mod) : Mod :=
  if m.ledger.committing then
    let m1 := endCommit m
    if m.ledger.again then beginCommit m1 else m1
  else m

/-- A whole commit, after the one in progress (R488 step 6). -/
def commitNow (m : Mod) : Mod :=
  if ledgerUp m then endCommit (beginCommit (if m.ledger.committing then endCommit m else m)) else m

/-! ### The last gasp (R473) -/

/-- Power-on time of the regions since the last commit. -/
def onTimeSince (m : Mod) : SMap Nat :=
  (m.regions.map (fun n =>
    (n.1, (regionCounts m n.1).1 - (mget (copyNow m.ledger).counters.regions n.1 (0, [], 0, 0)).1))).filter (fun e => e.2 != 0)

/-- The last-gasp record; `cause` is 1 for VIN, 2 for the thermal limit. None before step 3 (R490). -/
def lastGasp (cause : Nat) (m : Mod) : Mod :=
  if ledgerUp m then
    let es := m.ledger.entries.filter (fun e => m.ledger.committedNext ≤ e.seq)
    let g : LastGasp :=
      { time := m.time, cause := cause, entries := es.take 48, lost := es.length - 48, onTime := onTimeSince m,
        energy := m.pwr.energy - (copyNow m.ledger).counters.energy }
    { m with ledger := { m.ledger with gasp := some g } }
  else m

/-! ### Power goes (R408, R488-R490) -/

/-- What a host site keeps when the module is off: the host's own memory. -/
def hostOff (x : HostSite) : HostSite := { HostSite.reset with mem := x.mem, rejects := x.rejects }

/-- Steps 5 and 7 of R488: ring service ends, every domain but the management domains goes off. -/
def domainsOff (m : Mod) : Mod :=
  { m with
    sites := [], regions := [], parts := [], hosts := m.hosts.map hostOff, groups := Mod.reset.groups, partners := [], requests := [],
    outMsgs := [], inMsgs := [], fabric := Fabric.reset, limits := none,
    pwr := { Pwr.reset with vinMv := m.pwr.vinMv, vinOk := m.pwr.vinOk, energy := m.pwr.energy, mgmtOn := m.pwr.mgmtOn },
    thm := { Thm.reset with inletDc := m.thm.inletDc, outletDc := m.thm.outletDc, dpDkpa := m.thm.dpDkpa, flowDl := m.thm.flowDl,
                            heatDl := m.thm.heatDl, minclkCount := m.thm.minclkCount },
    clk := { m.clk with fclkWLock := false, fclkELock := false, sclkLock := false, wMhz := 0, eMhz := 0 },
    rm := { m.rm with activation := none },
    pins := { m.pins with pwrGood := false } }

/-- Every converter is off: what stays is in flash, in the fuses, on `CTL_VDD` or at the host. -/
def allOff (m : Mod) : Mod :=
  { Mod.reset with
    hosts := m.hosts.map hostOff,
    ledger := { Ledger.reset with
      copyA := m.ledger.copyA, copyB := m.ledger.copyB, useB := m.ledger.useB, wear := m.ledger.wear, gasp := m.ledger.gasp },
    rm := { Rm.reset with fw := m.rm.fw, configA := m.rm.configA, configB := m.rm.configB },
    pins := { m.pins with pwrGood := false, smbAlert := false },
    startup := { Startup.reset with tripped := m.startup.tripped },
    time := m.time, freeCount := m.freeCount }

/-- The status byte of the SMBus (R518). -/
def smbByte (m : Mod) : Nat :=
  b2n m.pins.pwrGood + 2 * b2n m.pins.fault + 4 * b2n m.thm.minclk + 8 * b2n m.startup.shutdown + 16 * b2n m.startup.lastTrip

/-- `SMB_ALERT_N` is asserted when the start code or the status byte changes while the port answers (R518). -/
def smbWatch (f : Mod → Mod) (m : Mod) : Mod :=
  let m1 := f m
  if m1.pwr.mgmtOn != 0 && (m1.startup.code != m.startup.code || smbByte m1 != smbByte m) then
    { m1 with pins := { m1.pins with smbAlert := true } }
  else m1

/-! ### LEDGER_READ (R479) -/

/-- Bytes of a ledger entry (R474). -/
def entryBytes (e : LedgerEntry) : List Byte :=
  leBytes 8 e.seq ++ leBytes 8 e.time ++ leBytes 8 e.utc ++ leBytes 2 e.event ++ leBytes 1 e.cls ++ leBytes 1 e.flags ++ leBytes 4 0
    ++ leBytes 24 e.payload.toNat ++ leBytes 8 0

/-- `LDG_STATUS` (R480). -/
def ldgStatus (l : Ledger) : Nat :=
  b2n l.useB + 2 * b2n l.utcValid + 4 * b2n l.merged + 8 * b2n l.committing + 16 * b2n l.otherInvalid

/-- `LDG_WEAR`: commits made against one every 60 s for 20 years. -/
def ldgWear (l : Ledger) : Nat := min 255 (l.wear * 100 / 10519200)

/-- `LDG_UTC_OFFSET` as 64 bits. -/
def ldgOffset (l : Ledger) : Nat := (BitVec.ofInt 64 (if l.utcValid then l.utcOffset else 0)).toNat

/-- The summary record. -/
def ldgSummary (m : Mod) : List Byte :=
  let l := m.ledger
  leBytes 4 (ldgStatus l) ++ leBytes 4 (ldgWear l) ++ leBytes 8 m.time ++ leBytes 8 (ldgOffset l) ++ leBytes 8 (copyNow l).commitSeq
    ++ leBytes 8 l.next ++ leBytes 8 ((l.entries.head?.map (fun e => e.seq)).getD l.next) ++ leBytes 8 l.counters.firstUtc
    ++ leBytes 8 l.counters.firstUtcTime

/-- A region record. -/
def regionRecord (c : Counters) (n : Nat) : List Byte :=
  let r := mget c.regions n (0, [], 0, 0)
  leBytes 4 n ++ leBytes 4 r.1 ++ (List.range 23).flatMap (fun k => leBytes 4 (r.2.1.getD k 0)) ++ leBytes 4 r.2.2.1
    ++ leBytes 2 r.2.2.2 ++ leBytes 22 0

/-- A cell record. -/
def cellRecord (st : RetireStore) (c : Counters) (s : Nat) : List Byte :=
  leBytes 2 s ++ leBytes 1 (b2n (st.derates.contains s) + 2 * b2n (st.suspects.contains (s, false)) + 4 * b2n (st.suspects.contains (s, true)))
    ++ leBytes 5 0 ++ leBytes 8 (mget c.cells s 0)

/-- A site record. -/
def siteRecord (st : RetireStore) (c : Counters) (s : Nat) : List Byte :=
  let rows := ((st.remaps.filter (fun b => b.1 = s)).map (fun b => b.2.2.length)).sum
  let cols := ((st.erasures.filter (fun b => b.1 = s)).map (fun b => (bitsOf b.2.2).length)).sum
  let bank := ((st.banks.find? (fun b => b.1 = s)).map (fun b => b.2 + 0x8000)).getD 0
  let a := mget c.slices s (0, 0)
  let e := mget c.scratch s (0, 0)
  leBytes 2 s ++ leBytes 2 rows ++ leBytes 1 cols ++ leBytes 1 0 ++ leBytes 2 bank ++ leBytes 8 a.1 ++ leBytes 8 a.2 ++ leBytes 4 e.1
    ++ leBytes 4 e.2 ++ leBytes 4 (mget c.gross s 0) ++ leBytes 12 0

/-- Records of a selector from `FROM` on, at most as many as a buffer of `len` bytes takes, and the value that continues. -/
def ledgerRecords (m : Mod) (sel n len : Nat) : Option (List (List Byte) × Nat) :=
  let c := copyNow m.ledger
  match sel with
  | 0 => some (if 64 ≤ len then [ldgSummary m] else [], 0)
  | 1 => some (((m.ledger.entries.filter (fun e => n ≤ e.seq)).take (len / 64)).map entryBytes, m.ledger.next)
  | 2 =>
    let k := min (len / 128) (64 - n)
    some ((List.range k).map (fun i => regionRecord c.counters (n + i)), n + k)
  | 3 =>
    let k := min (len / 16) (1536 - n)
    some ((List.range k).map (fun i => cellRecord c.store c.counters (n + i)), n + k)
  | 4 =>
    let k := min (len / 48) (1536 - n)
    some ((List.range k).map (fun i => siteRecord c.store c.counters (n + i)), n + k)
  | _ => none

/-- LEDGER_READ. -/
def runLedgerRead (m : Mod) (r : RingRef) (c : Cmd) : Mod :=
  let e := c.entry
  if !entryClean e false true false [(0, 8), (64, 64)] then completeS m r e.cid .badDescriptor
  else onAdmin m r c (fun _ => match ledgerRecords m (argN e 0 1) (argN e 8 8) e.len0.toNat with
    | none => completeS m r e.cid .notFound
    | some (rs, next) =>
      let k := compl e.cid .ok
      complete (if rs.isEmpty then m else bufWrite m r e.cid e.addr0.toNat rs.flatten) r
        { k with result0 := rs.length, result1 := next })

/-! ### TIME_SET (R477, R478) -/

/-- 2020-01-01 in nanoseconds since 1970. -/
def utcFirst : Nat := 1577836800 * 10 ^ 9

/-- TIME_SET. -/
def runTimeSet (m : Mod) (r : RingRef) (c : Cmd) : Mod :=
  let e := c.entry
  let utc := argN e 8 8
  if !entryClean e false false false [(64, 64)] || utc < utcFirst then completeS m r e.cid .badDescriptor
  else onAdmin m r c (fun _ =>
    let l := m.ledger
    let t := c.decodeTime
    let off : Int := (utc : Int) - (t : Int)
    let first : Bool := l.counters.firstUtc == 0
    let m1 := { m with ledger := { l with
      utcValid := true, utcOffset := off,
      counters := if first then { l.counters with firstUtc := utc, firstUtcTime := t } else l.counters } }
    let m2 := ledgerAdd m1 0 0 0 (payload [(0, 64, ldgOffset l), (64, 64, (BitVec.ofInt 64 off).toNat)])
    let k := compl e.cid .ok
    complete m2 r { k with result1 := t })

/-! ### The commands -/

/-- `LEDGER_COMMIT_TIMER`. -/
def execLedgerCommitTimer (s : State) : Host.Outcome State Fault Refusal := lift doCommitTimer s
/-- `LEDGER_COMMIT_DONE`. -/
def execLedgerCommitDone (s : State) : Host.Outcome State Fault Refusal := lift doCommitDone s
/-- `LEDGER_READ`. -/
def execLedgerRead (r : RingRef) (e : SqEntry) (h : HostSide) (s : State) : Host.Outcome State Fault Refusal :=
  lift (takeCmd r e h 0x50 runLedgerRead) s
/-- `TIME_SET`. -/
def execTimeSet (r : RingRef) (e : SqEntry) (h : HostSide) (s : State) : Host.Outcome State Fault Refusal :=
  lift (takeCmd r e h 0x51 runTimeSet) s

end Sys2Proof.Machine
end

