-- ==== Sys2Proof/Machine/Power.lean ====
section
/-! DEFINITION. Power: switched domains, ramps, the current guard, cells, supply losses (13_power_delivery.md). -/
namespace Sys2Proof.Machine
open Sys2Proof

/-! ### Events (R427) -/

/-- Payload of the power events. -/
def pwrPayload (m : Mod) (region loc sensor cause cells value dev : Nat) : BitVec 192 :=
  payload [(0, 6, region), (8, 5, loc), (13, 3, sensor), (16, 8, cause), (24, 3, cells), (32, 16, value), (48, 16, dev), timeField m]

/-- Failed cells of a region as the registers show them. -/
def cellsShown (m : Mod) (r : Nat) : Nat := min 7 (cellsFailed (regionAt m r).power)

/-! ### Ramps (R420) -/

/-- The regions of a quadrant. -/
def quadRegions (q : Nat) : List Nat := (List.range 64).filter (fun r => quadrantOf r == q)
/-- The region of a quadrant that ramps. -/
def ramping (m : Mod) (q : Nat) : Option Nat := (quadRegions q).find? (fun r => (regionAt m r).power.core == .ramp)
/-- The lowest region of a quadrant that waits. -/
def waiting (m : Mod) (q : Nat) : Option Nat := (quadRegions q).find? (fun r => (regionAt m r).power.core == .wait)

/-- The next waiting region of a quadrant starts, when none ramps and the stage has 600 W to spare. -/
def startNext (m : Mod) (q : Nat) : Mod :=
  if (ramping m q).isSome ∨ 8000 < m.pwr.quadW.getD q 0 + 600 then m
  else match waiting m q with
    | some r => updPower m r (fun y => { y with core := .ramp, waitSince := none })
    | none => m

/-- The headroom cap that region `r` laid on its quadrant ends; a cap that another region laid stays (R420). -/
def liftCap (m : Mod) (r : Nat) : Mod :=
  let qs := quadRegions (quadrantOf r)
  let m1 := updPower m r (fun y => { y with capping := false })
  forAll m1 qs (fun m t =>
    if qs.any (fun u => u != t && (regionAt m1 u).power.capping) then m else updPower m t (fun y => { y with capped := false }))

/-- The core domain of a region carries power: the sites that are ACTIVE get their gates and slices (R168, R409). -/
def lightSites (fz : Fuses) (m : Mod) (r : Nat) : Mod :=
  forAll m (sitesOf r) (fun m s =>
    if liveClass fz m s = .active then updSite m s (fun x => { x with
      core := { x.core with state := .idle }, slice := { slicePowerOff x.slice with state := .init } })
    else m)

/-! ### Supply loss (R422) -/

/-- One feed of a region's fabric is lost; with the second its links go down (R411). -/
def loseFeed (m : Mod) (r : Nat) (b : Bool) : Mod :=
  let y := (regionAt m r).power
  if (if b then y.feedB else y.feedA) then
    let m1 := updPower m r (fun z => if b then { z with feedB := false } else { z with feedA := false })
    let m2 := post (pwrFlag m1 3) 0x0804 none (pwrPayload m1 r 0x1F 0 (1 + b2n b) (cellsShown m1 r) 0 0)
    if (if b then y.feedA else y.feedB) then m2
    else forAll m2 ((sitesOf r).flatMap (fun s => ((List.range 4).filter (fun p => (neighbour s p).isSome)).map (linkOf s)))
      (fun m l => doLinkDown l m)
  else m

/-- A region needs a repair because its supply is gone: now, or when Ringmaster takes the report. -/
def reportSupply (fz : Fuses) (m : Mod) (r : Nat) : Mod :=
  let p := (servedBy m r).getD 16
  let n : FaultNote := { site := siteAt r 0, code := 0, cls := .supply, partner := false }
  if isSpareRegion r && !(regionAt m r).standin then updRegion m r (fun y => { y with lost := true })
  else if rmAlive m then takeFault fz m p n
  else report m p n

/-- The core domain of a region is lost; causes 1 to 3 also stop its converter (R422). -/
def dropSupply (m : Mod) (r cause : Nat) : Mod :=
  let conv : Bool := decide (cause < 4)
  let k := cellsShown m r
  let m1 := updRegion m r (fun y => { y with
    supplyFaults := sat16 (y.supplyFaults + 1),
    power := { y.power with
      core := .lost, efuse := y.power.efuse || conv, vmidMv := if conv then 0 else y.power.vmidMv, vmidDa := 0, throttle := false,
      fraction := 16, waitSince := none } })
  let m2 := retargetClock (darkSites m1 r) r
  let st := m2.ledger.store
  let m3 := { m2 with ledger := { m2.ledger with store := { st with regions := if st.regions.contains r then st.regions else st.regions ++ [r] } } }
  let m4 := if conv then loseFeed (loseFeed m3 (r ^^^ 1) false) (r ^^^ 8) true else m3
  let m5 := noteRegionFault m4 r 0xFFFF 0 .supply
  postLedger (pwrFlag m5 2) 0x0803 none 5 0 (pwrPayload m5 r 0x1F 0 cause k 0 0)

/-- A supply is lost while the module runs: its partition needs a repair (R422, R455). -/
def supplyLoss (fz : Fuses) (m : Mod) (r cause : Nat) : Mod :=
  if (regionAt m r).power.core = .lost then m
  else startNext (reportSupply fz (dropSupply (liftCap m r) r cause) r) (quadrantOf r)

/-- Cause codes of R427. -/
def causeCode : SupplyCause → Nat
  | .efuse => 1
  | .undervoltage => 2
  | .converter => 3
  | .fifthCell => 4

/-! ### Switching domains (R408, R409) -/

/-- Answer a domain command. -/
def cmdAnswer (m : Mod) (reason : Nat) : Mod := { m with pwr := { m.pwr with cmdRefused := reason != 0, reason := reason } }

/-- Switch the core domain of an idle service region. -/
def switchCore (m : Mod) (r : Nat) (on : Bool) : Mod :=
  match (regionAt m r).power.core, on with
  | .off, true => startNext (updPower m r (fun y => { y with core := .wait, waitSince := some m.time })) (quadrantOf r)
  | .lost, _ => m
  | _, true => m
  | _, false =>
    startNext (retargetClock (darkSites (updPower (liftCap m r) r (fun y => { y with core := .off, waitSince := none, throttle := false, fraction := 16 })) r) r)
      (quadrantOf r)

/-- Switch a seam domain: with either half off, every crossing is down (R22, R202). -/
def switchSeam (m : Mod) (half : Nat) (on : Bool) : Mod :=
  let m1 := { m with pwr := { m.pwr with seamOn := setBit m.pwr.seamOn half on } }
  if on then m1 else seamFalls (fun _ => false) m1

/-- `DOMAIN_CMD`: a write of `PWR_DOMAIN_CMD`. -/
def doDomainCmd (v : BitVec 32) (m : Mod) : Mod :=
  let d := fld v 0 8
  let on := bit v 8
  if 151 < d then cmdAnswer m 5
  else if d < 64 then
    if isSpareRegion d then cmdAnswer m 1
    else if (regionOwner m d).isSome || (regionAt m d).evacuated then cmdAnswer m 2
    else cmdAnswer (switchCore m d on) 0
  else if 128 ≤ d ∧ d < 144 then
    let y := groupOf m (d - 128)
    if y.enable || y.owner.isSome then cmdAnswer m 3
    else cmdAnswer (updGroup m (d - 128) (fun z => { z with domainOn := on })) 0
  else if d = 148 ∨ d = 149 then
    if (partIds m).any (ownsSeam m) then cmdAnswer m 4 else cmdAnswer (switchSeam m (d - 148) on) 0
  else cmdAnswer m 1

/-- `REGION_RAMP_DONE`: settling ends, or the soft start trips (R420, R424). -/
def doRampDone (fz : Fuses) (r : Nat) (tripped : Bool) (m : Mod) : Mod :=
  if (regionAt m r).power.core = .ramp then
    let m1 := liftCap m r
    if tripped then supplyLoss fz m r 1
    else if isSpareRegion r && !(regionAt m r).standin then
      startNext (retargetRegion (updPower m1 r (fun y => { y with core := .warm })) r) (quadrantOf r)
    else
      startNext (retargetRegion (lightSites fz (updPower m1 r (fun y => { y with core := .on })) r) r) (quadrantOf r)
  else m

/-- `QUADRANT_HEADROOM_START`: the stage's input is measured. -/
def doHeadroomStart (q watts : Nat) (m : Mod) : Mod :=
  startNext { m with pwr := { m.pwr with quadW := m.pwr.quadW.set q (sat16 watts) } } q

/-- `HEADROOM_CAP_TIMEOUT`: a region has waited 50 ms; the other powered regions of its quadrant give up 10 %. -/
def doHeadroomCap (r : Nat) (m : Mod) : Mod :=
  if (regionAt m r).power.core = .wait then
    let m1 := forAll (updPower m r (fun y => { y with capping := true })) ((quadRegions (quadrantOf r)).filter (fun t => t != r && coreUp m t)) (fun m t =>
      updPower m t (fun y => { y with capped := true }))
    post (pwrFlag m1 4) 0x0807 none (pwrPayload m1 r 0x1F 0 0 (cellsShown m1 r) (ilimDa (regionAt m1 r).power) 0)
  else m

/-! ### The current guard (R418, R419) -/

/-- `CURRENT_EXCESS`: a measurement; above its limit a region, and a site, issue in 15/16 of cycles. -/
def doCurrentExcess (r da : Nat) (site : Option (Fin 24)) (siteDa : Nat) (m : Mod) : Mod :=
  if coreUp m r then
    let m1 := updPower m r (fun y =>
      let hot : Bool := decide (ilimDa y < da) && y.fraction == 16
      { y with vmidDa := sat16 da, fraction := if hot then 15 else y.fraction, throttle := y.throttle || hot })
    match site with
    | none => m1
    | some l => updEnv m1 (siteAt r l.val) (fun e => { e with
        siteDa := sat16 siteDa, fraction := if e.limitDa < siteDa ∧ e.fraction = 16 then 15 else e.fraction })
  else m

/-- The next issue fraction in sixteenths: one less above the limit, one more below 95 % of it. -/
def nextFraction (f da limit : Nat) : Nat :=
  if limit < da then max 1 (f - 1) else if 100 * da < 95 * limit then min 16 (f + 1) else f

/-- `GUARD_ISSUE_STEP`: one microsecond passes. -/
def doGuardStep (r da : Nat) (m : Mod) : Mod :=
  if coreUp m r then
    let m1 := updRegion m r (fun y =>
      let f := nextFraction y.power.fraction da (ilimDa y.power)
      { y with power := { y.power with
          vmidDa := sat16 da, fraction := f, throttle := f != 16,
          throttleCycles := y.power.throttleCycles + y.clock.cclkMhz * (16 - y.power.fraction) / 16 } })
    forAll m1 (sitesOf r) (fun m s =>
      if (siteOf m s).env.fraction = 16 then m
      else updEnv m s (fun e => { e with fraction := nextFraction e.fraction e.siteDa e.limitDa }))
  else m

/-! ### Cells, cracks, sensors (R414-R417, R421) -/

/-- `PWR_CELL_FAIL`: a cell leaves the mesh. -/
def doCellFail (fz : Fuses) (r cell : Nat) (m : Mod) : Mod :=
  if !coreUp m r || bit (regionAt m r).power.cellsFailed cell then m
  else
    let m1 := updPower m r (fun y => { y with cellsFailed := setBit y.cellsFailed cell true })
    let k := cellsFailed (regionAt m1 r).power
    let pl (m : Mod) : BitVec 192 := pwrPayload m r cell 0 0 (cellsShown m r) (ilimDa (regionAt m r).power) 0
    let m2 := postLedger m1 0x0801 none 0 0 (pl m1)
    if k = 3 ∨ k = 4 then post m2 0x0802 none (pl m2)
    else if 5 ≤ k then supplyLoss fz m2 r 4
    else m2

/-- A site becomes a suspected cracked connection: derated once, for good (R417). -/
def crackSuspect (m : Mod) (s dev : Nat) : Mod :=
  if (siteOf m s).env.crack then m
  else
    let m1 := updEnv m s (fun e => { e with crack := true, limitDa := 192 })
    postLedger m1 0x0805 none 0 4 (pwrPayload m1 (regionOf s) (localOf s) 0 0 (cellsShown m1 (regionOf s)) 192 dev)

/-- The region controller evaluates its sensors: its core domain is up and it does not restart (R465). -/
def evaluates (m : Mod) (r : Nat) : Bool := coreUp m r && !(regionAt m r).fwRestart

/-- `CRACK_WINDOW_END`: the means of a window of 1 s, d_hi and d_lo in 0.1 mV (R416). -/
def doCrackWindow (fz : Fuses) (s : Nat) (d : Option (Int × Int)) (m : Mod) : Mod :=
  match d with
  | none => m
  | some (hi, lo) =>
    if liveClass fz m s = .active && evaluates m (regionOf s) && decide (250 < hi) && decide (150 ≤ hi - lo) then crackSuspect m s hi.toNat
    else m

/-- Sensors of a region that are not suspect, as (local site, sensor). -/
def goodSensors (m : Mod) (r : Nat) : List (Nat × Nat) :=
  (List.range 24).flatMap (fun l => ((List.range 8).filter (fun i => !bit (siteOf m (siteAt r l)).env.droopSuspect i)).map (fun i => (l, i)))

/-- The next sensor steers (log entry 11: which of the good sensors reads lowest is free). -/
def steer (m : Mod) (r : Nat) : Mod :=
  let gs := goodSensors m r
  match gs[chooseIdx m gs.length]? with
  | some g => bumpFree (updPower m r (fun y => { y with minSite := g.1, minSensor := g.2 }))
  | none => m

/-- `PWR_SENSOR_SUSPECT`: a droop sensor is excluded until the next start-up. -/
def doDroopSuspect (s i : Nat) (m : Mod) : Mod :=
  let r := regionOf s
  if !evaluates m r || bit (siteOf m s).env.droopSuspect i then m
  else
    let m1 := updEnv m s (fun e => { e with droopSuspect := setBit e.droopSuspect i true })
    let m2 := post m1 0x0806 none (pwrPayload m1 r (localOf s) i 0 (cellsShown m1 r) 0 0)
    let y := (regionAt m2 r).power
    let m3 := if y.minSite = localOf s ∧ y.minSensor = i then steer m2 r else m2
    if (siteOf m3 s).env.droopSuspect = 0xFF then crackSuspect m3 s 0 else m3

/-! ### VIN and overpower (R423) -/

/-- VIN lies in the operating range. -/
def vinInRange (mv : Nat) : Bool := 32000 ≤ mv && mv ≤ 40000

/-- `VIN` as measured. -/
def measureVin (m : Mod) (mv : Nat) : Mod := { m with pwr := { m.pwr with vinMv := sat16 mv, vinOk := vinInRange mv } }

/-- `PWR_VIN_WARN`: VIN outside the operating range for 1 ms. -/
def doVinWarn (mv : Nat) (m : Mod) : Mod :=
  if m.startup.step = 0 then m
  else
    let m1 := measureVin m mv
    if (30000 ≤ mv ∧ mv < 32000) ∨ (40000 < mv ∧ mv ≤ 42000) then
      post (pwrFlag m1 0) 0x0808 none (pwrPayload m1 0x3F 0x1F 0 0 0 mv 0)
    else m1

/-- `VIN_TRIP`: every converter off, `FAULT_N` asserted, a last-gasp record (R423, R490). -/
def doVinTrip (mv : Nat) (m : Mod) : Mod :=
  if m.startup.step = 0 ∨ (30000 ≤ mv ∧ mv ≤ 42000) then m
  else
    let m1 := allOff (lastGasp 1 m)
    { m1 with pins := { m1.pins with fault := true }, startup := { m1.startup with tripped := true } }

/-- Every region's guard limit loses 5 points more. -/
def lowerGuards (m : Mod) : Mod :=
  forAll m (List.range 64) (fun m r => retargetGuard (updPower m r (fun y => { y with overPct := min 100 (y.overPct + 5) })) r)

/-- `PWR_OVERPOWER`: the input has been above 30 kW for 10 ms. -/
def doOverpower (watts : Nat) (m : Mod) : Mod :=
  if watts ≤ 30000 ∨ m.startup.step = 0 then m
  else
    let m1 := { m with pwr := { m.pwr with pinW := sat16 watts, overpowerSince := some m.time } }
    post (pwrFlag m1 1) 0x0809 none (pwrPayload m1 0x3F 0x1F 0 0 0 watts 0)

/-- `OVERPOWER_GUARD_STEP`: one millisecond passes. `overpowerSince` is when the input last read 28.5 kW or more. -/
def doOverpowerStep (watts : Nat) (m : Mod) : Mod :=
  let m1 := { m with pwr := { m.pwr with pinW := sat16 watts } }
  match m.pwr.overpowerSince with
  | none => m
  | some t =>
    if 28500 ≤ watts then
      let m2 := { m1 with pwr := { m1.pwr with overpowerSince := some m.time } }
      if 30000 < watts then lowerGuards m2 else m2
    else if t + 100000000 ≤ m.time then
      forAll { m1 with pwr := { m1.pwr with overpowerSince := none } } (List.range 64) (fun m r =>
        retargetGuard (updPower m r (fun y => { y with overPct := 0 })) r)
    else m1

/-! ### The commands -/

/-- `DOMAIN_CMD`. -/
def execDomainCmd (value : BitVec 32) (s : State) : Host.Outcome State Fault Refusal := lift (doDomainCmd value) s
/-- `REGION_RAMP_DONE`. -/
def execRegionRampDone (region : RegionId) (tripped : Bool) (s : State) : Host.Outcome State Fault Refusal :=
  lift (doRampDone s.fuses region.val tripped) s
/-- `HEADROOM_CAP_TIMEOUT`. -/
def execHeadroomCapTimeout (region : RegionId) (s : State) : Host.Outcome State Fault Refusal := lift (doHeadroomCap region.val) s
/-- `CURRENT_EXCESS`. -/
def execCurrentExcess (region : RegionId) (regionDa : Nat) (site : Option (Fin 24)) (siteDa : Nat) (s : State) :
    Host.Outcome State Fault Refusal := lift (doCurrentExcess region.val regionDa site siteDa) s
/-- `PWR_CELL_FAIL`. -/
def execPwrCellFail (region : RegionId) (cell : Fin 24) (s : State) : Host.Outcome State Fault Refusal :=
  lift (doCellFail s.fuses region.val cell.val) s
/-- `PWR_REGION_LOSS`. -/
def execPwrRegionLoss (region : RegionId) (cause : SupplyCause) (s : State) : Host.Outcome State Fault Refusal :=
  lift (fun m => if m.startup.step = 0 then m else supplyLoss s.fuses m region.val (causeCode cause)) s
/-- `PWR_FEED_LOSS`: a feed converter fails (R411). -/
def execPwrFeedLoss (region : RegionId) (feedB : Bool) (s : State) : Host.Outcome State Fault Refusal :=
  lift (fun m => loseFeed m region.val feedB) s
/-- `CRACK_WINDOW_END`. -/
def execCrackWindowEnd (site : SiteId) (samples : Option (Int × Int)) (s : State) : Host.Outcome State Fault Refusal :=
  lift (doCrackWindow s.fuses site.val samples) s
/-- `PWR_SENSOR_SUSPECT`. -/
def execPwrSensorSuspect (site : SiteId) (sensor : Fin 8) (s : State) : Host.Outcome State Fault Refusal :=
  lift (doDroopSuspect site.val sensor.val) s
/-- `PWR_VIN_WARN`. -/
def execPwrVinWarn (mv : Nat) (s : State) : Host.Outcome State Fault Refusal := lift (doVinWarn mv) s
/-- `VIN_TRIP`. -/
def execVinTrip (mv : Nat) (s : State) : Host.Outcome State Fault Refusal := lift (doVinTrip mv) s
/-- `PWR_OVERPOWER`. -/
def execPwrOverpower (watts : Nat) (s : State) : Host.Outcome State Fault Refusal := lift (doOverpower watts) s
/-- `QUADRANT_HEADROOM_START`. -/
def execQuadrantHeadroomStart (quadrant : Fin 4) (watts : Nat) (s : State) : Host.Outcome State Fault Refusal :=
  lift (doHeadroomStart quadrant.val watts) s
/-- `GUARD_ISSUE_STEP`. -/
def execGuardIssueStep (region : RegionId) (regionDa : Nat) (s : State) : Host.Outcome State Fault Refusal :=
  lift (doGuardStep region.val regionDa) s
/-- `OVERPOWER_GUARD_STEP`. -/
def execOverpowerGuardStep (watts : Nat) (s : State) : Host.Outcome State Fault Refusal := lift (doOverpowerStep watts) s

end Sys2Proof.Machine
end

