-- ==== Sys2Proof/Machine/Thermal.lean ====
section
/-! DEFINITION. Clocks, temperature, the Carousel, coolant (14_clocks_temperature_cooling.md). Temperatures are in
quarters of a degree Celsius. -/
namespace Sys2Proof.Machine
open Sys2Proof

/-! ### Temperatures (R434-R436) -/

/-- The temperature of a site: the higher reading of the sensors that are not suspect, 92 °C when both are. -/
def usedQ (e : SiteEnv) : Nat :=
  match e.dSuspect, e.oSuspect with
  | true, true => 368
  | true, false => e.oQ
  | false, true => e.dQ
  | false, false => max e.dQ e.oQ

/-- The temperature of a site of the module. -/
def siteTemp (m : Mod) (s : Nat) : Nat := usedQ (siteOf m s).env

/-- The hottest of some sites: the lowest of those with the highest temperature. -/
def hottest (m : Mod) (ss : List Nat) : Option Nat :=
  ss.foldl (fun b s => match b with
    | none => some s
    | some t => if siteTemp m t < siteTemp m s then some s else b) none

/-- The temperature of the hottest of some sites. -/
def peak (m : Mod) (ss : List Nat) : Nat := ss.foldl (fun a s => max a (siteTemp m s)) 0
/-- The temperature of the coolest of some sites. -/
def coolest (m : Mod) (ss : List Nat) : Nat := ss.foldl (fun a s => min a (siteTemp m s)) 0xFFFF

/-- Some site of a half reads `q` or more. -/
def halfAt (m : Mod) (east : Bool) (q : Nat) : Bool := m.sites.any (fun s => eastSite s.1 == east && q ≤ usedQ s.2.env)
/-- Some site of the module reads `q` or more. -/
def moduleAt (m : Mod) (q : Nat) : Bool := m.sites.any (fun s => q ≤ usedQ s.2.env)

/-- Since when the halves have been below 90 °C and the module below 95 °C (R433, R437). -/
def coolSince (m : Mod) : Mod :=
  let keep (i : Nat) (warm : Bool) : Option Nat := if warm then none else (m.thm.hotSince.getD i none).or (some m.time)
  { m with thm := { m.thm with hotSince := [keep 0 (halfAt m false 360), keep 1 (halfAt m true 360), keep 2 (moduleAt m 380)] } }

/-- A second has passed since an entry of `hotSince` was set. -/
def coolFor (m : Mod) (i : Nat) : Bool := (m.thm.hotSince.getD i none).any (fun t => t + 1000000000 ≤ m.time)

/-- The sensors of a site are sampled. -/
def sampleSite (m : Mod) (s d o : Nat) : Mod :=
  coolSince (updEnv m s (fun e =>
    let e1 := { e with dQ := min 511 d, oQ := min 511 o }
    { e1 with hotSamples := if 432 ≤ usedQ e1 then e1.hotSamples + 1 else 0 }))

/-! ### Region throttle (R437) -/

/-- A comparator on a diode of the region that is not suspect stands at 100 °C (R438). -/
def diodeHot (m : Mod) (r : Nat) : Bool := (sitesOf r).any (fun s => !(siteOf m s).env.dSuspect && 400 ≤ (siteOf m s).env.dQ)

/-- The comparator forces 400 MHz. -/
def forceSlow (m : Mod) (r : Nat) : Mod :=
  if diodeHot m r && !(regionAt m r).clock.forced then retargetClock (updClock m r (fun y => { y with forced := true })) r else m

/-- Payload of a `THM_THROTTLE` event. -/
def throttlePayload (m : Mod) (r cause : Nat) : BitVec 192 :=
  thmPayload m ((hottest m (sitesOf r)).getD 0xFFFF) r 0 cause (peak m (sitesOf r)) (regionAt m r).clock.ceilingMhz 0

/-- The ceiling of a region falls by 100 MHz, down to 400 MHz. -/
def lowerCeiling (m : Mod) (r : Nat) : Mod := setCeiling m r (max 400 ((regionAt m r).clock.ceilingMhz - 100))

/-- `THM_THROTTLE`: a sample of a site; at 92 °C its region throttles. -/
def doThrottle (s d o : Nat) (m : Mod) : Mod :=
  let r := regionOf s
  let m1 := forceSlow (sampleSite m s d o) r
  let y := regionAt m1 r
  if m.startup.step < 4 then m
  else if siteTemp m1 s < 368 || y.clock.throttle || y.fwRestart then m1
  else
    let m2 := lowerCeiling (updClock m1 r (fun c => { c with throttle := true })) r
    post m2 0x0903 none (throttlePayload m2 r 1)

/-- `THROTTLE_STEP`: the ceiling falls on while a site stands at 92 °C; below 89 °C the throttle ends, and the ceiling
rises. -/
def doThrottleStep (r : Nat) (m : Mod) : Mod :=
  let y := regionAt m r
  let top := peak m (sitesOf r)
  if y.fwRestart then m
  else if y.clock.throttle then
    if 368 ≤ top then lowerCeiling m r
    else if top < 356 then
      let m1 := updClock m r (fun c => { c with throttle := false })
      post m1 0x0903 none (throttlePayload m1 r 0)
    else m
  else if y.clock.ceilingMhz < 1200 && top < 356 && !m.thm.minclk then
    setCeiling m r (min 1200 (y.clock.ceilingMhz + 100))
  else m

/-! ### Fabric clock and minimum clock (R433, R437, R438) -/

/-- FCLK of a half runs reduced or not. -/
def setFabric (m : Mod) (east reduced : Bool) : Mod :=
  if (if east then m.thm.fabricE else m.thm.fabricW) = reduced then m
  else
    let mhz := if reduced then 750 else 1500
    let m1 :=
      if east then { m with
        thm := { m.thm with fabricE := reduced }, clk := { m.clk with eMhz := if m.clk.fclkELock then mhz else 0 } }
      else { m with
        thm := { m.thm with fabricW := reduced }, clk := { m.clk with wMhz := if m.clk.fclkWLock then mhz else 0 } }
    post m1 0x0304 none (fabPayload m1 0xFFFF 0 0 0 0)

/-- `FABRIC_CLOCK_CHANGE`. -/
def doFabricClock (east : Bool) (m : Mod) : Mod :=
  if (if east then m.thm.fabricE else m.thm.fabricW) then
    if !m.thm.minclk && !halfAt m east 360 && coolFor m (if east then 1 else 0) then setFabric m east false else m
  else if halfAt m east 384 then setFabric m east true
  else m

/-- Payload of a `THM_MINCLK` event. -/
def minclkPayload (m : Mod) (cause : Nat) : BitVec 192 :=
  let s := hottest m (m.sites.map Prod.fst)
  thmPayload m (s.getD 0xFFFF) ((s.map regionOf).getD 0x3F) 0 cause ((s.map (siteTemp m)).getD 0) 400 0

/-- `THM_MINCLK`: at 100 °C everything goes to minimum clock; after 1 s below 95 °C the ceilings may rise again. -/
def doMinclk (m : Mod) : Mod :=
  if m.thm.minclk then
    if !moduleAt m 380 && coolFor m 2 then
      let m1 := { m with thm := { m.thm with minclk := false } }
      let m2 := forAll m1 (List.range 64) (fun m r => updClock m r (fun y => { y with forced := false }))
      post m2 0x0904 none (minclkPayload m2 0)
    else m
  else if moduleAt m 400 then
    let m1 := thmFlag { m with thm := { m.thm with minclk := true, minclkCount := sat32 (m.thm.minclkCount + 1) } } 5
    let m2 := forAll m1 (List.range 64) (fun m r => forceSlow (setCeiling m r 400) r)
    let m3 := setFabric (setFabric m2 false true) true true
    post m3 0x0904 none (minclkPayload m3 1)
  else m

/-- `HOT_TRIP`: a site at 108 °C on two samples shuts the module down (R438, R490). -/
def doHotTrip (s : Nat) (m : Mod) : Mod :=
  if (siteOf m s).env.hotSamples < 2 ∨ m.startup.step = 0 then m
  else
    let m1 := allOff (lastGasp 2 m)
    { m1 with pins := { m1.pins with hotTrip := true }, startup := { m1.startup with tripped := true } }

/-! ### Suspect sensors (R435) -/

/-- Mark a sensor suspect. -/
def markSensor (m : Mod) (s : Nat) (o : Bool) : Mod :=
  let m1 := updEnv m s (fun e =>
    let e1 := if o then { e with oSuspect := true } else { e with dSuspect := true }
    { e1 with assumed := e1.dSuspect && e1.oSuspect })
  let e := (siteOf m1 s).env
  let pl := thmPayload m1 s (regionOf s) (if o then 2 else 1) 0 (usedQ e) 0 0
  let m2 := postLedger (thmFlag m1 4) 0x0901 none 0 0 pl
  if e.assumed then post m2 0x0902 none (thmPayload m2 s (regionOf s) 0 0 368 0 0) else m2

/-- Neighbours of a site with two good sensors. -/
def goodNeighbours (m : Mod) (s : Nat) : List Nat :=
  ((List.range 4).filterMap (neighbour s)).filter (fun t => !(siteOf m t).env.dSuspect && !(siteOf m t).env.oSuspect)

/-- Distance of two numbers. -/
def dist (a b : Nat) : Nat := (a - b) + (b - a)

/-- `THM_SENSOR_SUSPECT`: a self-check fails, or the readings have differed by more than 6 °C for 10 ms; then the sensor
further from the mean of the neighbours is suspect (a tie is free, log entry 11). -/
def doSensorSuspect (s : Nat) (o self : Bool) (m : Mod) : Mod :=
  let e := (siteOf m s).env
  if (regionAt m (regionOf s)).fwRestart then m
  else if self then (if (if o then e.oSuspect else e.dSuspect) then m else markSensor m s o)
  else
    let ns := goodNeighbours m s
    if e.dSuspect || e.oSuspect || dist e.dQ e.oQ ≤ 24 || ns.isEmpty then m
    else
      let total := (ns.map (siteTemp m)).sum
      let dd := dist (ns.length * e.dQ) total
      let od := dist (ns.length * e.oQ) total
      if dd < od then markSensor m s true
      else if od < dd then markSensor m s false
      else markSensor (bumpFree m) s (chooseIdx m 2 == 1)

/-! ### The Carousel (R439, R440) -/

/-- The spread of an equal set exceeds 8 °C. -/
def spreads (m : Mod) (ss : List Nat) : Bool := coolest m ss + 32 < peak m ss

/-- A rate limit allows the next action. -/
def rateOk (m : Mod) (last : Option Nat) (ns : Nat) : Bool := last.all (fun t => t + ns ≤ m.time)

/-- The cells of a region that have not failed, by site. -/
def goodCells (m : Mod) (r : Nat) : List Nat := (sitesOf r).filter (fun s => !bit (regionAt m r).power.cellsFailed (localOf s))

/-- Port routers of a group: a rotation of the injection router is requested. -/
def carouselGroup (m : Mod) (g : Nat) : Mod :=
  let y := groupOf m g
  if spreads m (groupSites g) && rateOk m y.rotateTime 100000000 then
    updGroup m g (fun z => { z with rotateDue := true, rotateTime := some m.time })
  else m

/-- Cells of a region: the hottest site's cell is lowered. -/
def carouselRegion (m : Mod) (r : Nat) : Mod :=
  let y := (regionAt m r).clock
  let ss := goodCells m r
  if evaluates m r && spreads m ss && rateOk m y.carouselTime 10000000 then
    match hottest m ss with
    | some s => updClock m r (fun c => { c with loweredCell := some (localOf s), carouselTime := some m.time })
    | none => m
  else m

/-- A Carousel entry never written. -/
def carNone : CarEntry :=
  { frameA := 0, frameB := 0, primary := 0, alternate := 0, count := 0, valid := false, rejected := false, swapped := false,
    swaps := 0, lastSwap := none }

/-- A swap of the partition is staged already. -/
def swapStaged (x : Part) : Bool := x.staged.any (fun t => match t.kind with
  | .swap _ => true
  | _ => false)

/-- Two frames: a swap of their routes is staged; an epoch change that has not drained defers it (R184). -/
def carouselFrames (m : Mod) (p i : Nat) : Mod :=
  match partOf? m p with
  | none => m
  | some x =>
    let c := mget x.cars i carNone
    let a := peak m (frameSites x c.frameA)
    let b := peak m (frameSites x c.frameB)
    if c.valid && 32 < dist a b && rateOk m c.lastSwap 1000000000 && x.draining.isEmpty && !swapStaged x then
      stageWork (stageChange (updPart m p (fun y => { y with cars := mset y.cars i { c with lastSwap := some m.time } })) p (.swap i) none) p
    else m

/-- `CAROUSEL`: sets 0-15 are the port groups, 16-79 the regions, 80 + 32 p + i the Carousel table entries. -/
def doCarousel (set : Nat) (m : Mod) : Mod :=
  if !rmAlive m then m
  else if set < 16 then carouselGroup m set
  else if set < 80 then carouselRegion m (set - 16)
  else carouselFrames m ((set - 80) / 32) ((set - 80) % 32)

/-- `CAROUSEL_RELEASE`: the spread of a region's cells has fallen below 5 °C. -/
def doCarouselRelease (r : Nat) (m : Mod) : Mod :=
  let ss := goodCells m r
  if peak m ss < coolest m ss + 20 && !(regionAt m r).fwRestart then updClock m r (fun c => { c with loweredCell := none }) else m

/-- An entry is rejected (R440). -/
def carRejected (x : Part) (c : CarEntry) : Bool :=
  match x.plan with
  | none => true
  | some pl =>
    let ids (a : Nat) : List Nat := (List.range c.count).map (fun k => a + k)
    let all := ids c.primary ++ ids c.alternate
    c.count = 0 || 2048 < c.count || frameCount x ≤ c.frameA || frameCount x ≤ c.frameB
      || (ids c.primary).any (fun k => (ids c.alternate).contains k) || all.any (fun k => pl.routeIds ≤ k)
      || pl.routes.any (fun e => e.service && all.contains e.route) || pl.service.any (fun g => all.contains g.route)

/-- `CAROUSEL_ENTRY_VALID`: a write of an entry's `VALID` bit. -/
def doCarEntry (p i : Nat) (valid : Bool) (m : Mod) : Mod :=
  updPart m p (fun x =>
    let c := mget x.cars i carNone
    if !valid then { x with cars := mset x.cars i { c with valid := false } }
    else if c.valid then x
    else if carRejected x c then { x with cars := mset x.cars i { c with rejected := true } }
    else { x with cars := mset x.cars i { c with valid := true, rejected := false } })

/-! ### Clocks (R430) -/

/-- The reference in use is present. -/
def refPresent (c : Clk) : Bool := if c.sel1 then c.ref1 else c.ref0

/-- Every PLL changes to the other reference. -/
def otherRef (m : Mod) : Mod :=
  let m1 := { m with clk := { m.clk with sel1 := !m.clk.sel1, refLoss := sat32 (m.clk.refLoss + 1) } }
  post m1 0x090A none (thmPayload m1 0xFFFF 0x3F 0 (b2n m1.clk.sel1) 0 0 0)

/-- `CLK_REF_LOSS`: the reference in use is absent; with the other absent too every PLL holds over. -/
def doRefLoss (m : Mod) : Mod :=
  if !refPresent m.clk then m
  else
    let m1 := { m with clk := if m.clk.sel1 then { m.clk with ref1 := false } else { m.clk with ref0 := false } }
    if (if m.clk.sel1 then m.clk.ref0 else m.clk.ref1) then otherRef m1 else m1

/-- `PLL_LOCK_LOSS`: 0 and 1 are the fabric PLLs of West and East, 2 the seam's, 3 the management PLL. -/
def doLockLoss (k : Nat) (m : Mod) : Mod :=
  match k with
  | 0 => doSeamDown true { m with clk := { m.clk with fclkWLock := false, wMhz := 0 } }
  | 1 => doSeamDown false { m with clk := { m.clk with fclkELock := false, eMhz := 0 } }
  | 2 => seamFalls (fun _ => true) { m with clk := { m.clk with sclkLock := false } }
  | _ => { m with clk := { m.clk with mgmtLock := false } }

/-- `PLL_RELOCK`: the clock runs again. -/
def doRelock (k : Nat) (m : Mod) : Mod :=
  match k with
  | 0 => { m with clk := { m.clk with fclkWLock := true, wMhz := if m.thm.fabricW then 750 else 1500 } }
  | 1 => { m with clk := { m.clk with fclkELock := true, eMhz := if m.thm.fabricE then 750 else 1500 } }
  | 2 => { m with clk := { m.clk with sclkLock := true } }
  | _ => { m with clk := { m.clk with mgmtLock := true } }

/-! ### Coolant (R442) -/

/-- The reported estimate is the lower of the two. -/
def flowOf (c : Coolant) : Nat := if c.heatDl = 0 then c.dpDl else min c.dpDl c.heatDl

/-- The coolant is measured. -/
def measureCoolant (m : Mod) (c : Coolant) : Mod :=
  { m with thm := { m.thm with inletDc := sat16 c.inletDc, outletDc := sat16 c.outletDc, dpDkpa := sat16 c.dpDkpa,
                               flowDl := sat16 (flowOf c), heatDl := sat16 c.heatDl } }

/-- A coolant warning: a flag and an event. -/
def coolantWarn (m : Mod) (k value : Nat) : Mod :=
  post (thmFlag m k) (0x0906 + k) none (thmPayload m 0xFFFF 0x3F 0 0 0 value 0)

/-- Measure the coolant, and warn when the condition has held. -/
def doCoolant (k : Nat) (hit : Coolant → Bool) (value : Mod → Nat) (c : Coolant) (m : Mod) : Mod :=
  if m.startup.step < 2 then m
  else
    let m1 := measureCoolant m c
    if hit c then coolantWarn m1 k (value m1) else m1

/-! ### The commands -/

/-- `CLK_REF_LOSS`. -/
def execClkRefLoss (s : State) : Host.Outcome State Fault Refusal := lift doRefLoss s
/-- `PLL_LOCK_LOSS`. -/
def execPllLockLoss (pll : Fin 4) (s : State) : Host.Outcome State Fault Refusal := lift (doLockLoss pll.val) s
/-- `PLL_RELOCK`. -/
def execPllRelock (pll : Fin 4) (s : State) : Host.Outcome State Fault Refusal := lift (doRelock pll.val) s
/-- `THM_THROTTLE`. -/
def execThmThrottle (site : SiteId) (dQ oQ : Nat) (s : State) : Host.Outcome State Fault Refusal := lift (doThrottle site.val dQ oQ) s
/-- `THROTTLE_STEP`. -/
def execThrottleStep (region : RegionId) (s : State) : Host.Outcome State Fault Refusal := lift (doThrottleStep region.val) s
/-- `FABRIC_CLOCK_CHANGE`. -/
def execFabricClockChange (east : Bool) (s : State) : Host.Outcome State Fault Refusal := lift (doFabricClock east) s
/-- `THM_MINCLK`. -/
def execThmMinclk (s : State) : Host.Outcome State Fault Refusal := lift (smbWatch doMinclk) s
/-- `HOT_TRIP`. -/
def execHotTrip (site : SiteId) (s : State) : Host.Outcome State Fault Refusal := lift (doHotTrip site.val) s
/-- `CAROUSEL`. -/
def execCarousel (set : Fin 592) (s : State) : Host.Outcome State Fault Refusal := lift (doCarousel set.val) s
/-- `THM_SENSOR_SUSPECT`. -/
def execThmSensorSuspect (site : SiteId) (sensorO selfCheck : Bool) (s : State) : Host.Outcome State Fault Refusal :=
  lift (doSensorSuspect site.val sensorO selfCheck) s
/-- `CAROUSEL_ENTRY_VALID`. -/
def execCarouselEntryValid (p : PartId) (i : Fin 32) (valid : Bool) (s : State) : Host.Outcome State Fault Refusal :=
  lift (doCarEntry p.val i.val valid) s
/-- `CAROUSEL_RELEASE`. -/
def execCarouselRelease (region : RegionId) (s : State) : Host.Outcome State Fault Refusal := lift (doCarouselRelease region.val) s
/-- `THM_FLOW_WARN`: below 40 L/min for 10 s. -/
def execThmFlowWarn (c : Coolant) (s : State) : Host.Outcome State Fault Refusal :=
  lift (doCoolant 0 (fun c => decide (flowOf c < 400)) (fun m => m.thm.flowDl) c) s
/-- `THM_FLOW_LOW`: below 20 L/min for 100 ms. -/
def execThmFlowLow (c : Coolant) (s : State) : Host.Outcome State Fault Refusal :=
  lift (doCoolant 1 (fun c => decide (flowOf c < 200)) (fun m => m.thm.flowDl) c) s
/-- `THM_INLET_WARN`: above 40 °C for 10 s. -/
def execThmInletWarn (c : Coolant) (s : State) : Host.Outcome State Fault Refusal :=
  lift (doCoolant 2 (fun c => decide (400 < c.inletDc)) (fun m => m.thm.inletDc) c) s
/-- `THM_FLOW_DISAGREE`: the estimates differ by more than 30 % of the larger for 60 s. -/
def execThmFlowDisagree (c : Coolant) (s : State) : Host.Outcome State Fault Refusal :=
  lift (doCoolant 3 (fun c => c.heatDl != 0 && decide (30 * max c.dpDl c.heatDl < 100 * dist c.dpDl c.heatDl)) (fun m => m.thm.flowDl) c) s

end Sys2Proof.Machine
end

