-- ==== Sys2Proof/Machine/RegRead.lean ====
section
/-! DEFINITION. What every register reads (R79, R172, R173, R215, R216, R289, R291, R292, R294, R375-R377, R388, R398,
R425, R426, R444-R447, R469, R480, R492-R503, R508, R510). -/
namespace Sys2Proof.Machine
open Sys2Proof

/-- Low word of a value. -/
def lo32 (v : Nat) : Nat := v % 2 ^ 32
/-- Second word of a value. -/
def hi32 (v : Nat) : Nat := v / 2 ^ 32 % 2 ^ 32

/-! ### Per-site status window (R79) -/

/-- Code of a site state. -/
def siteStateCode : SiteState → Nat
  | .off => 0
  | .idle => 1
  | .run => 2
  | .held => 3
  | .faulted => 4

/-- Access list `q` still has instructions of the beat in execution. -/
def accessBusy (c : Core) (q : Nat) : Bool :=
  let n := (curList c q).2
  let b := c.accessBeat.getD q 0
  if b = c.beatCount then c.accessPos.getD q 0 < n else b < c.beatCount && 0 < n

/-- `SITE_STATE.BUSY`: the engines whose lists are not finished in this beat. -/
def busyBits (c : Core) : Nat :=
  if c.state = .off ∨ c.state = .idle then 0
  else b2n ((List.range 16).any (accessBusy c)) +
    (if c.atBarrier then 0
     else ([1, 2, 3, 4].map (fun e => 2 ^ e * b2n (decide (c.done.getD e 0 < (curList c (15 + e)).2)))).sum)

/-- Lines held in staging ring `q`. -/
def stageLines (c : Core) (q : Nat) : Nat := ((c.queues.getD q []).map (fun e => e.lines.length)).sum

/-- Some receive is incomplete. -/
def recvPending (c : Core) : Bool := c.recvs.any (fun r => decide (r.received < r.expected))

/-- A register of a core's status window. -/
def coreReg (s : Nat) (c : Core) (off : Nat) : Nat :=
  let f := c.fault.getD { code := 0, engine := 0, list := 0, instr := 0, info := 0, addr := 0 }
  match off with
  | 0x000 => fields [(0, 11, s), (16, 5, localOf s), (21, 6, regionOf s)]
  | 0x004 => fields [(0, 3, siteStateCode c.state), (3, 1, b2n c.atBarrier), (4, 5, busyBits c), (9, 1, b2n (recvPending c)),
      (10, 1, b2n (!c.reserve.isEmpty))]
  | 0x008 => lo32 c.beatCount
  | 0x00C => hi32 c.beatCount
  | 0x010 => fields [(0, 8, f.code), (8, 3, f.engine), (12, 4, f.list), (16, 16, f.instr)]
  | 0x014 => lo32 f.info
  | 0x018 => lo32 f.addr
  | 0x01C => hi32 f.addr
  | 0x020 => c.faultCount
  | 0x024 => fields [(0, 8, c.program), (8, 12, c.schedPos), (20, 3, c.bucket)]
  | 0x028 => fields [(0, 5, c.runahead)]
  | 0x02C => fields ((List.range 32).map (fun t => (t, 1, b2n (tokenCount c t != 0))))
  | 0x030 => fields ((List.range 16).map (fun q => (q, 1, b2n (!(c.queues.getD q []).isEmpty))))
  | 0x160 => c.checkBase
  | 0x164 => c.checkSize
  | 0x168 => c.checkN
  | 0x16C => lo32 c.checkCounter
  | 0x170 => lo32 c.checkDone
  | 0x174 => hi32 c.checkDone
  | 0x178 => lo32 c.checkSkipped
  | 0x17C => hi32 c.checkSkipped
  | 0x180 => c.scratchCE
  | 0x184 => c.scratchUE
  | 0x188 => c.deltaDiscard
  | _ =>
    if off % 4 ≠ 0 then 0
    else if 0x40 ≤ off ∧ off < 0x80 then
      let q := (off - 0x40) / 4
      let n := (c.queues.getD q []).length
      fields [(0, 20, stageLines c q), (20, 6, min n 63), (26, 1, b2n (n == 64))]
    else if 0x80 ≤ off ∧ off < 0xC0 then
      let e := c.seg.getD ((off - 0x80) / 8) (0, 0)
      if off % 8 = 0 then e.1 else e.2
    else if 0xC0 ≤ off ∧ off < 0xE0 then
      let e := c.vseg.getD ((off - 0xC0) / 8) (0, 0)
      if off % 8 = 0 then e.1 else e.2
    else if 0xE0 ≤ off ∧ off < 0x160 then
      let e := c.stage.getD ((off - 0xE0) / 8) (0, 0)
      if off % 8 = 0 then e.1 else e.2
    else 0

/-! ### Memory (R172, R173) -/

/-- Code of a slice state. -/
def sliceCode : SliceState → Nat
  | .off => 0
  | .init => 1
  | .test => 2
  | .ready => 3
  | .failed => 4
  | .retired => 5

/-- A register of a slice's window. -/
def sliceReg (x : Slice) (off : Nat) : Nat :=
  match off with
  | 0x00 => fields [(0, 3, sliceCode x.state), (3, 1, b2n x.hot), (4, 1, b2n x.fastScrub)]
  | 0x04 => x.innerCE
  | 0x08 => x.innerUE
  | 0x0C => x.outerCE
  | 0x10 => x.outerUE
  | 0x14 => fields [(0, 16, x.rowsRetired), (16, 16, x.retireDenied)]
  | 0x18 => ((x.banks.map (fun b => (bitsOf b.2.erasure).length)).sum) % 1024
  | 0x1C => x.scrubPos
  | 0x20 => lo32 x.scrubPasses
  | 0x24 => lo32 x.act
  | 0x28 => hi32 x.act
  | 0x2C => lo32 x.tref
  | 0x30 => hi32 x.tref
  | 0x34 => x.lastErrAddr
  | 0x38 => fields [(0, 2, x.lastErrKind), (2, 7, x.lastErrSym), (9, 3, x.lastErrSyms), (12, 1, b2n x.lastErrScrub)]
  | 0x3C => match x.bankRetired with
    | some k => fields [(0, 9, k), (15, 1, 1)]
    | none => 0
  | 0x40 => x.unwrittenReads
  | _ => 0

/-- A register of a region's memory sub-block. -/
def memReg (m : Mod) (r off : Nat) : Nat :=
  let ss := sitesOf r
  match off with
  | 0x000 => fields ((24, 1, b2n (ss.any (fun s => (siteOf m s).slice.hot)))
      :: (List.range 24).map (fun l => (l, 1, b2n (slicePowered (siteOf m (siteAt r l)).slice))))
  | 0x004 => (regionAt m r).memEvent.toNat
  | 0x008 => ss.foldl (fun a s => max a (max (siteOf m s).slice.tempLower (siteOf m s).slice.tempUpper)) 0
  | 0x00C => (regionAt m r).trThreshold
  | _ => if 0x100 ≤ off ∧ off < 0x100 + 0x80 * 24 then sliceReg (siteOf m (siteAt r ((off - 0x100) / 0x80))).slice ((off - 0x100) % 0x80) else 0

/-! ### Fabric (R215, R216) -/

/-- A register of a router window. -/
def routerReg (m : Mod) (s off : Nat) : Nat :=
  let x := (siteOf m s).router
  match off with
  | 0x00 => fields [(0, 4, x.linkUp.toNat), (4, 1, b2n x.redirect.isSome), (5, 11, x.redirect.getD 0)]
  | 0x04 => x.flitCE
  | 0x08 => x.flitUE
  | 0x0C => x.faultInfo.toNat
  | 0x10 => min 1023 (oldFlits m s (fun _ => true))
  | 0x14 => lo32 x.flits
  | 0x18 => hi32 x.flits
  | 0x1C => lo32 x.creditStall
  | 0x20 => hi32 x.creditStall
  | _ => 0

/-- Every core of the region that holds a role of its partition has arrived. -/
def regionArrived (m : Mod) (r : Nat) : Bool :=
  match regionPart m r with
  | some x =>
    let ss := (partSites x).filter (fun s => regionOf s == r)
    !ss.isEmpty && ss.all (fun s => (siteOf m s).core.atBarrier)
  | none => false

/-- A register of a region's fabric sub-block. -/
def fabReg (m : Mod) (r off : Nat) : Nat :=
  let y := regionAt m r
  match off with
  | 0x000 => fields [(0, 1, b2n y.activeBank), (1, 1, b2n (y.switchPending || (regionPart m r).any swapStaged)), (2, 1, b2n y.ownCheck),
      (3, 1, b2n (servedBy m r).isSome), (4, 4, (servedBy m r).getD 0)]
  | 0x004 => y.fabEvent.toNat
  | 0x008 => fields [(0, 1, b2n y.gateClosed), (1, 1, b2n (regionArrived m r))]
  | 0x00C => y.watchdogNs / 1000 % 2 ^ 24
  | 0x010 => lo32 y.corridor
  | 0x014 => hi32 y.corridor
  | 0x018 => if r % 8 = 3 ∨ r % 8 = 4 then
      fields [(0, 6, y.seamUp.toNat), (6, 1, b2n y.seamClockLost), (7, 1, b2n (m.thm.fabricW || m.thm.fabricE))] else 0
  | _ => if 0x100 ≤ off ∧ off < 0x100 + 0x80 * 24 then routerReg m (siteAt r ((off - 0x100) / 0x80)) ((off - 0x100) % 0x80) else 0

/-! ### Status and fault, power, clock (R469, R426, R447) -/

/-- `RG_STATUS.ROLE`. -/
def rgRole (m : Mod) (r : Nat) : Nat :=
  let y := regionAt m r
  if y.standin then 3
  else if y.evacuated then 2
  else if y.lost || y.power.core == .lost then 5
  else if isSpareRegion r then (if y.power.core == .warm then 4 else 0)
  else b2n (regionOwner m r).isSome

/-- Chunks not yet refilled in a region. -/
def chunksLeft (m : Mod) (r : Nat) : Nat := (m.parts.map (fun px => (px.2.refill.filter (fun e => regionOf e.1 == r)).length)).sum

/-- A register of a region's status sub-block. -/
def rgReg (fz : Fuses) (m : Mod) (r off : Nat) : Nat :=
  let y := regionAt m r
  match off with
  | 0x000 => fields [(0, 3, rgRole m r), (3, 1, b2n y.repairing), (4, 1, b2n (chunksLeft m r != 0)),
      (5, 1, b2n (m.parts.any (fun px => px.2.twinLeft.any (fun e => regionOf e.1 == r)))), (6, 1, b2n y.fwRestart),
      (7, 3, min 7 ((sitesOf r).filter (fun s => liveClass fz m s == .spare)).length)]
  | 0x004 => match y.firstFault with
    | some f => fields [(0, 11, f.1), (16, 8, f.2.1), (24, 3, f.2.2)]
    | none => 0
  | 0x008 => y.rgEvent.toNat
  | 0x00C => chunksLeft m r % 2 ^ 18
  | 0x010 => lo32 y.fwSeq
  | 0x014 => hi32 y.fwSeq
  | 0x018 => y.tilesDropped
  | _ => 0

/-- Code of a core domain. -/
def coreCode : CoreDomain → Nat
  | .off => 0
  | .wait => 1
  | .ramp => 2
  | .warm => 3
  | .on => 4
  | .lost => 5

/-- A register of a region's power sub-block. -/
def prReg (m : Mod) (r off : Nat) : Nat :=
  let y := (regionAt m r).power
  match off with
  | 0x000 => fields [(0, 3, coreCode y.core), (3, 1, b2n y.feedA), (4, 1, b2n y.feedB), (5, 1, b2n y.efuse), (6, 3, min 7 (cellsFailed y)),
      (9, 1, b2n y.throttle), (10, 1, b2n y.capped)]
  | 0x004 => fields [(0, 16, y.vmidMv), (16, 16, y.vmidDa)]
  | 0x008 => fields [(0, 16, y.setMv), (16, 16, y.minMv)]
  | 0x00C => fields [(0, 5, y.minSite), (5, 3, y.minSensor)]
  | 0x010 => fields [(0, 16, ilimDa y), (16, 7, y.pct)]
  | 0x014 => y.cellsFailed.toNat
  | 0x018 => fields ((List.range 24).map (fun l => (l, 1, b2n (siteOf m (siteAt r l)).env.crack)))
  | 0x040 => lo32 y.throttleCycles
  | 0x044 => hi32 y.throttleCycles
  | _ =>
    if off % 4 ≠ 0 then 0
    else if 0x20 ≤ off ∧ off < 0x38 then
      let w := (off - 0x20) / 4
      fields ((List.range 4).map (fun j => (8 * j, 8, (siteOf m (siteAt r (4 * w + j))).env.droopSuspect.toNat)))
    else if 0x48 ≤ off ∧ off < 0x48 + 4 * 24 then
      let e := (siteOf m (siteAt r ((off - 0x48) / 4))).env
      fields [(0, 16, e.siteDa), (16, 16, e.limitDa)]
    else 0

/-- A register of a region's clock and thermal sub-block. -/
def rtReg (m : Mod) (r off : Nat) : Nat :=
  let y := (regionAt m r).clock
  match off with
  | 0x000 => fields [(0, 11, y.cclkMhz), (16, 11, y.ceilingMhz), (27, 1, b2n y.throttle), (28, 1, b2n y.forced)]
  | 0x004 => fields [(0, 9, peak m (sitesOf r)), (16, 5, localOf ((hottest m (sitesOf r)).getD 0))]
  | 0x008 => y.loweredCell.getD 0x1F
  | 0x00C => y.throttleMs
  | _ =>
    if 0x100 ≤ off ∧ off < 0x100 + 8 * 24 ∧ off % 8 = 0 then
      let e := (siteOf m (siteAt r ((off - 0x100) / 8))).env
      fields [(0, 9, e.dQ), (9, 9, e.oQ), (18, 9, usedQ e), (27, 1, b2n e.dSuspect), (28, 1, b2n e.oSuspect)]
    else 0

/-- A register of `RGC[r]` as its controller shows it when it runs (R493). -/
def rgcLive (fz : Fuses) (m : Mod) (r off : Nat) : Nat :=
  match off / 0x1000 with
  | 0 => rgReg fz m r off
  | 1 => prReg m r (off - 0x1000)
  | 2 => rtReg m r (off - 0x2000)
  | 3 => memReg m r (off - 0x3000)
  | 4 => fabReg m r (off - 0x4000)
  | _ =>
    if 0x8000 ≤ off ∧ off < 0x8000 + 0x400 * 24 then
      let s := siteAt r ((off - 0x8000) / 0x400)
      coreReg s (siteOf m s).core ((off - 0x8000) % 0x400)
    else 0

/-- What every register of `RGC[r]` reads now, kept while the controller restarts (R498). -/
def latchRegs (fz : Fuses) (m : Mod) (r : Nat) : SMap (BitVec 32) :=
  (List.range 16384).filterMap (fun i => match rgcLive fz m r (4 * i) with
    | 0 => none
    | v => some (4 * i, BitVec.ofNat 32 v))

/-- A register of `RGC[r]` (R493, R498). -/
def rgcReg (fz : Fuses) (m : Mod) (r off : Nat) : Nat :=
  let y := regionAt m r
  if y.fwRestart then
    let v := (mget y.latched off 0).toNat
    if off = 0 then v ||| 0x40 else v
  else rgcLive fz m r off

/-! ### Rings (R294, R502, R503) -/

/-- Code of a pair state. -/
def pairCode : PairState → Nat
  | .off => 0
  | .active => 1
  | .error => 2
  | .stale => 3

/-- A register of a ring pair block. -/
def pairReg (p : Pair) (off : Nat) : Nat :=
  match off with
  | 0x00 => lo32 p.sqBase.toNat
  | 0x04 => hi32 p.sqBase.toNat
  | 0x08 => lo32 p.cqBase.toNat
  | 0x0C => hi32 p.cqBase.toNat
  | 0x10 => fields [(0, 5, p.sqLog2), (8, 5, p.cqLog2)]
  | 0x14 => fields [(0, 8, p.vector), (8, 8, p.coalCount), (16, 8, p.coalUs), (24, 8, p.progressVector)]
  | 0x18 => p.units
  | 0x1C => fields [(0, 1, b2n p.enable), (1, 1, b2n p.keepBuffers)]
  | 0x20 => fields [(0, 2, pairCode p.state), (2, 1, b2n p.cqFull), (8, 3, p.error)]
  | 0x24 => p.sqHead
  | 0x28 => fields [(0, 16, p.cqTail), (16, 1, b2n p.phase)]
  | 0x2C => outstanding p
  | _ => 0

/-- A register of the module event ring. -/
def evReg (x : EvRing) (off : Nat) : Nat :=
  match off with
  | 0x00 => lo32 x.base.toNat
  | 0x04 => hi32 x.base.toNat
  | 0x08 => x.log2
  | 0x0C => fields [(0, 8, x.vector), (8, 8, x.coalCount), (16, 8, x.coalUs)]
  | 0x10 => b2n x.enable
  | 0x14 => x.mask.toNat
  | 0x18 => fields [(0, 2, pairCode x.state), (2, 1, b2n (!x.hold.isEmpty)), (3, 3, x.error)]
  | 0x1C => fields [(0, 16, x.tail), (16, 1, b2n x.phase)]
  | 0x20 => x.hold.length
  | 0x24 => x.dropped
  | _ => 0

/-- A word of an MSI-X table. -/
def msixWord (tab : SMap Word) (off : Nat) : Nat :=
  let k := off / 8
  let w := (mget tab k (if k % 2 = 1 then 0x100000000 else 0)).toNat
  if off % 8 = 0 then lo32 w else hi32 w

/-- A word of an MSI-X pending bit array. -/
def pendingWord (l : List Nat) (off : Nat) : Nat := fields ((List.range 32).map (fun i => (i, 1, b2n (l.contains (8 * off + i)))))

/-! ### `GLB`, `RMS`, `SEC`, `LDG`, `CLK` (R398, R446, R480, R494, R500, R501, R508, R510) -/

/-- An entry of `GLB.SITE_MAP`. -/
def siteEntry (fz : Fuses) (m : Mod) (s : Nat) : Nat :=
  fields [(0, 2, classCode (fusedClass fz s)), (2, 2, classCode (liveClass fz m s)), (4, 1, b2n (siteOf m s).standin)]

/-- An entry of `GLB.REGION_MAP`. -/
def regionEntry (m : Mod) (r : Nat) : Nat :=
  let y := regionAt m r
  fields [(0, 1, b2n (isSpareRegion r)), (1, 1, b2n y.evacuated), (2, 1, b2n y.standin), (4, 6, y.roleOf), (10, 3, y.activeSites - 18)]

/-- Bits of the partitions that satisfy a condition. -/
def partBits (m : Mod) (f : Part → Bool) : Nat := m.parts.foldl (fun a px => a + (if f px.2 then 2 ^ px.1 else 0)) 0

/-- `GLB_STATUS`. -/
def glbStatus (m : Mod) : Nat :=
  fields [(0, 8, m.startup.code), (8, 1, b2n m.pins.pwrGood), (9, 1, b2n m.startup.lastTrip), (10, 1, b2n m.startup.shutdown),
    (16, 16, partBits m (fun _ => true))]

/-- A register of `GLB` as host site `h` sees it. -/
def glbReg (fz : Fuses) (m : Mod) (h off : Nat) : Nat :=
  let x := hostOf m h
  match off with
  | 0x000 => 0x57525458
  | 0x004 => fields [(0, 2, fz.grade), (2, 4, fz.maxPartitions - 1), (6, 2, h), (8, 4, fz.stepping.toNat)]
  | 0x008 => lo32 fz.moduleId.toNat
  | 0x00C => hi32 fz.moduleId.toNat
  | 0x010 => glbStatus m
  | 0x014 => m.badAccess
  | 0x018 => lo32 (rmActive m).sequence
  | 0x01C => hi32 (rmActive m).sequence
  | 0x408 => fields [(0, 16, partBits m (fun p => p.holdAdmin)), (17, 1, b2n m.eholdRefused)]
  | _ =>
    if 0x100 ≤ off ∧ off < 0x140 then pairReg x.admin (off - 0x100)
    else if 0x300 ≤ off ∧ off < 0x380 then evReg x.ring (off - 0x300)
    else if 0x1000 ≤ off ∧ off < 0x1600 then
      fields ((List.range 4).map (fun j => (8 * j, 8, siteEntry fz m (off - 0x1000 + j))))
    else if 0x1800 ≤ off ∧ off < 0x1880 then
      fields ((List.range 2).map (fun j => (16 * j, 16, regionEntry m ((off - 0x1800) / 2 + j))))
    else if 0xF0000 ≤ off ∧ off < 0xF1000 then msixWord x.msixTable (off - 0xF0000)
    else if 0xF8000 ≤ off ∧ off < 0xF8020 then pendingWord x.msixPending (off - 0xF8000)
    else 0

/-- Code of a Ringmaster member's state. -/
def memberCode : MemberState → Nat
  | .off => 0
  | .boot => 1
  | .sync => 2
  | .standby => 3
  | .active => 4
  | .failed => 5

/-- A register of `RMS`. -/
def rmsReg (m : Mod) (off : Nat) : Nat :=
  let r := m.rm
  match off with
  | 0x000 => fields [(0, 3, memberCode r.west.state), (3, 3, memberCode r.east.state), (6, 1, b2n r.activeEast)]
  | 0x004 => r.failovers
  | 0x008 => r.misses
  | 0x00C => r.mirrorLag
  | 0x010 => lo32 r.west.sequence
  | 0x014 => hi32 r.west.sequence
  | 0x018 => lo32 r.east.sequence
  | 0x01C => hi32 r.east.sequence
  | _ => 0

/-- A register of `SEC`. -/
def secReg (fz : Fuses) (m : Mod) (off : Nat) : Nat :=
  match off with
  | 0x000 => fields [(0, 7, fz.rollback), (7, 2, fz.debugLevel), (9, 1, b2n fz.jtagLock), (10, 1, b2n fz.isolationLock),
      (11, 4, fz.maxPartitions - 1), (15, 2, fz.grade), (17, 4, fz.rootRevoked.toNat), (21, 2, m.sec.bootKey)]
  | 0x004 => m.sec.fwRollback % 128
  | 0x010 => fields [(0, 2, m.sec.state), (2, 6, m.sec.reason)]
  | 0x014 => m.sec.ownCheckDisable.toNat
  | _ =>
    if 0x100 ≤ off ∧ off < 0x200 ∧ off % 4 = 0 then
      let j := off - 0x100
      fld (fz.rootDigest.getD (j / 0x40) 0) (8 * (j % 0x40)) 32
    else 0

/-- A register of `LDG`. -/
def ldgReg (m : Mod) (off : Nat) : Nat :=
  let l := m.ledger
  match off with
  | 0x000 => ldgStatus l
  | 0x004 => ldgWear l
  | 0x008 => lo32 m.time
  | 0x00C => hi32 m.time
  | 0x010 => lo32 (ldgOffset l)
  | 0x014 => hi32 (ldgOffset l)
  | 0x018 => lo32 (copyNow l).commitSeq
  | 0x01C => hi32 (copyNow l).commitSeq
  | 0x020 => lo32 l.next
  | 0x024 => hi32 l.next
  | _ => 0

/-- A register of `CLK`. -/
def clkReg (c : Clk) (off : Nat) : Nat :=
  match off with
  | 0x000 => fields [(0, 1, b2n c.ref0), (1, 1, b2n c.ref1), (2, 1, b2n c.sel1), (3, 1, b2n (!c.ref0 && !c.ref1)), (4, 1, b2n c.fclkWLock),
      (5, 1, b2n c.fclkELock), (6, 1, b2n c.sclkLock)]
  | 0x004 => fields [(0, 12, c.wMhz), (16, 12, c.eMhz)]
  | 0x008 => c.refLoss
  | _ => 0

/-! ### `PWR`, `THM` (R425, R444, R445) -/

/-- Domain `d` is on (R408). -/
def domainOn (m : Mod) (d : Nat) : Bool :=
  if d < 64 then coreUp m d
  else if d < 128 then m.pwr.fabricOn && ((regionAt m (d - 64)).power.feedA || (regionAt m (d - 64)).power.feedB)
  else if d < 144 then (groupOf m (d - 128)).domainOn
  else if d < 148 then bit m.pwr.ucieOn (d - 144)
  else if d < 150 then bit m.pwr.seamOn (d - 148)
  else if d < 152 then bit m.pwr.mgmtOn (d - 150)
  else false

/-- The longest headroom wait of a quadrant, in milliseconds. -/
def quadWaitMs (m : Mod) (q : Nat) : Nat :=
  (quadRegions q).foldl (fun a r => match (regionAt m r).power.core, (regionAt m r).power.waitSince with
    | .wait, some t => max a ((m.time - t) / 1000000)
    | _, _ => a) 0

/-- A register of `PWR`. -/
def pwrReg (m : Mod) (off : Nat) : Nat :=
  let p := m.pwr
  match off with
  | 0x000 => fields [(0, 1, b2n p.vinOk), (1, 4, p.quadOk.toNat), (5, 4, p.hostOk.toNat), (9, 1, b2n p.cmdRefused), (10, 3, p.reason)]
  | 0x004 => p.vinMv
  | 0x008 => p.pinW
  | 0x00C => p.event.toNat
  | 0x070 => lo32 p.energy
  | 0x074 => hi32 p.energy
  | _ =>
    if off % 4 ≠ 0 then 0
    else if 0x20 ≤ off ∧ off < 0x34 then fields ((List.range 32).map (fun i => (i, 1, b2n (domainOn m (8 * (off - 0x20) + i)))))
    else if 0x40 ≤ off ∧ off < 0x60 then
      let q := (off - 0x40) / 8
      if off % 8 = 0 then fields [(0, 16, p.quadW.getD q 0), (16, 7, (ramping m q).getD 0x7F)] else sat16 (quadWaitMs m q)
    else if 0x60 ≤ off ∧ off < 0x70 then p.hostW.getD ((off - 0x60) / 4) 0
    else 0

/-- A register of a Carousel table entry. -/
def carReg (c : CarEntry) (off : Nat) : Nat :=
  match off with
  | 0x0 => fields [(0, 12, c.frameA), (16, 12, c.frameB)]
  | 0x4 => fields [(0, 12, c.primary), (16, 12, c.alternate)]
  | 0x8 => fields [(0, 12, c.count)]
  | 0xC => fields [(0, 1, b2n c.valid), (1, 1, b2n c.rejected), (2, 1, b2n c.swapped), (16, 16, c.swaps)]
  | _ => 0

/-- A register of `THM`. -/
def thmReg (m : Mod) (off : Nat) : Nat :=
  let t := m.thm
  match off with
  | 0x000 => fields [(0, 1, b2n (m.regions.any (fun r => r.2.clock.throttle))), (1, 1, b2n t.fabricW), (2, 1, b2n t.fabricE), (3, 1, b2n t.minclk)]
  | 0x004 => match hottest m (m.sites.map Prod.fst) with
    | some s => fields [(0, 11, s), (16, 9, siteTemp m s)]
    | none => 0
  | 0x008 => t.inletDc
  | 0x00C => t.outletDc
  | 0x010 => t.dpDkpa
  | 0x014 => fields [(0, 16, t.flowDl), (16, 16, t.heatDl)]
  | 0x018 => t.event.toNat
  | 0x01C => t.minclkCount
  | _ =>
    if 0x1000 ≤ off ∧ off < 0x1000 + 0x400 * 16 then
      let j := off - 0x1000
      match partOf? m (j / 0x400) with
      | some x => if j % 0x400 < 0x200 then carReg (mget x.cars (j % 0x400 / 0x10) carNone) (j % 0x10) else 0
      | none => 0
    else 0

/-! ### `UCI`, `PG`, `PTN` (R289, R375-R377, R388) -/

/-- A register of `UCI[h]`. -/
def uciReg (m : Mod) (h off : Nat) : Nat :=
  let x := hostOf m h
  match off with
  | 0x000 => fields [(0, 4, x.modulesUp.toNat), (4, 2, x.rate), (6, 1, b2n x.linkUp),
      (7, 1, b2n (m.parts.any (fun p => partHost p.2 == h && p.2.holdHost))), (8, 4, x.disabled.toNat)]
  | 0x004 => x.event.toNat
  | 0x008 => fields ((List.range 4).map (fun k => (4 * k, 4, x.repaired.getD k 0)))
  | 0x00C => x.retrains
  | 0x010 => x.replays
  | 0x014 => x.losses
  | 0x018 => partBits m (fun p => partHost p == h)
  | _ => 0

/-- Code of a link state. -/
def linkCode : LinkState → Nat
  | .down => 0
  | .training => 1
  | .up => 2
  | .retrain => 3

/-- A register of a link window. -/
def linkReg (m : Mod) (g k off : Nat) : Nat :=
  let l := linkAt m g k
  let mine (q : Request) : Bool := q.group == g && q.link == k && !q.kept
  match off with
  | 0x00 => fields [(0, 2, linkCode l.state), (2, 2, if l.state = .up then l.rate else 0), (4, 5, lanesUsed l), (9, 6, l.partner.getD 0),
      (15, 1, b2n l.partner.isSome), (16, 16, l.mask.toNat)]
  | 0x04 => l.fecCorr
  | 0x08 => l.fecUncorr
  | 0x0C => l.crcErr
  | 0x10 => l.replays
  | 0x14 => l.retrains
  | 0x18 => lo32 l.tx
  | 0x1C => hi32 l.tx
  | 0x20 => lo32 l.rx
  | 0x24 => hi32 l.rx
  | 0x28 => l.creditStall
  | 0x2C => fields [(0, 16, (m.requests.filter (fun q => mine q && !q.write)).length), (16, 16, (m.requests.filter (fun q => mine q && q.write)).length)]
  | _ => 0

/-- A register of an aperture. -/
def apReg (a : Aperture) (off : Nat) : Nat :=
  match off with
  | 0x00 => a.ctrl.toNat
  | 0x04 => a.lines
  | 0x08 => lo32 a.base.toNat
  | 0x0C => hi32 a.base.toNat
  | _ => 0

/-- A register of `PG[g]`. -/
def pgReg (m : Mod) (g off : Nat) : Nat :=
  let y := groupOf m g
  match off with
  | 0x000 => fields [(0, 2, y.bondInForce), (2, 1, b2n y.enable), (3, 1, b2n y.owner.isSome), (4, 4, y.owner.getD 0),
      (8, 4, fields ((List.range 4).map (fun k => (k, 1, b2n ((linkAt m g k).state == .up))))), (12, 2, y.inject)]
  | 0x004 => fields [(0, 2, y.bond), (2, 1, b2n y.enable), (3, 1, b2n y.rate100), (4, 1, b2n y.media)]
  | 0x008 => y.event.toNat
  | 0x00C => m.nodeId
  | 0x010 => y.refusals
  | 0x014 => y.poison
  | _ =>
    if off % 4 ≠ 0 then 0
    else if 0x100 ≤ off ∧ off < 0x200 then linkReg m g ((off - 0x100) / 0x40) ((off - 0x100) % 0x40)
    else if 0x200 ≤ off ∧ off < 0x240 then
      let l := (off - 0x200) / 4
      fields [(0, 1, b2n (bit y.lock l)), (1, 1, b2n (bit y.dropped l)), (2, 2, l / lanesPer y.bondInForce)]
    else if 0x300 ≤ off ∧ off < 0x400 then
      match y.apertures[(off - 0x300) / 0x20]? with
      | some a => apReg a ((off - 0x300) % 0x20)
      | none => 0
    else 0

/-- A register of `PTN[p]`. -/
def ptnReg (x : Part) (off : Nat) : Nat :=
  match off with
  | 0x000 => fields [(0, 1, 1), (1, 2, modeCode x.mode), (3, 2, partHost x), (5, 3, frameCode x.frame0), (8, 1, b2n (!x.staged.isEmpty)),
      (9, 1, b2n x.holdAdmin), (10, 1, b2n (!x.frameHolds.isEmpty)), (11, 1, b2n x.holdHost), (12, 1, b2n x.holdPartner),
      (13, 1, b2n x.holdSeam), (14, 1, b2n x.ownCheckOff)]
  | 0x004 => fields [(0, 16, x.targetMhz), (16, 16, x.guardPct)]
  | 0x008 => x.commits
  | 0x00C => x.cancels
  | 0x1000 => x.grants.length
  | _ =>
    if off % 4 ≠ 0 then 0
    else if 0x100 ≤ off ∧ off < 0x180 then fld x.config (8 * (off - 0x100)) 32
    else if 0x180 ≤ off ∧ off < 0x1C0 then fld x.digest (8 * (off - 0x180)) 32
    else if 0x200 ≤ off ∧ off < 0x240 then
      let c := x.classes.getD ((off - 0x200) / 8) ⟨0, 0, 0, 0, 0, 0⟩
      if off % 8 = 0 then c.itlNext else c.ftlUs
    else if 0x300 ≤ off ∧ off < 0x380 then
      let c := x.classes.getD ((off - 0x300) / 16) ⟨0, 0, 0, 0, 0, 0⟩
      match off % 16 with
      | 0 => c.held
      | 4 => c.itlMiss
      | 8 => c.ftlMiss
      | _ => 0
    else if 0x1008 ≤ off then
      match x.grants[(off - 0x1008) / 8]? with
      | some e => if off % 8 = 0 then lo32 e.toNat else hi32 e.toNat
      | none => 0
    else 0

/-! ### Partition functions (R291, R292) -/

/-- Code of a session state. -/
def sessionCode : Session → Nat
  | .none => 0
  | .idle => 1
  | .active => 2
  | .lost => 3
  | .reattach => 4

/-- A register of partition function `p` at the host site that owns the partition. -/
def pfnReg (p : Nat) (x : Part) (off : Nat) : Nat :=
  match off with
  | 0x000 => fields [(0, 4, p), (4, 2, partHost x), (6, 1, 1)]
  | 0x004 => fields [(0, 3, sessionCode x.session), (3, 1, b2n x.cookieBad), (4, 3, frameCode x.frame0), (7, 1, b2n x.plan.isSome)]
  | 0x018 => x.losses
  | 0x01C => x.abandoned
  | 0x020 => heldBytes x % 2 ^ 23
  | 0x028 => lo32 x.pairErr.toNat
  | 0x02C => hi32 x.pairErr.toNat
  | _ =>
    if 0x1000 ≤ off ∧ off < 0x2000 then pairReg (mget x.pairs ((off - 0x1000) / 0x40) Pair.reset) ((off - 0x1000) % 0x40)
    else if 0xF0000 ≤ off ∧ off < 0xF1000 then msixWord x.msixTable (off - 0xF0000)
    else if 0xF8000 ≤ off ∧ off < 0xF8020 then pendingWord x.msixPending (off - 0xF8000)
    else 0

/-! ### Every register (R492) -/

/-- A register of function 0 BAR0 as it stands. -/
def fn0Reg (fz : Fuses) (m : Mod) (h off : Nat) : Nat :=
  match off / 0x100000 with
  | 0x0 => glbReg fz m h off
  | 0x1 => rmsReg m (off - 0x100000)
  | 0x2 => pwrReg m (off - 0x200000)
  | 0x3 => thmReg m (off - 0x300000)
  | 0x4 => clkReg m.clk (off - 0x400000)
  | 0x5 => ldgReg m (off - 0x500000)
  | 0x6 => secReg fz m (off - 0x600000)
  | 0x7 => if off < 0x740000 then uciReg m ((off - 0x700000) / 0x10000) (off % 0x10000) else 0
  | 0x8 => pgReg m ((off - 0x800000) / 0x10000) (off % 0x10000)
  | _ =>
    if 0x1000000 ≤ off ∧ off < 0x1400000 then rgcReg fz m ((off - 0x1000000) / 0x10000) (off % 0x10000)
    else if 0x2000000 ≤ off ∧ off < 0x2400000 then
      match partOf? m ((off - 0x2000000) / 0x40000) with
      | some x => ptnReg x (off % 0x40000)
      | none => 0
    else 0

/-- The offset is the `_HI` register of a latching pair (R79, R480, R496). -/
def isHi (off : Nat) : Bool :=
  if off = 0x200074 then true
  else if off / 0x100000 = 5 then [0x00C, 0x014, 0x01C, 0x024].contains (off - 0x500000)
  else if off / 0x100000 = 8 then
    0x100 ≤ off % 0x10000 && off % 0x10000 < 0x200 && [0x1C, 0x24].contains (off % 0x40)
  else if 0x1000000 ≤ off ∧ off < 0x1400000 then
    let o := off % 0x10000
    match o / 0x1000 with
    | 0 => false
    | 1 => o == 0x1044
    | 2 => false
    | 3 => 0x3100 ≤ o && o < 0x3100 + 0x80 * 24 && [0x28, 0x30].contains ((o - 0x3100) % 0x80)
    | 4 => o == 0x4014 || (0x4100 ≤ o && o < 0x4100 + 0x80 * 24 && [0x18, 0x20].contains ((o - 0x4100) % 0x80))
    | _ => 0x8000 ≤ o && o < 0x8000 + 0x400 * 24 && [0x00C, 0x01C, 0x174, 0x17C].contains ((o - 0x8000) % 0x400)
  else false

/-- What the configuration space of a function says of it (R290). -/
structure ConfigSpace where
  classCode : BitVec 24
  bar0Bytes : Nat
  bar0Is64 : Bool
  bar0Prefetchable : Bool
  otherBars : Nat
  vectors : Nat
  deriving DecidableEq, Repr

/-- The configuration space of function `fn`, hard-wired and the same at every host site (R290, R318). -/
def configSpace (fn : Nat) : ConfigSpace :=
  { classCode := 0x120000, bar0Bytes := if fn = 0 then 0x4000000 else 0x100000, bar0Is64 := true, bar0Prefetchable := false,
    otherBars := 0, vectors := 256 }

/-- An offset lies in BAR0 of function `fn`. -/
def inBar (fn off : Nat) : Bool := decide (off < (configSpace fn).bar0Bytes)

/-- What a 4-byte read through host site `h` of function `fn` returns; `none` completes with Unsupported Request: so does one
beyond the function's BAR0 (R290). -/
def readReg (fz : Fuses) (m : Mod) (h fn off : Nat) : Option Nat :=
  if !inBar fn off then none
  else if fn = 0 then some (if isHi off then (mget (hostOf m h).hiLatch off 0).toNat else fn0Reg fz m h off)
  else match partOf? m (fn - 1) with
    | some x =>
      if partHost x = h then some (pfnReg (fn - 1) x off)
      else if off = 0 then some (fields [(0, 4, fn - 1), (4, 2, h)]) else none
    | none => if off = 0 then some (fields [(0, 4, fn - 1), (4, 2, h)]) else none

end Sys2Proof.Machine
end

