-- ==== Sys2Proof/Machine/Service.lean ====
section
/-! DEFINITION. Ringmaster's two members, firmware updates, the module configuration (15 R462-R468; 12 R399, R400). -/
namespace Sys2Proof.Machine
open Sys2Proof

/-! ### Members (R462) -/

/-- Change a member. -/
def updMember (m : Mod) (east : Bool) (f : RmMember → RmMember) : Mod :=
  { m with rm := if east then { m.rm with east := f m.rm.east } else { m.rm with west := f m.rm.west } }

/-- The slot a member runs. -/
def memberSlot (m : Mod) (east : Bool) : FwSlot :=
  let x := if east then m.rm.east else m.rm.west
  m.rm.fw.getD (if x.slotB then 1 else 0) FwSlot.reset

/-- A member runs its image in a state. -/
def runMember (m : Mod) (east : Bool) (st : MemberState) : Mod :=
  updMember m east (fun x => { x with state := st, sequence := (memberSlot m east).sequence })

/-- A member restarts. -/
def bootMember (m : Mod) (east : Bool) : Mod := updMember m east (fun x => { x with state := .boot, sequence := 0 })

/-- `SEC` shows the image the active member runs (R398). -/
def showImage (m : Mod) : Mod :=
  let s := memberSlot m m.rm.activeEast
  { m with sec := { m.sec with bootKey := s.keySlot, fwRollback := s.rollback } }

/-- `RM_FAILOVER` (R470). -/
def postFailover (m : Mod) (cause : Nat) : Mod := post m 0x0A07 none (fltPayload m 0xFFFF 0xFFFF 0x3F 0x3F 0 cause 0 0)

/-- A FW_ACTIVATE in progress ends with ABORTED. -/
def abortActivation (m : Mod) : Mod :=
  match m.rm.activation with
  | none => m
  | some a =>
    let k := compl a.cid .aborted
    complete { m with rm := { m.rm with activation := none } } a.ring { k with result0 := a.updated }

/-- A FW_ACTIVATE ends with OK (R464, R465, R474). -/
def endActivation (m : Mod) (a : Activation) : Mod :=
  let k := compl a.cid .ok
  let m1 := complete { m with rm := { m.rm with activation := none } } a.ring { k with result0 := a.updated }
  postLedger m1 0x0A08 none 0 0 (fltPayload m1 0xFFFF 0xFFFF 0x3F 0x3F 0 0 0 0)

/-! ### Taking up the mirrored state (R462 step 4) -/

/-- An uncommitted change is staged once more (R394). -/
def restage (m : Mod) (x : Part) (t : Staged) : Staged :=
  let rs := match t.kind, x.plan with
    | .level layer _ _ _, some pl => layerRegions pl layer
    | _, _ => partRegions m x
  { t with waiting := rs, beat := stageBeat x, time := m.time }

/-- What the mirror does not keep of a partition: stages are repeated, predictions and layer runs restart (R141, R394). -/
def takeUpPart (m : Mod) (p : Nat) : Mod :=
  match partOf? m p with
  | none => m
  | some x => updPart m p (fun y => { y with
      staged := y.staged.map (fun t => if t.committed then t else restage m x t),
      cancels := sat32 (y.cancels + (y.staged.filter (fun t => !t.committed)).length),
      predictions := [],
      layers := y.layers.map (fun l => (l.1, { l.2 with streak := 0, clean := 0, window := ⟨0, 0, 0, 0⟩ })),
      cars := y.cars.map (fun c => (c.1, { c.2 with lastSwap := none })) })

/-- A load in progress starts over from its first check. -/
def restartLoad (fz : Fuses) (m : Mod) (p : Nat) : Mod :=
  match partOf? m p with
  | none => m
  | some x => match x.load with
    | none => m
    | some l =>
      let m1 := removeLoad m p x l
      match cmdOf? m1 l.ring l.cid with
      | some c => runPlanLoad fz m1 l.ring c
      | none => m1

/-- Timers and keys a new active member does not have. -/
def dropTimers (m : Mod) : Mod :=
  { m with
    hosts := m.hosts.map (fun h => { h with eholdFirst := none, eholdOpen := false }),
    groups := m.groups.map (fun g => { g with rotateTime := none }),
    regions := m.regions.map (fun r => (r.1, { r.2 with clock := { r.2.clock with carouselTime := none } })) }

/-- A member takes up the tables. -/
def takeUp (fz : Fuses) (m : Mod) : Mod :=
  let m1 := dropTimers (forAll m (partIds m) takeUpPart)
  let m2 := forAll m1 (partIds m1) (restartLoad fz)
  forAll (showImage m2) (partIds m2) (fun m p => kick (stageWork m p) p)

/-- The other member becomes active; the former one restarts. -/
def switchMember (m : Mod) : Mod :=
  let was := m.rm.activeEast
  let m1 := runMember (bootMember m was) (!was) .active
  { m1 with rm := { m1.rm with activeEast := !was } }

/-- The redirects of every plan and of every load are cleared (R217, R462). -/
def clearDetours (m : Mod) : Mod :=
  m.parts.foldl (fun m px =>
    let ds := ((px.2.plan.map (fun pl => pl.detours)).getD []) ++ ((px.2.load.map (fun l => l.plan.detours)).getD [])
    (detourPairs ds).foldl (fun m t => partSitesJoin m px.1 t) m) m

/-- The tables are gone: no partition, no command, no owner (R462). -/
def loseAll (m0 : Mod) : Mod :=
  let m := clearDetours m0
  let sites := m.parts.flatMap (fun px => partSites px.2)
  { m with
    parts := [],
    sites := m.sites.map (fun s => (s.1, { s.2 with
      core := if sites.contains s.1 && s.2.core.state != .faulted then { s.2.core with state := .held } else s.2.core,
      router := { s.2.router with ownA := [], ownB := [], redirect := none } })),
    regions := m.regions.map (fun r => (r.1, { r.2 with
      gateClosed := false, switchPending := false, repairing := false, ownCheck := true })),
    hosts := m.hosts.map (fun h => { h with
      admin := { h.admin with cmds := [], outbox := [], heldWrites := [], posted := [] },
      loss := [], eholdFirst := none, eholdOpen := false }),
    groups := m.groups.map (fun g => { g with
      owner := none, apertures := g.apertures.map (fun a => { a with ctrl := setBit a.ctrl 0 false }) }),
    requests := m.requests.filter (fun q => q.part == gatewayPart),
    fabric := { m.fabric with flights := [], acks := [], reports := [] },
    limits := none,
    rm := { m.rm with activation := none, failedAt := none } }

/-! ### Failover (R462) -/

/-- `RM_HEARTBEAT_TIMEOUT`: four heartbeats of the active member are missed. -/
def doHeartbeat (fz : Fuses) (m : Mod) : Mod :=
  if !rmAlive m then m
  else
    let m1 := { m with rm := { m.rm with misses := sat32 (m.rm.misses + 4), failedAt := some m.time } }
    if (rmOther m).state = .standby then
      let m2 := switchMember m1
      let m3 := { m2 with rm := { m2.rm with failovers := sat32 (m2.rm.failovers + 1) } }
      postFailover (takeUp fz (abortActivation m3)) 1
    else bootMember m1 m.rm.activeEast

/-- The planned switch of R464, steps 2 and 3, when every running partition stands at a step boundary; the former member
restarts on the new image. -/
def trySwitch (fz : Fuses) (m : Mod) : Mod :=
  if rmSwitching m && rmAlive m && !m.parts.any (fun px => beatsRun px.2) then
    let b := (rmOther m).slotB
    let m1 := updMember (switchMember m) m.rm.activeEast (fun x => { x with slotB := b })
    let m2 := { m1 with rm := { m1.rm with activation := m1.rm.activation.map (fun a => { a with region := 2 }) } }
    postFailover (takeUp fz m2) 3
  else m

/-- `RM_RESYNC_DONE`: a member that restarted is back. -/
def doResync (fz : Fuses) (m : Mod) : Mod :=
  let back := !m.rm.activeEast
  if (rmActive m).state = .boot then
    let m1 := showImage (loseAll (runMember m m.rm.activeEast .active))
    postFailover (forAll m1 (List.range 64) retargetRegion) 4
  else if !rmAlive m || (rmOther m).state != .boot then m
  else
    let m1 := runMember m back .standby
    match m.rm.activation with
    | some a =>
      if a.kind = 1 ∧ a.region = 0 then
        trySwitch fz { m1 with rm := { m1.rm with activation := some { a with region := 1 } } }
      else if a.kind = 1 ∧ a.region = 2 then endActivation m1 a
      else { m1 with rm := { m1.rm with failedAt := none } }
    | none => { m1 with rm := { m1.rm with failedAt := none } }

/-- `RM_STANDBY_TIMEOUT`: a member that failed has not come back within 3 s. -/
def doStandbyTimeout (m : Mod) : Mod :=
  if m.rm.failedAt.isNone then m
  else if (rmActive m).state = .boot then updMember m m.rm.activeEast (fun x => { x with state := .failed })
  else if (rmOther m).state = .boot then
    let m1 := updMember m (!m.rm.activeEast) (fun x => { x with state := .failed })
    postFailover { m1 with rm := { m1.rm with failedAt := none } } 2
  else m

/-! ### FW_STAGE (R399, R400, R463) -/

/-- The signature block's fields are valid and its sizes fit (test 1). -/
def imageForm (bs : List Byte) : Bool :=
  1536 ≤ bs.length && leAt bs 0 4 == 0x4D465841 && leAt bs 4 2 == 0x0100 && (leAt bs 16 4 == 1 || leAt bs 16 4 == 2)
    && bs.length == 1536 + leAt bs 20 4 && leAt bs 7 1 ≤ 127 && leAt bs 88 168 == 0 && leAt bs 772 252 == 0

/-- The first test of R400 that an image fails, 0 for none. -/
def imageTest (fz : Fuses) (bs : List Byte) : Nat :=
  let k := leAt bs 6 1
  let modulus := (bs.drop 256).take 512
  let exponent := (bs.drop 768).take 4
  if !imageForm bs then 1
  else if 3 < k || bit fz.rootRevoked k then 2
  else if sha512 (modulus ++ exponent) != fz.rootDigest.getD k 0 then 3
  else if digestBytes (sha512 (bs.drop 1536)) != (bs.drop 24).take 64 then 4
  else if !Config.pssVerify modulus exponent (bs.take 256) ((bs.drop 1024).take 512) then 5
  else if leAt bs 7 1 < fz.rollback then 6
  else 0

/-- The image of a kind in force lies in slot B. -/
def inForceB (m : Mod) (kind : Nat) : Bool :=
  if kind = 1 then (rmActive m).slotB
  else
    let a := m.rm.fw.getD 2 FwSlot.reset
    let b := m.rm.fw.getD 3 FwSlot.reset
    if !b.valid then false else if !a.valid then true else m.rm.rcSlotB.getD 63 false

/-- Number of a kind's slot. -/
def slotNo (kind : Nat) (b : Bool) : Nat := 2 * (kind - 1) + b2n b

/-- A slot. -/
def slotAt (m : Mod) (kind : Nat) (b : Bool) : FwSlot := m.rm.fw.getD (slotNo kind b) FwSlot.reset

/-- Change a slot. -/
def updSlot (m : Mod) (kind : Nat) (b : Bool) (f : FwSlot → FwSlot) : Mod :=
  { m with rm := { m.rm with fw := lupd m.rm.fw (slotNo kind b) f } }

/-- A FW_ACTIVATE of the kind is in progress. -/
def activating (m : Mod) (kind : Nat) : Bool := m.rm.activation.any (fun a => a.kind == kind)

/-- The slot as an image fills it. -/
def slotOf (bs : List Byte) : FwSlot :=
  { valid := true, sequence := leAt bs 8 8, rollback := leAt bs 7 1, keySlot := leAt bs 6 1,
    digest := BitVec.ofNat 512 (leAt bs 24 64) }

/-- FW_STAGE. -/
def runFwStage (fz : Fuses) (m : Mod) (r : RingRef) (c : Cmd) : Mod :=
  let e := c.entry
  let kind := argN e 0 1
  let n := e.len0.toNat
  if !entryClean e false true false [(0, 8)] || kind == 0 || 2 < kind then completeS m r e.cid .badDescriptor
  else onAdmin m r c (fun h =>
    if rejected (hostOf m h) e.addr0.toNat n then completeS m r e.cid .badDescriptor
    else
      let bs := hostRead (hostOf m h) e.addr0.toNat n
      let t := imageTest fz bs
      let b := !inForceB m kind
      if t ≠ 0 then
        let k := compl e.cid .badDescriptor
        complete m r { k with detail := t }
      else if leAt bs 16 4 ≠ kind then completeS m r e.cid .badDescriptor
      else if leAt bs 8 8 ≤ (slotAt m kind (!b)).sequence ∨ activating m kind then completeS m r e.cid .notPermitted
      else
        let k := compl e.cid .ok
        complete (updSlot m kind b (fun _ => slotOf bs)) r { k with result0 := b2n b })

/-! ### FW_ACTIVATE (R464, R465) -/

/-- A change is staged at region `r` and has no outcome yet. -/
def regionStaged (m : Mod) (r : Nat) : Bool :=
  (regionPart m r).any (fun x => x.staged.any (fun t => !t.committed))

/-- The next region controller restarts, once nothing is staged there; after the last the activation ends. -/
def nextRestart (fz : Fuses) (m : Mod) : Mod :=
  match m.rm.activation with
  | none => m
  | some a =>
    if a.kind ≠ 2 then m
    else if 64 ≤ a.region then endActivation m a
    else if (regionAt m a.region).fwRestart || regionStaged m a.region || !rmAlive m then m
    else updRegion m a.region (fun y => { y with fwRestart := true, latched := latchRegs fz m a.region })

/-- FW_ACTIVATE. -/
def runFwActivate (fz : Fuses) (m : Mod) (r : RingRef) (c : Cmd) : Mod :=
  let e := c.entry
  let kind := argN e 0 1
  if !entryClean e false false false [(0, 8)] || kind == 0 || 2 < kind then completeS m r e.cid .badDescriptor
  else onAdmin m r c (fun _ =>
    let b := !inForceB m kind
    let s := slotAt m kind b
    if (rmOther m).state ≠ .standby ∨ m.rm.activation.isSome ∨ ¬ s.valid ∨ s.sequence ≤ (slotAt m kind (!b)).sequence then
      completeS m r e.cid .notPermitted
    else
      let m1 := runningCmd m r c
      let m2 := { m1 with rm := { m1.rm with activation := some { ring := r, cid := e.cid, kind := kind, region := 0, updated := 0 } } }
      if kind = 1 then
        let east := !m.rm.activeEast
        bootMember (updMember m2 east (fun x => { x with slotB := b })) east
      else nextRestart fz m2)

/-- `FW_RESYNC_TIMEOUT`: the standby goes back to the image in force. -/
def doFwResyncTimeout (m : Mod) : Mod :=
  match m.rm.activation with
  | none => m
  | some a =>
    if a.kind = 1 ∧ a.region = 0 ∧ (rmOther m).state = .boot then
      let east := !m.rm.activeEast
      let b := (rmActive m).slotB
      let m1 := updSlot m 1 (!b) (fun s => { s with valid := false })
      abortActivation (runMember (updMember m1 east (fun x => { x with slotB := b })) east .standby)
    else m

/-- A W1C write to a register of `RGC[r]` (R469, R172, R215). -/
def clearRgc (r : Nat) (m : Mod) (w : Nat × BitVec 32) : Mod :=
  updRegion m r (fun y => match w.1 with
    | 0x0008 => { y with rgEvent := y.rgEvent &&& ~~~(w.2.setWidth 5) }
    | 0x3004 => { y with memEvent := y.memEvent &&& ~~~(w.2.setWidth 7) }
    | 0x4004 => { y with fabEvent := y.fabEvent &&& ~~~(w.2.setWidth 6) }
    | _ => y)

/-- A region controller runs again: held W1C writes act (R498), and faults that waited are handled (R468). -/
def endRestart (fz : Fuses) (m : Mod) (r : Nat) : Mod :=
  let held := (regionAt m r).heldW1C
  let m1 := updRegion m r (fun y => { y with fwRestart := false, latched := [], heldW1C := [] })
  let m2 := held.foldl (clearRgc r) m1
  match servedBy m2 r with
  | some p => nextFault fz m2 p
  | none => m2

/-- The valid region controller image with the higher `SEQUENCE` lies in slot B (R463). -/
def bestRcB (m : Mod) : Bool :=
  let a := slotAt m 2 false
  let b := slotAt m 2 true
  b.valid && (!a.valid || decide (a.sequence < b.sequence))

/-- `RC_RESTART_DONE`. -/
def doRcDone (fz : Fuses) (r : Nat) (m : Mod) : Mod :=
  if !(regionAt m r).fwRestart then m
  else
    let b := bestRcB m
    let m1 := { m with rm := { m.rm with rcSlotB := m.rm.rcSlotB.set r b } }
    let m2 := rgFlag (updRegion m1 r (fun y => { y with fwSeq := (slotAt m 2 b).sequence })) r 4
    let m3 := endRestart fz m2 r
    match m3.rm.activation with
    | some a =>
      if a.kind = 2 ∧ a.region = r then
        nextRestart fz { m3 with rm := { m3.rm with activation := some { a with region := r + 1, updated := a.updated + 1 } } }
      else m3
    | none => m3

/-- `RC_RESTART_TIMEOUT`: the region keeps its old slot, the new image's slot is invalid, the activation stops. -/
def doRcTimeout (fz : Fuses) (r : Nat) (m : Mod) : Mod :=
  if !(regionAt m r).fwRestart then m
  else
    let m1 := updSlot m 2 (!(m.rm.rcSlotB.getD r false)) (fun s => { s with valid := false })
    let m2 := endRestart fz m1 r
    if activating m2 2 then abortActivation m2 else m2

/-! ### Configuration (R466, R467) -/

/-- A module configuration record from its bytes. -/
def configOf (bs : List Byte) : ConfigCopy :=
  { valid := true, sequence := leAt bs 8 8, nodeId := leAt bs 16 1, modes := BitVec.ofNat 4 (leAt bs 17 1), cclkCap := leAt bs 18 2,
    powerCap := leAt bs 20 2, pgDefault := (bs.drop 24).take 16 }

/-- `MAGIC`, `VERSION`, digest, reserved fields and ranges of a configuration record hold. -/
def configGood (bs : List Byte) : Bool :=
  bs.length == 4096 && leAt bs 0 4 == 0x474D5841 && leAt bs 4 2 == 0x0100 && leAt bs 6 2 == 0 && leAt bs 17 1 < 16
    && capsOk (leAt bs 18 2) (leAt bs 20 2) && leAt bs 22 2 == 0
    && ((bs.drop 24).take 16).all (fun b => fld b 5 3 == 0 && fld b 0 2 != 3) && leAt bs 40 3992 == 0
    && bs.drop 4032 == digestBytes (sha512 (bs.take 4032))

/-- The module takes a partner's node id: the partner is no longer routable (R364). -/
def takeNode (m : Mod) (q : Partner) : Mod :=
  let m1 := updPartner m q.index (fun r => { r with state := .conflict })
  let m2 := keepFor (forAll m1 (partIds m1) (dropWindow q.moduleId)) q
  post m2 0x0706 none (olixPayload m2 ((linkGroups q.links).headD 0) 0 q.index q.node 0 0 0 q.moduleId)

/-- The module's own node id changes from `old`: its former id has no holder, a partner under the new id is CONFLICT, and a
module that had no id reads the image lists it could not read before (R364, R365, R467; the last DEDUCED, log entry 99). -/
def nodeChanged (m : Mod) (old : Nat) : Mod :=
  let m1 := match (if m.nodeId = 0xFF then none else partnerOf m m.nodeId) with
    | some q => takeNode m q
    | none => m
  let m2 := if old = 0xFF then m1 else promoteNode m1 old
  if old = 0xFF then (m2.partners.filter (fun q => q.state == .present)).foldl readImages m2 else m2

/-- The record is in the other copy, verified and in force; its node id acts at once. -/
def putConfig (m : Mod) (c : ConfigCopy) : Mod :=
  let rm := m.rm
  let rm1 := if rm.useConfigB then { rm with configA := c } else { rm with configB := c }
  let old := m.nodeId
  let m1 := { m with
    rm := { rm1 with useConfigB := !rm.useConfigB, configValid := true },
    nodeId := c.nodeId,
    groups := m.groups.map (fun g => { g with defaultDue := true }) }
  let m2 := if old = c.nodeId then m1 else nodeChanged m1 old
  postLedger m2 0x0A09 none 0 0 (fltPayload m2 0xFFFF 0xFFFF 0x3F 0x3F 0 0 0 0)

/-- CONFIG_WRITE. -/
def runConfigWrite (m : Mod) (r : RingRef) (c : Cmd) : Mod :=
  let e := c.entry
  let bad := completeS m r e.cid .badDescriptor
  if !entryClean e false true false [] || e.len0.toNat != 4096 then bad
  else onAdmin m r c (fun h =>
    if rejected (hostOf m h) e.addr0.toNat 4096 then bad
    else
      let bs := hostRead (hostOf m h) e.addr0.toNat 4096
      let x := configOf bs
      if !configGood bs then bad
      else if x.sequence ≤ (configNow m).sequence then completeS m r e.cid .notPermitted
      else if m.limits.isSome then waitCmd m r c
      else if !modesFit m x.modes then completeS m r e.cid .notPermitted
      else beginLimits (putConfig (runningCmd m r c) x) r e.cid 0 x.modes x.cclkCap x.powerCap true)

/-- CONFIG_READ. -/
def runConfigRead (m : Mod) (r : RingRef) (c : Cmd) : Mod :=
  let e := c.entry
  if !entryClean e false true false [] then completeS m r e.cid .badDescriptor
  else onAdmin m r c (fun _ =>
    if e.len0.toNat < 4096 then
      let k := compl e.cid .refusedResources
      complete m r { k with result1 := 4096 }
    else
      let k := compl e.cid .ok
      complete (bufWrite m r e.cid e.addr0.toNat (configBytes (configNow m))) r { k with result1 := (configNow m).sequence })

/-! ### The commands -/

/-- `RM_HEARTBEAT_TIMEOUT`. -/
def execRmHeartbeatTimeout (s : State) : Host.Outcome State Fault Refusal := lift (doHeartbeat s.fuses) s
/-- `RM_RESYNC_DONE`. -/
def execRmResyncDone (s : State) : Host.Outcome State Fault Refusal := lift (doResync s.fuses) s
/-- `RM_STANDBY_TIMEOUT`. -/
def execRmStandbyTimeout (s : State) : Host.Outcome State Fault Refusal := lift doStandbyTimeout s
/-- `FW_STAGE`. -/
def execFwStage (r : RingRef) (e : SqEntry) (h : HostSide) (s : State) : Host.Outcome State Fault Refusal :=
  lift (takeCmd r e h 0x48 (runFwStage s.fuses)) s
/-- `FW_ACTIVATE`. -/
def execFwActivate (r : RingRef) (e : SqEntry) (h : HostSide) (s : State) : Host.Outcome State Fault Refusal :=
  lift (takeCmd r e h 0x49 (runFwActivate s.fuses)) s
/-- `FW_RESYNC_TIMEOUT`. -/
def execFwResyncTimeout (s : State) : Host.Outcome State Fault Refusal := lift doFwResyncTimeout s
/-- `RC_RESTART_DONE`. -/
def execRcRestartDone (region : RegionId) (s : State) : Host.Outcome State Fault Refusal := lift (doRcDone s.fuses region.val) s
/-- `RC_RESTART_TIMEOUT`. -/
def execRcRestartTimeout (region : RegionId) (s : State) : Host.Outcome State Fault Refusal := lift (doRcTimeout s.fuses region.val) s
/-- `CONFIG_WRITE`. -/
def execConfigWrite (r : RingRef) (e : SqEntry) (h : HostSide) (s : State) : Host.Outcome State Fault Refusal :=
  lift (takeCmd r e h 0x4A runConfigWrite) s
/-- `CONFIG_READ`. -/
def execConfigRead (r : RingRef) (e : SqEntry) (h : HostSide) (s : State) : Host.Outcome State Fault Refusal :=
  lift (takeCmd r e h 0x4B runConfigRead) s

end Sys2Proof.Machine
end

