-- ==== Sys2Proof/Machine/Startup.lean ====
section
/-! DEFINITION. Start-up and shut-down (17_startup_and_shutdown.md; 16 R471-R476; 19 R514-R516). -/
namespace Sys2Proof.Machine
open Sys2Proof

/-! ### Events (R485, R507) -/

/-- `START_CODE`. -/
def postStart (m : Mod) (code : Nat) : Mod := postLedger m 0x0B01 none 0 0 (payload [(0, 8, code), timeField m])

/-- Note the start code (R485). -/
def setCode (m : Mod) (code : Nat) : Mod := { m with startup := { m.startup with code := code } }

/-- A step of R481 has ended. -/
def setStep (m : Mod) (n : Nat) : Mod := { m with startup := { m.startup with step := n, waitSince := none } }

/-- The start waits. -/
def waitStep (m : Mod) (n : Nat) : Mod := { m with startup := { m.startup with step := n, waitSince := some m.time } }

/-- Drive `FAULT_N`. -/
def setFault (m : Mod) (b : Bool) : Mod := { m with pins := { m.pins with fault := b } }

/-! ### Step 3: images, configuration, ledger (R400, R463, R466, R471-R476) -/

/-- A slot's image still passes the tests that fuses decide (R400 tests 2 and 6). -/
def slotLive (fz : Fuses) (s : FwSlot) : Bool := s.valid && decide (fz.rollback ≤ s.rollback) && !bit fz.rootRevoked s.keySlot

/-- Images that fail a test are invalid. -/
def testImages (fz : Fuses) (m : Mod) : Mod :=
  { m with rm := { m.rm with fw := m.rm.fw.map (fun s => { s with valid := slotLive fz s }) } }

/-- A kind has a valid image. -/
def anyImage (m : Mod) (kind : Nat) : Bool := (slotAt m kind false).valid || (slotAt m kind true).valid

/-- The valid image of a kind with the higher `SEQUENCE` lies in slot B. -/
def bestB (m : Mod) (kind : Nat) : Bool :=
  let a := slotAt m kind false
  let b := slotAt m kind true
  b.valid && (!a.valid || decide (a.sequence < b.sequence))

/-- The configuration copy in force, or the defaults of start code 0x04. -/
def takeConfig (m : Mod) : Mod :=
  let a := m.rm.configA
  let b := m.rm.configB
  let none? := !a.valid && !b.valid
  let useB := b.valid && (!a.valid || decide (a.sequence < b.sequence))
  let rm1 := { m.rm with
    useConfigB := useB, configValid := !none?,
    configA := if none? then { ConfigCopy.reset with valid := false } else a }
  let c := if useB then b else rm1.configA
  { m with rm := rm1, nodeId := c.nodeId, limitModes := c.modes, limitCclk := c.cclkCap, limitPower := c.powerCap }

/-- A last-gasp record merged into a ledger copy (R473). -/
def mergeGasp (c : LedgerCopy) (g : LastGasp) : LedgerCopy :=
  let es := c.entries ++ g.entries.map (fun e => { e with flags := e.flags ||| 2 })
  let n := (max c.next ((g.entries.foldl (fun a e => max a (e.seq + 1)) 0))) + g.lost
  let lost : List LedgerEntry := if g.lost = 0 then [] else
    [{ seq := n, time := g.time, utc := 0, event := 0, cls := 0, flags := 2, payload := payload [(0, 32, g.lost)] }]
  let all := es ++ lost
  let k := c.counters
  { c with
    entries := all.drop (all.length - 4096), next := n + lost.length,
    counters := { k with
      energy := sat64 (k.energy + g.energy),
      regions := g.onTime.foldl (fun a e =>
        let v := mget a e.1 (0, List.replicate 23 0, 0, 0)
        mset a e.1 (sat32 (v.1 + e.2), v.2)) k.regions } }

/-- The ledger copy in force at start-up, if one is valid: whether it is B. -/
def copyChoice (l : Ledger) : Option Bool :=
  match l.copyA.valid, l.copyB.valid with
  | true, true => some (decide (l.copyA.commitSeq < l.copyB.commitSeq))
  | true, false => some false
  | false, true => some true
  | false, false => none

/-- Device time resumes (R476). -/
def timeAt (c : LedgerCopy) (known : Bool) (g : Option LastGasp) : Nat :=
  match g with
  | some g => g.time + 20000000
  | none => if known then c.entries.foldl (fun a e => max a e.time) c.time + 120000000000 else 0

/-- The ledger copy is selected, the last-gasp record merged, device time resumes. -/
def takeLedger (m : Mod) : Mod :=
  let l := m.ledger
  let useB := (copyChoice l).getD false
  let known := (copyChoice l).isSome
  let base := if known then (if useB then l.copyB else l.copyA) else LedgerCopy.reset
  let c := match l.gasp with
    | some g => mergeGasp base g
    | none => base
  let l1 : Ledger := { l with
    useB := useB, copyA := if useB then l.copyA else c, copyB := if useB then c else l.copyB,
    utcValid := false, utcOffset := 0, merged := l.gasp.isSome, committing := false,
    otherInvalid := !(if useB then l.copyA.valid else l.copyB.valid), entries := c.entries, next := c.next, committedNext := c.next,
    again := false, store := c.store, counters := c.counters, gasp := none, newCount := !known }
  let m1 := { m with
    ledger := l1, time := timeAt base known l.gasp,
    thm := { m.thm with minclkCount := c.counters.minclk }, pwr := { m.pwr with energy := c.counters.energy } }
  if known then m1
  else postStart (ledgerAdd m1 0 0 0 (payload [(0, 8, 5), timeField m1])) 5

/-! ### Steps 4 to 6: domains, maps, slices (R27, R30, R170, R410, R481, R486) -/

/-- Class of a site after the retirements of the ledger (R30). -/
def startClass (fz : Fuses) (st : RetireStore) (s : Nat) : SiteClass :=
  if mget? st.sites s = some .bad then .bad else fusedClass fz s

/-- Spare sites of a region. -/
def startSpares (fz : Fuses) (st : RetireStore) (r : Nat) : List Nat := (sitesOf r).filter (fun s => startClass fz st s == .spare)

/-- The first `k` spare sites whose slices pass the test, and those that fail before them (R170). -/
def testSpares (bad : List Nat) : Nat → List Nat → List Nat × List Nat
  | _, [] => ([], [])
  | 0, _ => ([], [])
  | k + 1, s :: ss =>
    if bad.contains s then
      let r := testSpares bad (k + 1) ss
      (r.1, s :: r.2)
    else
      let r := testSpares bad k ss
      (s :: r.1, r.2)

/-- The sites a region makes ACTIVE, those whose slices fail the test, and those it disables (R26, R27, R170): a spare that
takes the place of a failed site is tested too. -/
def chosenSites (fz : Fuses) (st : RetireStore) (n : Nat) (bad : List Nat) (r : Nat) : List Nat × List Nat × List Nat :=
  let own := (sitesOf r).filter (fun s => startClass fz st s == .active)
  let spares := startSpares fz st r
  let first := own ++ spares.take (n - own.length)
  let rest := spares.drop (n - own.length)
  let failed := first.filter (fun s => bad.contains s)
  let more := testSpares bad failed.length (rest.take (if isSpareRegion r then 2 else 24))
  (first.filter (fun s => !bad.contains s) ++ more.1, failed ++ more.2, if isSpareRegion r then rest.drop 2 else [])

/-- A region with its converter and fabric up; its core domain is still off. -/
def startRegion (m : Mod) (n : Nat) : Region :=
  let y := Region.reset n
  { y with
    seamUp := if n % 8 = 3 ∨ n % 8 = 4 then 0x3F else 0, fwSeq := (slotAt m 2 (bestB m 2)).sequence,
    power := { y.power with feedA := true, feedB := true, vmidMv := 1800 } }

/-- Step 4: converters, fabric, seam and UCIe domains, region controllers, clocks. -/
def startFabric (m : Mod) : Mod :=
  { m with
    regions := (List.range 64).map (fun n => (n, startRegion m n)),
    rm := { m.rm with rcSlotB := List.replicate 64 (bestB m 2) },
    pwr := { m.pwr with quadOk := 0xF, hostOk := 0xF, seamOn := 3, fabricOn := true, ucieOn := 0xF },
    clk := { m.clk with fclkWLock := true, fclkELock := true, sclkLock := true, wMhz := 1500, eMhz := 1500 } }

/-- The ledger records a supply fault against a region (R28). -/
def barred (st : RetireStore) (r : Nat) : Bool := st.regions.contains r

/-- A spare region has enough SPARE sites (R410). -/
def spareEnough (fz : Fuses) (m : Mod) (r : Nat) : Bool := decide (coresPer m ≤ (startSpares fz m.ledger.store r).length)

/-- Step 5 for one region: it ramps to ON or WARM, is left off, or its soft start trips (R424, R486). -/
def startCore (fz : Fuses) (trips : List Nat) (m : Mod) (r : Nat) : Mod :=
  if barred m.ledger.store r || (isSpareRegion r && !spareEnough fz m r) then m
  else if trips.contains r then dropSupply m r 1
  else updPower m r (fun y => { y with core := if isSpareRegion r then .warm else .on })

/-- Give the role of a service region to the first free spare region, or to none (R29, R486). -/
def giveSpare (m : Mod) (r : Nat) : Mod :=
  match freeSpare m r with
  | some q => updRegion (updRegion m r (fun y => { y with evacuated := true, activeSites := 0 })) q (fun y => { y with
      standin := true, roleOf := r, power := { y.power with core := .on } })
  | none => updRegion m r (fun y => { y with lost := true, activeSites := 0 })

/-- The region powers and tests slices in step 6: it holds its own role or another's. -/
def litRegion (m : Mod) (r : Nat) : Bool :=
  let y := regionAt m r
  y.power.core == .on && !y.lost && !y.evacuated && (y.standin || !isSpareRegion r)

/-- Banks of a site as the retirement store holds them. -/
def storedBanks (st : RetireStore) (s : Nat) : SMap Bank :=
  let a := (st.remaps.filter (fun e => e.1 = s)).foldl (fun b e => mset b e.2.1 { Bank.reset with remap := e.2.2 }) ([] : SMap Bank)
  (st.erasures.filter (fun e => e.1 = s)).foldl (fun b e => mset b e.2.1 { (mget b e.2.1 Bank.reset) with erasure := e.2.2 }) a

/-- Sensors and limits of a site as the retirement store holds them. -/
def storedEnv (st : RetireStore) (s : Nat) : SiteEnv :=
  let crack := st.derates.contains s
  let d := st.suspects.contains (s, false)
  let o := st.suspects.contains (s, true)
  { SiteEnv.reset with limitDa := if crack then 192 else 240, crack := crack, dSuspect := d, oSuspect := o, assumed := d && o }

/-- Ports of a router that lead to a trained link. -/
def startLinks (s : Nat) : BitVec 4 :=
  BitVec.ofNat 4 (fields ((List.range 4).map (fun p => (p, 1, b2n (portLeads s p || (outwardPort s == some p && isMgmtSite s))))))

/-- A site after step 7. `ch` are the chosen sites of its region, if the region is lit. -/
def startSite (fz : Fuses) (st : RetireStore) (cnt : Counters) (ch : Option (List Nat × List Nat × List Nat)) (s : Nat) : Site :=
  let c := startClass fz st s
  let kept : Option SiteClass := if c = fusedClass fz s then none else some c
  let n := mget cnt.slices s (0, 0)
  let base : Site := { Site.reset with
    live := kept, env := storedEnv st s, router := { Router.reset with linkUp := startLinks s },
    slice := { Slice.reset with
      act := n.1, tref := n.2, banks := storedBanks st s, rowsRetired := sat16 ((storedBanks st s).foldl (fun a b => a + b.2.remap.length) 0),
      state := if st.banks.any (fun b => b.1 == s) then .retired else .off } }
  match ch with
  | none => base
  | some (act, failed, off) =>
    if act.contains s then { base with
        live := if c = .active then kept else some .active, standin := c != .active,
        core := { base.core with state := .idle }, slice := { base.slice with state := .ready } }
    else if failed.contains s then { base with live := some .bad, slice := { base.slice with state := .failed } }
    else if off.contains s then { base with live := some .disabled }
    else base

/-- A slice failed its test: the site is BAD, in the ledger too, and the failure is posted (R170). -/
def noteInitFail (m : Mod) (s : Nat) : Mod :=
  let st := m.ledger.store
  let m1 := memFlag { m with ledger := { m.ledger with store := { st with sites := mset st.sites s .bad } } } s 6
  postLedger m1 0x0206 none 3 0 (memPayload m1 s 0x3F 0 0 0xFF 0 0)

/-- Sites chosen in every region of a list. -/
def chosenAll (fz : Fuses) (m : Mod) (bad : List Nat) : List (List Nat × List Nat × List Nat) :=
  (List.range 64).map (chosenSites fz m.ledger.store (coresPer m) bad)

/-- Regions of `rs` that keep fewer ACTIVE sites than the grade asks for. -/
def shortRegions (m : Mod) (ch : List (List Nat × List Nat × List Nat)) (rs : List Nat) : List Nat :=
  rs.filter (fun r => litRegion m r && decide ((ch.getD r ([], [], [])).1.length < coresPer m))

/-- Steps 5 and 6: core domains, roles, slices. -/
def startCores (fz : Fuses) (env : StartEnv) (m : Mod) : Mod :=
  let all := List.range 64
  let bad := env.badSlices.map (fun s => s.val)
  let service := all.filter (fun r => !isSpareRegion r)
  let m1 := forAll m all (startCore fz (env.rampTrips.map (fun r => r.val)))
  let m2 := forAll m1 (service.filter (fun r => (regionAt m1 r).power.core != .on)) giveSpare
  let ch := chosenAll fz m2 bad
  let tested := all.filter (litRegion m2)
  let m3 := forAll m2 (shortRegions m2 ch service) giveSpare
  let late := all.filter (fun r => litRegion m3 r && !tested.contains r)
  let m4 := forAll m3 (shortRegions m3 ch [25, 29, 34, 38]) (fun m r => updRegion m r (fun y => { y with lost := true }))
  let st := m4.ledger.store
  let m5 := { m4 with sites := (List.range 1536).map (fun s =>
    let r := regionOf s
    let t := ch.getD r ([], [], [])
    let row : Option (List Nat × List Nat × List Nat) :=
      if litRegion m4 r then some t else if tested.contains r then some ([], t.2.1, []) else none
    (s, startSite fz st m4.ledger.counters row s)) }
  let m6 := forAll m5 ((tested ++ late).flatMap (fun r => (ch.getD r ([], [], [])).2.1)) noteInitFail
  forAll m6 all (fun m r => retargetRegion (updRegion m r (fun y => { y with
    activeSites := if litRegion m6 r then coresPer m6 else 0 })) r)

/-! ### Steps 9 and 10 -/

/-- A port group takes its start-up setting (R466). -/
def startGroup (m : Mod) (g : Nat) : Mod :=
  let v := (configNow m).pgDefault.getD g 0
  let m1 := updGroup m g (fun y => { y with domainOn := true, bond := min 2 (fld v 0 2), rate100 := bit v 2, media := bit v 3 })
  if bit v 4 then enableGroup m1 g else m1

/-- Step 10: `PWR_GOOD`, the final start code, and the standby (R481, R483, R485). -/
def finishStart (env : StartEnv) (m : Mod) : Mod :=
  let trip := m.startup.tripped
  let m1 := setStep { m with
    pins := { m.pins with pwrGood := true },
    startup := { m.startup with code := 0, lastTrip := trip, tripped := false, env := none } } 10
  let m2 := if trip then postStart m1 6 else m1
  if env.rmWestOk then runMember m2 true .standby else postFailover m2 2

/-! ### The order of R481 -/

/-- Step 5 onward: the coolant is there, or the start waits for it (R482). -/
def startCool (fz : Fuses) (env : StartEnv) (inletDc flowDl : Nat) (m0 : Mod) : Mod :=
  let m := { m0 with thm := { m0.thm with inletDc := sat16 inletDc, flowDl := sat16 flowDl } }
  if 400 < inletDc ∨ flowDl < 400 then setCode (waitStep m 4) 0x10
  else
    let m1 := startCores fz env (setStep (setCode m 0x11) 5)
    finishStart env (forAll m1 (List.range 16) startGroup)

/-- Steps 3 and 4: the images, the configuration, the ledger, the domains (R481, R485). -/
def startImages (fz : Fuses) (env : StartEnv) (m : Mod) : Mod :=
  let m1 := testImages fz m
  if !anyImage m1 1 then setFault (setCode (setStep m1 2) 1) true
  else
    let b := bestB m1 1
    let m2 := updMember (updMember m1 false (fun x => { x with slotB := b })) true (fun x => { x with slotB := b })
    let m3 := setStep (takeLedger (takeConfig m2)) 3
    let m4 := if m3.rm.configValid then m3 else postStart m3 4
    let east := !env.rmWestOk
    let m5 := runMember { m4 with rm := { m4.rm with activeEast := east } } east .active
    let m6 := showImage (if env.rmWestOk then m5 else updMember m5 false (fun x => { x with state := .failed }))
    if !anyImage m6 2 then setFault (setCode (setStep (startFabric m6) 3) 2) true
    else startCool fz env env.inletDc env.flowDl (setStep (startFabric m6) 4)

/-- Step 2 with a reference present: every PLL selects it (R430). -/
def startRefs (fz : Fuses) (env : StartEnv) (m : Mod) : Mod :=
  startImages fz env { m with clk := { m.clk with sel1 := !m.clk.ref0, mgmtLock := true } }

/-- Step 2: management rails, references (R482). -/
def startManagement (fz : Fuses) (env : StartEnv) (m : Mod) : Mod :=
  let m1 := setCode { m with
    grade := fz.grade,
    pwr := { m.pwr with mgmtOn := 3 }, clk := { m.clk with ref0 := env.ref0, ref1 := env.ref1 },
    rm := { m.rm with west := { m.rm.west with state := .boot }, east := { m.rm.east with state := .boot } },
    pins := { m.pins with straps := env.straps.val } } 0x11
  if env.ref0 || env.ref1 then startRefs fz env m1 else waitStep m1 2

/-- Start-up begins: step 2 waits for VIN (R514). -/
def beginStart (fz : Fuses) (env : StartEnv) (m0 : Mod) : Mod :=
  let m := measureVin (allOff m0) env.vinMv
  let m1 := { m with startup := { m.startup with env := some env } }
  if vinInRange env.vinMv then startManagement fz env m1 else waitStep m1 1

/-- `PWR_EN_ASSERT`: the pin goes high; driving it takes `CTL_VDD`. -/
def doPwrEn (fz : Fuses) (env : StartEnv) (m : Mod) : Mod :=
  if m.pins.pwrEn then m
  else beginStart fz env { m with pins := { m.pins with pwrEn := true, ctlVdd := true } }

/-- A start that waits at the end of step `n`. -/
def waitingAt (m : Mod) (n : Nat) : Option StartEnv :=
  if m.startup.step = n ∧ m.startup.waitSince.isSome then m.startup.env else none

/-- `VIN_RANGE_WAIT`: VIN has been in range for 10 ms (R514). -/
def doVinWait (fz : Fuses) (mv : Nat) (m : Mod) : Mod :=
  match waitingAt m 1 with
  | some env =>
    let m1 := measureVin m mv
    if vinInRange mv then startManagement fz env m1 else m1
  | none => m

/-- `REF_CLOCK_WAIT`: 1 s without a reference (R482). -/
def doRefWait (m : Mod) : Mod :=
  match waitingAt m 2 with
  | some _ => setFault (setCode m 3) true
  | none => m

/-- `REFERENCE_RETURN`: an input carries a clock again (R430, R482, R516). -/
def doRefReturn (fz : Fuses) (ref1 : Bool) (m : Mod) : Mod :=
  if m.pwr.mgmtOn = 0 then
    { m with startup := { m.startup with env := m.startup.env.map (fun e => if ref1 then { e with ref1 := true } else { e with ref0 := true }) } }
  else
    let held := !m.clk.ref0 && !m.clk.ref1
    let m1 := { m with clk := if ref1 then { m.clk with ref1 := true } else { m.clk with ref0 := true } }
    match waitingAt m 2 with
    | some env => startRefs fz env (setCode (setFault m1 false) 0x11)
    | none => if held && m.clk.sel1 != ref1 then otherRef m1 else m1

/-- `COOLANT_WAIT_CHECK`: the check every 100 ms (R482). -/
def doCoolWait (fz : Fuses) (inletDc flowDl : Nat) (m : Mod) : Mod :=
  match waitingAt m 4 with
  | some env => startCool fz env inletDc flowDl m
  | none => m

/-! ### Shut-down (R487-R489) -/

/-- A pending sequence command ends with ABORTED. -/
def endSeqCmd (p : Nat) (m : Mod) (rc : RingRef × Cmd) : Mod :=
  let t := rc.2
  let op := t.entry.opcode.toNat
  if t.phase = .completed ∨ op = 0 ∨ 0xB < op then m
  else if t.phase = .running ∧ op = 6 then abortPark m p rc.1 t
  else if t.phase = .running ∧ op = 7 then abortUnpark m p rc.1 t
  else if t.phase = .running ∧ op = 0xB then abortSnap m p rc.1 t
  else abortSeqCmd m p rc.1 t

/-- Step 2 of R488 for one partition. -/
def stopPart (m : Mod) (p : Nat) : Mod :=
  match partOf? m p with
  | none => m
  | some x => (ringCmds p x).foldl (endSeqCmd p) (settleHold (updPart m p (fun y => { y with holdAdmin := true })) p)

/-- A partition has stopped. -/
def stopped (x : Part) : Bool := x.repair.isNone && x.frame0 != .run && x.frame0 != .holdPending

/-- Completions that wait are written before ring service ends. -/
def flushRings (m : Mod) : Mod :=
  let m1 := forAll m (partIds m) (fun m p => match partOf? m p with
    | some x => forAll m (x.pairs.map Prod.fst) (fun m q => postMany (ringOf p q) (pairOf m (ringOf p q)).outbox.length m)
    | none => m)
  forAll m1 [0, 1, 2, 3] (fun m h =>
    let r : RingRef := .admin (Fin.ofNat 4 h)
    postMany r (pairOf m r).outbox.length m)

/-- Steps 5 to 7 of R488. -/
def powerDown (m : Mod) : Mod :=
  let m1 := domainsOff (commitNow (flushRings m))
  setStep { m1 with startup := { m1.startup with shutCmd := none, parkDeadline := none } } 2

/-- Sequences that are open and not PARKED. -/
def notParked (m : Mod) : Nat := (m.parts.map (fun px => (px.2.seqs.filter (fun q => q.state != .parked)).length)).sum

/-- SHUTDOWN completes, and the power goes. -/
def finishShutdown (m : Mod) : Mod :=
  match m.startup.shutCmd with
  | none => m
  | some (r, cid) =>
    let k := compl cid .ok
    powerDown (complete m r { k with result0 := m.startup.parkedCount, result1 := notParked m })

/-- Begin parking a partition's sequences that have a store area (R488 step 3). -/
def parkPart (m : Mod) (p : Nat) : Mod :=
  storeWork (updPart m p (fun x => { x with seqs := x.seqs.map (fun q =>
    if q.storePages != 0 && (q.state == .opened || q.state == .paused || q.state == .active) then
      { q with state := .parking, pausedBefore := q.state == .paused } else q) })) p

/-- Some sequence is parking. -/
def anyParking (m : Mod) : Bool := m.parts.any (fun px => px.2.seqs.any (fun q => q.state == .parking))

/-- Park partition by partition, then finish. -/
def parkOn : Nat → Mod → Mod
  | 0, m => m
  | n + 1, m =>
    if anyParking m then m
    else if 16 ≤ m.startup.parkPart then finishShutdown m
    else parkOn n (parkPart { m with startup := { m.startup with parkPart := m.startup.parkPart + 1 } } m.startup.parkPart)

/-- A SHUTDOWN goes on, once every partition has stopped. -/
def shutWork : Mod → Mod := smbWatch (fun m =>
  if m.startup.shutCmd.isNone || !m.parts.all (fun px => stopped px.2) then m
  else if m.startup.parkDeadline.isNone then finishShutdown m
  else parkOn 18 m)

/-- SHUTDOWN. -/
def runShutdown (m : Mod) (r : RingRef) (c : Cmd) : Mod :=
  let e := c.entry
  let ms := argN e 4 4
  if !entryClean e false false false [(0, 1), (32, 32)] then completeS m r e.cid .badDescriptor
  else onAdmin m r c (fun _ =>
    let dl := if bit e.args 0 then some (m.time + 1000000 * (if ms = 0 then 60000 else ms)) else none
    let m1 := abortActivation (runningCmd m r c)
    let m2 := { m1 with startup := { m1.startup with
      shutdown := true, shutCmd := some (r, e.cid), parkedCount := 0, parkPart := 0, parkDeadline := dl } }
    shutWork (forAll m2 (partIds m2) stopPart))

/-- `SHUTDOWN_PARK_TIMEOUT`: parking stops at a page boundary. -/
def doParkTimeout (m : Mod) : Mod :=
  if m.startup.shutCmd.isNone || m.startup.parkDeadline.isNone then m
  else
    let m1 := { m with
      parts := m.parts.map (fun px => (px.1, { px.2 with seqs := px.2.seqs.map (fun q =>
        if q.state = .parking then { q with state := beforePark q } else q) })),
      startup := { m.startup with parkPart := 16 } }
    shutWork m1

/-- Steps 2 and 5 to 7 of R488 at once, then the management domains (R489). -/
def stopAll (m : Mod) : Mod :=
  let m1 := abortActivation m
  allOff (commitNow (flushRings (forAll m1 (partIds m1) stopPart)))

/-- `PWR_EN_WITHDRAW`: the trip outputs are released too (R490, R516). -/
def doPwrEnOff (m : Mod) : Mod :=
  if !m.pins.pwrEn then m
  else
    let m1 := stopAll m
    { m1 with pins := { m1.pins with pwrEn := false, modRst := false, fault := false, hotTrip := false } }

/-- `MOD_RST_N`: low for 10 µs; a trip's outputs stay. -/
def doModRst (m : Mod) : Mod :=
  if !m.pins.pwrEn || m.pins.modRst then m
  else
    let m1 := stopAll m
    { m1 with pins := { m1.pins with modRst := true, fault := m.pins.fault && m.startup.step == 0 } }

/-- `MOD_RST_N_RELEASE`: start-up again, unless a trip is still latched (R489, R490). -/
def doModRstRelease (fz : Fuses) (env : StartEnv) (m : Mod) : Mod :=
  if !m.pins.modRst then m
  else
    let m1 := { m with pins := { m.pins with modRst := false } }
    if m.pins.pwrEn && !m.pins.fault && !m.pins.hotTrip then beginStart fz env m1 else m1

/-- `CTL_VDD_LOSS`: as `PWR_EN` withdrawn; the trip latches are lost with it (R516). -/
def doCtlVddLoss (m : Mod) : Mod :=
  let m1 := doPwrEnOff m
  { m1 with pins := { m1.pins with ctlVdd := false, fault := false, hotTrip := false } }

/-! ### The commands -/

/-- `STORE_WRITE_ACK`; a SHUTDOWN that parks goes on. -/
def execStoreWriteAck (p : PartId) (rejected : Bool) (s : State) : Host.Outcome State Fault Refusal :=
  lift (fun m => shutWork (doStoreWriteAck p.val rejected m)) s
/-- `PWR_EN_ASSERT`. -/
def execPwrEnAssert (env : StartEnv) (s : State) : Host.Outcome State Fault Refusal := lift (smbWatch (doPwrEn s.fuses env)) s
/-- `VIN_RANGE_WAIT`. -/
def execVinRangeWait (mv : Nat) (s : State) : Host.Outcome State Fault Refusal := lift (smbWatch (doVinWait s.fuses mv)) s
/-- `REF_CLOCK_WAIT`. -/
def execRefClockWait (s : State) : Host.Outcome State Fault Refusal := lift (smbWatch doRefWait) s
/-- `REFERENCE_RETURN`. -/
def execReferenceReturn (ref1 : Bool) (s : State) : Host.Outcome State Fault Refusal := lift (smbWatch (doRefReturn s.fuses ref1)) s
/-- `COOLANT_WAIT_CHECK`. -/
def execCoolantWaitCheck (inletDc flowDl : Nat) (s : State) : Host.Outcome State Fault Refusal :=
  lift (smbWatch (doCoolWait s.fuses inletDc flowDl)) s
/-- `SHUTDOWN`. -/
def execShutdown (r : RingRef) (e : SqEntry) (h : HostSide) (s : State) : Host.Outcome State Fault Refusal :=
  lift (smbWatch (takeCmd r e h 0x5C runShutdown)) s
/-- `SHUTDOWN_PARK_TIMEOUT`. -/
def execShutdownParkTimeout (s : State) : Host.Outcome State Fault Refusal := lift (smbWatch doParkTimeout) s
/-- `PWR_EN_WITHDRAW`. -/
def execPwrEnWithdraw (s : State) : Host.Outcome State Fault Refusal := lift (smbWatch doPwrEnOff) s
/-- `MOD_RST_N`. -/
def execModRstN (s : State) : Host.Outcome State Fault Refusal := lift (smbWatch doModRst) s
/-- `MOD_RST_N_RELEASE`. -/
def execModRstNRelease (env : StartEnv) (s : State) : Host.Outcome State Fault Refusal := lift (smbWatch (doModRstRelease s.fuses env)) s
/-- `CTL_VDD_LOSS`. -/
def execCtlVddLoss (s : State) : Host.Outcome State Fault Refusal := lift (smbWatch doCtlVddLoss) s

end Sys2Proof.Machine
end

