-- ==== Sys2Proof/Machine/Barrier.lean ====
section
/-! DEFINITION. The beat barrier, the watchdog, the step restart, commands that waited for a boundary
(02 R52; 06 R205-R212; 09 R302, R310-R312; 15 R451). -/
namespace Sys2Proof.Machine
open Sys2Proof

/-! ### Commands that waited (R302, R310-R312) -/

/-- The command of an opcode of R303 or R308. -/
def runOp (fz : Fuses) (m : Mod) (r : RingRef) (c : Cmd) : Mod :=
  match c.entry.opcode.toNat with
  | 0x01 => runSeqOpen m r c
  | 0x02 => runSeqAppend m r c
  | 0x03 => runSeqGenerate m r c
  | 0x04 => runSeqPause m r c
  | 0x05 => runSeqResume m r c
  | 0x06 => runSeqPark m r c
  | 0x07 => runSeqUnpark m r c
  | 0x08 => runSeqFork m r c
  | 0x09 => runSeqTruncate m r c
  | 0x0A => runSeqClose m r c
  | 0x0B => runSeqSnapshot m r c
  | 0x10 => runAdapterLoad m r c
  | 0x11 => runAdapterRetire m r c
  | 0x18 => runModeSet m r c
  | 0x19 => runQuery m r c
  | 0x1A => match argN c.entry 0 1 with
    | 0 => runFrameStart m r c
    | 1 => runFrameHold m r c
    | _ => runFrameResume m r c
  | 0x1F => runAbort m r c
  | 0x20 => runPlanLoad fz m r c
  | 0x21 => runPlanUnload m r c
  | 0x40 => runPartitionCreate fz m r c
  | 0x41 => runPartitionDestroy m r c
  | 0x42 => runPartitionHold m r c
  | 0x43 => runPartitionResume m r c
  | 0x44 => runModuleLimits m r c
  | 0x48 => runFwStage fz m r c
  | 0x49 => runFwActivate fz m r c
  | 0x4A => runConfigWrite m r c
  | 0x4B => runConfigRead m r c
  | 0x50 => runLedgerRead m r c
  | 0x51 => runTimeSet m r c
  | 0x54 => runAttest fz m r c
  | 0x58 => runPartnerList m r c
  | 0x5C => runShutdown m r c
  | _ => m

/-- Insert a command in fetch order. -/
def insertFetch (a : RingRef × Cmd) : List (RingRef × Cmd) → List (RingRef × Cmd)
  | [] => [a]
  | b :: bs => if a.2.fetchNo ≤ b.2.fetchNo then a :: b :: bs else b :: insertFetch a bs
/-- Commands in fetch order. -/
def inFetchOrder (l : List (RingRef × Cmd)) : List (RingRef × Cmd) := l.foldl (fun a c => insertFetch c a) []

/-- Try a waiting command again. -/
def retryCmd (fz : Fuses) (m : Mod) (rc : RingRef × Cmd) : Mod :=
  match cmdOf? m rc.1 rc.2.entry.cid with
  | some c => if c.phase = .waiting then startCmd m rc.1 c (runOp fz) else m
  | none => m

/-- The command is a SEQ_APPEND or SEQ_GENERATE. -/
def runsSteps (c : Cmd) : Bool := c.entry.opcode == 0x02 || c.entry.opcode == 0x03

/-- The waiting ABORT stops a command that runs steps: it acts before every other command of the boundary (R319). -/
def abortsRun (m : Mod) (rc : RingRef × Cmd) : Bool :=
  rc.2.entry.opcode == 0x1F && (cmdOf? m (targetRing rc.1 (argN rc.2.entry 0 1)) (BitVec.ofNat 16 (argN rc.2.entry 2 2))).any runsSteps

/-- A command whose pair was disabled stops at the boundary at which it is in no step (R319). -/
def stopSelf (p : Nat) (m : Mod) (rc : RingRef × Cmd) : Mod :=
  match partOf? m p, cmdOf? m rc.1 rc.2.entry.cid with
  | some x, some c =>
    if runsSteps c && c.abortBy == some (rc.1, c.entry.cid) && (memberNow x c.entry.handle).isNone then stopNow m p rc.1 c else m
  | _, _ => m

/-- The waiting commands of a partition's pairs act, in fetch order, as far as they can. -/
def retryPart (fz : Fuses) (m : Mod) (p : Nat) : Mod :=
  match partOf? m p with
  | none => m
  | some x =>
    let cs := inFetchOrder (ringCmds p x)
    let m1 := cs.foldl (stopSelf p) m
    let m2 := (cs.filter (abortsRun m1)).foldl (retryCmd fz) m1
    cs.foldl (retryCmd fz) m2

/-- The same with no step beginning before every command has acted. -/
def serviceWaiting (fz : Fuses) (m : Mod) (p : Nat) : Mod :=
  match partOf? m p with
  | none => m
  | some x =>
    if x.frame0 = .run then
      settleHold (retryPart fz (updPart m p (fun y => { y with frame0 := .holdPending })) p) p
    else retryPart fz m p

/-- The waiting commands of the admin pairs act, in fetch order. -/
def serviceAdmin (fz : Fuses) (m : Mod) : Mod :=
  let of_ (h : Nat) : List (RingRef × Cmd) := (hostOf m h).admin.cmds.map (fun c => (RingRef.admin (Fin.ofNat 4 h), c))
  (inFetchOrder ([0, 1, 2, 3].flatMap of_)).foldl (retryCmd fz) m

/-- Everything that waited for a boundary of the partition. -/
def atBoundaryDo (fz : Fuses) (m : Mod) (p : Nat) : Mod := shutWork (serviceAdmin fz (serviceWaiting fz m p))

/-! ### Arriving (R52, R205) -/

/-- Every list of the beat has issued and completed its last instruction, and every receive its count. -/
def beatDone (c : Core) : Bool :=
  ([1, 2, 3, 4] : List Nat).all (fun e => (curList c (15 + e)).2 ≤ c.done.getD e 0)
    && c.xfers.all (fun t => t.opcode == 0x40) && !recvPending c

/-- A plan request of the partition awaits the answer of a partner. -/
def awaitsPartner (m : Mod) (p : Nat) : Option Request :=
  m.requests.find? (fun q => q.part == p && q.cls == 0 && !q.kept && (partnerOf m q.node).isSome)

/-- A partition stalled by its partner has every response and stands at the barrier: HELD, then resumed (R370). -/
def stallDone (m : Mod) (p : Nat) : Mod :=
  match partOf? m p with
  | none => m
  | some x =>
    if x.frame0 == .faulted && x.faultStall && !x.faultPlan && !x.faultLink && x.repair.isNone && allArrived m x
        && !m.requests.any (fun q => q.part == p && q.cls == 0) then
      let m1 := settleHold (updPart m p (fun y => { y with frame0 := .held, faultStall := false })) p
      postLedger m1 0x0A03 none 0 0 (fltPayload m1 0xFFFF 0xFFFF 0x3F 0x3F p 0x2A 0 0)
    else m

/-- The last core of a partition has arrived: what stops at a beat boundary stops. -/
def boundaryReached (fz : Fuses) (m : Mod) (p : Nat) : Mod :=
  match partOf? m p with
  | some x => if allArrived m x then atBoundaryDo fz (settleHold (stallDone m p) p) p else m
  | none => m

/-- `BEAT_ARRIVE`. -/
def doBeatArrive (fz : Fuses) (s : Nat) (m : Mod) : Mod :=
  match issuing m s with
  | none => m
  | some (p, _) =>
    let c := (siteOf m s).core
    if c.atBarrier || !beatDone c then m
    else match residue? c with
      | some t => latch m s (Config.sequencerEngine % 8) 0 (Config.arrivalInstr 0x0A % 65536) ⟨0x0A, t, 0⟩
      | none => boundaryReached fz (updCore m s (fun d => { d with atBarrier := true })) p

/-! ### Releasing (R51, R75, R106, R132, R187, R205, R257, R392) -/

/-- Add quantisation counts. -/
def addQ (a b : QCount) : QCount := ⟨a.sat + b.sat, a.zero + b.zero, a.flushed + b.flushed, a.blocks + b.blocks⟩

/-- Each core's quantisation counts of the beat go to the error watch (R106, R132). -/
def takeCounts (m : Mod) (p s : Nat) : Mod :=
  let qs := (siteOf m s).core.qcounts
  qs.foldl (fun m q => updLayer m p q.1 (fun l => { l with window := addQ l.window q.2 })) (updCore m s (fun c => { c with qcounts := [] }))

/-- A core at the end of a beat: received lines become visible, receives end, the beat counts (R52, R75). -/
def endBeat (c : Core) : Core :=
  { (c.landed.foldl (fun d l => writeLine d l.addr l.line) c) with landed := [], recvs := [], beatCount := c.beatCount + 1 }

/-- The rotation of a group's injection router that the Carousel requested (R361, R445). -/
def rotateInject (m : Mod) (x : Part) (pl : Plan) (g : Nat) : Mod :=
  if (groupOf m g).rotateDue then moveInject (updGroup m g (fun z => { z with rotateDue := false })) x pl g else m

/-- What every release does: staged changes, the cores' beat, claims, watchdog, clocks, rotations. -/
def endBeatAll (m : Mod) (p : Nat) (x : Part) (pl : Plan) : Mod :=
  let m1 := forAll m (partSites x) (fun m s => updCore (takeCounts m p s) s endBeat)
  let m2 := applyAt m1 p x.beatCount
  let m3 := clearClaims m2 p
  let m4 := forAll m3 (partRegions m3 x) (fun m r => updRegion m r (fun y => { y with watchdogNs := 0 }))
  let m5 := forAll m4 (bitsOf (configGroups x.config)) (fun m g => rotateInject m x pl g)
  retargetPart (updPart m5 p (fun y => { y with beatCount := y.beatCount + 1, linkFault := false })) p

/-- Length of the schedule in force. -/
def stepBeats (m : Mod) (x : Part) : Nat :=
  match (partSites x).head? with
  | some s => schedLen (siteOf m s).core x.bucket
  | none => 0

/-- Every core enters the beat at a schedule position (R51, R135). -/
def enterAll (m : Mod) (p pos : Nat) : Mod :=
  match partOf? m p with
  | none => m
  | some x =>
    let m1 := applyLevels (updPart m p (fun y => { y with schedPos := pos })) p x.bucket pos
    match partOf? m1 p with
    | some y => forAll m1 (partSites y) (enterBeat y.bucket pos (levelsOf y) · ·)
    | none => m1

/-- A clean run that could not narrow before tries again (R137, R140). -/
def retryNarrow (m : Mod) (p : Nat) : Mod :=
  match partOf? m p with
  | none => m
  | some x => forAll m ((x.layers.filter (fun l => 4096 ≤ l.2.clean && (l.2.level == 1 || l.2.level == 2))).map Prod.fst)
      (fun m k => narrow m p k 5)

/-- The step is over (R257): commit, adapter versions, waiting commands, the next step; without one, committed changes take
effect (R393). -/
def endStep (fz : Fuses) (m : Mod) (p : Nat) : Mod :=
  let m1 := retryNarrow (adapterBoundary (commitStep m p) p) p
  let m2 := trySwitch fz (atBoundaryDo fz m1 p)
  let m3 := storeWork (kick m2 p) p
  match partOf? m3 p with
  | some x => if x.inStep then m3 else shutWork (stageWork m3 p)
  | none => m3

/-- The partition's barrier releases now. -/
def mayRelease (m : Mod) (p : Nat) (x : Part) : Bool :=
  x.inStep && x.frame0 == .run && !anyHold x && allArrived m x
    && (partRegions m x).all (fun r => !(regionAt m r).gateClosed)
    && (x.restartDue || (!withheld x x.beatCount && (x.schedPos + 1 < stepBeats m x ||
      (rmAlive m && (x.nextBatch.isEmpty || !x.tableWaiting)))))
    && (partOf? m p).isSome

/-- `BARRIER_RELEASE`. -/
def doBarrierRelease (fz : Fuses) (p : Nat) (m : Mod) : Mod :=
  match partOf? m p with
  | none => m
  | some x => match x.plan with
    | none => m
    | some pl =>
      if !mayRelease m p x then m
      else if x.restartDue then
        enterAll (forAll (updPart m p (fun y => { y with restartDue := false })) (partRegions m x) (fun m r =>
          updRegion m r (fun y => { y with watchdogNs := 0 }))) p 0
      else
        let m1 := endBeatAll m p x pl
        if x.schedPos + 1 < stepBeats m x then storeWork (enterAll m1 p (x.schedPos + 1)) p else endStep fz m1 p

/-! ### The watchdog (R208) -/

/-- The lowest site whose core has not arrived. -/
def lateSite (m : Mod) (x : Part) : Nat :=
  ((partSites x).filter (fun s => !(siteOf m s).core.atBarrier)).foldl min 0xFFFF

/-- What Ringmaster records of the cores that are late (R208 step 2). -/
def lateCores (m : Mod) (x : Part) : List LateCore :=
  ((partSites x).filter (fun s => !(siteOf m s).core.atBarrier)).map (fun s =>
    let y := siteOf m s
    { site := s, busy := busyBits y.core, recvPending := recvPending y.core, router := y.router.faultInfo })

/-- A router or link hardware fault of the beat stands behind the timeout (R208, R214). -/
def hardwareFault (m : Mod) (p : Nat) : Bool :=
  (partOf? m p).any (fun x => x.linkFault) || m.fabric.reports.any (fun n => n.1 == p && n.2.cls == .fabric)
    || (m.fabric.linkDown ++ m.fabric.linkDead).any (ownsLink m p)
    || m.fabric.flights.any (fun f => hPart f.pkt.header == p && !outputsFree m f.site f.port f.pkt)

/-- `BEAT_TIMEOUT`. -/
def doBeatTimeout (p : Nat) (m : Mod) : Mod :=
  match partOf? m p with
  | none => m
  | some x =>
    if !beatsRun x || x.holdPartner || x.holdSeam then m
    else
      let s := lateSite m x
      let m1 := updPart (faultPart (forAll m (partRegions m x) (fun m r => fabFlag m r 5)) p s 0x26) p (fun y => { y with
        late := lateCores m x })
      if hardwareFault m p then
        let n : FaultNote := { site := s, code := 0x26, cls := .fabric, partner := false }
        let m2 := post m1 0x0306 none (fabPayload m1 0xFFFF p 0x26 0 0)
        beginRestart (faultEntry m2 p n 0) p n
      else match awaitsPartner m p with
        | some q =>
          let m2 := updPart (post m1 0x0306 none (fabPayload m1 0xFFFF p 0x26 0 0)) p (fun y => { y with faultStall := true })
          postLedger m2 0x0708 none 6 0 (linkPayload m2 q.group q.link 0x2A 0 p (partnerOf m2 q.node))
        | none =>
          let m2 := post m1 0x0306 none (fabPayload m1 0xFFFF p 0x26 0 0)
          planFault m2 p x { site := s, code := 0x26, cls := .plan, partner := false }

/-! ### The step restart (R451) -/

/-- A core as the restarted step finds it. -/
def restartCore (b : Nat) (step : Bool) (c : Core) : Core :=
  { c with
    tokens := List.replicate 32 0, queues := List.replicate 16 [], stageNext := List.replicate 16 0, deltaQ := [],
    dapplyOn := false, beats := [], reserve := [], recvs := [], landed := [],
    xfers := [], qcounts := [], samp := [], fault := none, state := if step then .held else .idle, atBarrier := step,
    accessPos := List.replicate 16 0, accessBeat := List.replicate 16 b, accessPart := List.replicate 16 0,
    done := List.replicate 5 0, schedPos := 0, beatCount := b }

/-- What is under way of the discarded step is dropped: packets, acknowledgements, claims, plan requests. -/
def dropTraffic (m : Mod) (p : Nat) (x : Part) : Mod :=
  let m1 := { m with
    requests := m.requests.filter (fun q => !(q.part == p && q.cls == 0)),
    fabric := { m.fabric with
      flights := m.fabric.flights.filter (fun f => hPart f.pkt.header != p),
      acks := m.fabric.acks.filter (fun a => !(partSites x).contains a.src) } }
  clearClaims m1 p

/-- Members that cannot run any more are empty in the restarted step (R451, R459). -/
def emptyMembers (m : Mod) (x : Part) : Part :=
  let gone := x.batch.filter (fun b => b.valid && !stillMember m x b)
  let y := gone.foldl dropMember x
  { y with batch := y.batch.map (fun b => if gone.contains b then { b with valid := false, new := 0, newPages := [], cow := none } else b) }

/-- The events that end a repair (R451, R454, R455). -/
def postRepair (m : Mod) (p : Nat) (d : Repair) (resumed : Bool) : Mod :=
  let us := interruptUs m d
  let m1 := if d.restart then m
    else if d.evacuation then postEvacuated m p d.site d.region d.toRegion us
    else postTakeover m p d.site d.standin d.code us
  if resumed then
    postLedger m1 0x0A03 none 0 0 (fltPayload m1 d.site d.standin d.region 0x3F p d.code us 0)
  else m1

/-- The interrupted step begins again: at once where the partition runs, else when it next runs. -/
def resumeStep (m : Mod) (p : Nat) : Mod :=
  match partOf? m p with
  | none => m
  | some x =>
    if !x.inStep then kick m p
    else if x.frame0 = .run then enterAll m p 0
    else updPart m p (fun y => { y with restartDue := true, schedPos := 0 })

/-- `STEP_RESTART`. -/
def doStepRestart (fz : Fuses) (p : Nat) (m : Mod) : Mod :=
  match partOf? m p with
  | none => m
  | some x => match x.repair with
    | none => m
    | some d =>
      if !d.awaited.isEmpty || !rmAlive m then m
      else
        let m1 := dropTraffic m p x
        let m2 := forAll m1 (partSites x) (fun m s => updCore m s (restartCore x.beatCount x.inStep))
        let m3 := updPart m2 p (fun y => { (emptyMembers m2 y) with repair := none, schedPos := 0 })
        let m4 := forAll m3 (if d.evacuation then [d.region, d.toRegion] else [d.region]) (fun m r =>
          updRegion m r (fun y => { y with repairing := false }))
        let back : Bool := x.frame0 == .faulted && !x.faultPlan && !x.faultLink
        let m5 := if back then settleHold (updPart m4 p (fun y => { y with frame0 := .held, faultStall := false })) p else m4
        let m6 := nextFault fz (resumeStep (postRepair m5 p d back) p) p
        storeWork (atBoundaryDo fz m6 p) p

/-! ### The commands -/

/-- `BEAT_ARRIVE`. -/
def execBeatArrive (site : SiteId) (s : State) : Host.Outcome State Fault Refusal := lift (doBeatArrive s.fuses site.val) s
/-- `BARRIER_RELEASE`. -/
def execBarrierRelease (p : PartId) (s : State) : Host.Outcome State Fault Refusal := lift (doBarrierRelease s.fuses p.val) s
/-- `BEAT_TIMEOUT`. -/
def execBeatTimeout (p : PartId) (s : State) : Host.Outcome State Fault Refusal := lift (doBeatTimeout p.val) s
/-- `STEP_RESTART`. -/
def execStepRestart (p : PartId) (s : State) : Host.Outcome State Fault Refusal := lift (doStepRestart s.fuses p.val) s

end Sys2Proof.Machine
end

