-- ==== Sys2Proof/Machine/Registers.lean ====
section
/-! DEFINITION. Register accesses: the event ring, the emergency hold, writes, reads that latch
(18_address_map_and_setup_registers.md R492-R509; R9, R79, R291-R296, R375-R377, R388, R398, R425, R444, R445). -/
namespace Sys2Proof.Machine
open Sys2Proof

/-! ### The module event ring (R503, R505) -/

/-- The event ring of a site enters ERROR. -/
def evError (m : Mod) (h cause : Nat) : Mod :=
  updHost m h (fun x => { x with ring := { x.ring with state := .error, error := cause } })

/-- Write held records of a site's ring. -/
def evDrain (m : Mod) (h : Nat) : Mod := updHost m h (drainRing m.time h 257)

/-- `EV_ENABLE`: the ring starts at index 0 with `PHASE` 1 and takes the records held. -/
def doEvEnable (h : Nat) (m : Mod) : Mod :=
  let r := (hostOf m h).ring
  if r.enable then m
  else if r.log2 < 6 ∨ 16 < r.log2 then
    evError (updHost m h (fun x => { x with ring := { x.ring with enable := true } })) h 3
  else
    evDrain (updHost m h (fun x => { x with ring := { x.ring with
      enable := true, state := .active, error := 0, tail := 0, phase := true, head := 0, unannounced := 0, oldest := 0 } })) h

/-- `ENABLE` cleared: records wait in the hold queue again. -/
def doEvDisable (h : Nat) (m : Mod) : Mod :=
  updHost m h (fun x => { x with ring := { x.ring with enable := false, state := .off } })

/-- `EV_HEAD_DOORBELL`: record slots are free again (R296). -/
def doEvHead (h v : Nat) (m : Mod) : Mod :=
  let r := (hostOf m h).ring
  let size := 2 ^ r.log2
  if r.state ≠ .active then m
  else if size ≤ v ∨ ringDist size r.head r.tail < ringDist size r.head v then evError m h 2
  else evDrain (updHost m h (fun x => { x with ring := { x.ring with head := v } })) h

/-! ### Emergency hold (R508, R509) -/

/-- `EHOLD_KEY`: 0x48E1, then 0x1E84 within 1 ms; Ringmaster decodes the writes. -/
def doEholdKey (h : Nat) (v : BitVec 32) (m : Mod) : Mod :=
  let k := fld v 0 16
  let first := (hostOf m h).eholdFirst
  if !rmAlive m then m
  else updHost m h (fun x => { x with
    eholdFirst := if k = 0x48E1 then some m.time else none,
    eholdOpen := k == 0x1E84 && first.any (fun t => m.time ≤ t + 1000000) })

/-- Set the ADMIN hold cause of a partition, as PARTITION_HOLD does (R387). -/
def adminHold (m : Mod) (p : Nat) : Mod := settleHold (updPart m p (fun x => { x with holdAdmin := true })) p

/-- Clear the ADMIN hold cause of a partition, as PARTITION_RESUME does (R387). -/
def adminRelease (m : Mod) (p : Nat) : Mod :=
  if (partOf? m p).any (fun x => x.holdAdmin) then
    kick (settleHold (updPart m p (fun x => clearSummary { x with holdAdmin := false })) p) p
  else m

/-- Payload of `EMERGENCY_HOLD` (R507). -/
def eholdPayload (m : Mod) (ps : List Nat) (release : Bool) (h : Nat) : BitVec 192 :=
  payload [(0, 16, (ps.map (fun p => 2 ^ p)).sum), (16, 1, b2n release), (24, 2, h), timeField m]

/-- A write of `GLB_EHOLD`: refused without the sequence, while no member decodes it, or to release after a SHUTDOWN. -/
def doEhold (h : Nat) (parts : BitVec 16) (release : Bool) (m0 : Mod) : Mod :=
  let opened := (hostOf m0 h).eholdOpen
  let m := eholdClose h m0
  if !opened || !rmAlive m || (release && m.startup.shutdown) then { m with eholdRefused := true }
  else
    let ps := (bitsOf parts).filter (fun p => (partOf? m p).isSome)
    let m1 := { m with eholdRefused := false }
    let m2 := postLedger m1 0x0B02 none 0 0 (eholdPayload m1 ps release h)
    forAll m2 ps (if release then adminRelease else adminHold)

/-! ### Ring set-up registers (R294, R502, R503) -/

/-- A base address after a write of its low or high word; bits [11:0] are reserved. -/
def putBase (b : BitVec 64) (high : Bool) (v : BitVec 32) : BitVec 64 :=
  if high then putFld b 32 32 v.toNat else putFld b 12 20 (fld v 12 20)

/-- A write of a set-up register of a ring pair whose `ENABLE` is 0. -/
def setPairReg (admin : Bool) (off : Nat) (v : BitVec 32) (p : Pair) : Pair :=
  match off with
  | 0x00 => { p with sqBase := putBase p.sqBase false v }
  | 0x04 => { p with sqBase := putBase p.sqBase true v }
  | 0x08 => { p with cqBase := putBase p.cqBase false v }
  | 0x0C => { p with cqBase := putBase p.cqBase true v }
  | 0x10 => { p with sqLog2 := fld v 0 5, cqLog2 := fld v 8 5 }
  | 0x14 => { p with
      vector := fld v 0 8, coalCount := fld v 8 8, coalUs := fld v 16 8,
      progressVector := if admin then 0 else fld v 24 8 }
  | 0x18 => if admin then p else { p with units := fld v 0 5 }
  | 0x1C => if admin then p else { p with keepBuffers := bit v 1 }
  | _ => p

/-- A write to a ring pair block: the fields locked by `ENABLE`, then `ENABLE` itself. -/
def writePair (r : RingRef) (off : Nat) (v : BitVec 32) (m : Mod) : Mod :=
  let on := (pairOf m r).enable
  let m1 := if on then m else updPair m r (setPairReg (isAdmin r) off v)
  if off = 0x1C then (if bit v 0 then doRpEnable r m1 else doRpDisable r m1) else m1

/-- A write of a set-up register of an event ring. -/
def setEvReg (off : Nat) (v : BitVec 32) (r : EvRing) : EvRing :=
  if off = 0x14 then { r with mask := v.setWidth 11 }
  else if r.enable then r
  else match off with
    | 0x00 => { r with base := putBase r.base false v }
    | 0x04 => { r with base := putBase r.base true v }
    | 0x08 => { r with log2 := fld v 0 5 }
    | 0x0C => { r with vector := fld v 0 8, coalCount := fld v 8 8, coalUs := fld v 16 8 }
    | _ => r

/-! ### MSI-X tables (R318, R494) -/

/-- An MSI-X table after a write of one of its words; the reserved bits of vector control stay 0. -/
def msixPut (tab : SMap Word) (off : Nat) (v : BitVec 32) : SMap Word :=
  let k := off / 8
  let d : Word := if k % 2 = 1 then 0x100000000 else 0
  let w := mget tab k d
  let x := if off % 8 = 0 then putFld w 0 32 v.toNat else putFld w 32 32 (if k % 2 = 1 then fld v 0 1 else v.toNat)
  mput d tab k x

/-- Pending vectors that a write unmasked: raised, and no longer pending. -/
def msixDue (tab : SMap Word) (pending : List Nat) : List Nat := pending.filter (fun v => !vecMasked tab v)

/-- A write to the MSI-X table of function 0 of a site. -/
def writeMsix0 (h off : Nat) (v : BitVec 32) (m : Mod) : Mod :=
  updHost m h (fun x =>
    let tab := msixPut x.msixTable off v
    { x with
      msixTable := tab, msixPending := x.msixPending.filter (vecMasked tab),
      vectors := x.vectors ++ (msixDue tab x.msixPending).map (fun k => (0, k)) })

/-- A write to the MSI-X table of a partition function. -/
def writeMsixP (h p off : Nat) (v : BitVec 32) (m : Mod) : Mod :=
  match partOf? m p with
  | none => m
  | some x =>
    let tab := msixPut x.msixTable off v
    updHost (updPart m p (fun y => { y with msixTable := tab, msixPending := y.msixPending.filter (vecMasked tab) })) h
      (fun y => { y with vectors := y.vectors ++ (msixDue tab x.msixPending).map (fun k => (p + 1, k)) })

/-! ### Blocks of function 0 (R492) -/

/-- A write to `GLB`. -/
def writeGlb (h : HostId) (off : Nat) (v : BitVec 32) (m0 : Mod) : Mod :=
  let m := if off = 0x404 then m0 else eholdClose h.val m0
  let r := RingRef.admin h
  if 0x100 ≤ off ∧ off < 0x140 then writePair r (off - 0x100) v m
  else if off = 0x200 then doSqTail r (fld v 0 16) m
  else if off = 0x208 then doCqHead r (fld v 0 16) m
  else if off = 0x310 then (if bit v 0 then doEvEnable h.val m else doEvDisable h.val m)
  else if 0x300 ≤ off ∧ off < 0x328 then updHost m h.val (fun x => { x with ring := setEvReg (off - 0x300) v x.ring })
  else if off = 0x380 then doEvHead h.val (fld v 0 16) m
  else if off = 0x400 then doEholdKey h.val v m
  else if off = 0x404 then doEhold h.val (v.setWidth 16) (bit v 16) m
  else if 0xF0000 ≤ off ∧ off < 0xF1000 then writeMsix0 h.val (off - 0xF0000) v m
  else m

/-- A write to `PWR` (R425). -/
def writePwr (off : Nat) (v : BitVec 32) (m : Mod) : Mod :=
  match off with
  | 0x00C => { m with pwr := { m.pwr with event := m.pwr.event &&& ~~~(v.setWidth 5) } }
  | 0x010 => doDomainCmd v m
  | _ => m

/-- A write to entry `i` of a Carousel table (R445). -/
def writeCar (p i off : Nat) (v : BitVec 32) (m : Mod) : Mod :=
  if off = 0xC then doCarEntry p i (bit v 0) m
  else updPart m p (fun x =>
    let c := mget x.cars i carNone
    if c.valid then x
    else match off with
      | 0x0 => { x with cars := mset x.cars i { c with frameA := fld v 0 12, frameB := fld v 16 12 } }
      | 0x4 => { x with cars := mset x.cars i { c with primary := fld v 0 12, alternate := fld v 16 12 } }
      | 0x8 => { x with cars := mset x.cars i { c with count := fld v 0 12 } }
      | _ => x)

/-- A write to `THM` (R444, R445). -/
def writeThm (off : Nat) (v : BitVec 32) (m : Mod) : Mod :=
  if off = 0x018 then { m with thm := { m.thm with event := m.thm.event &&& ~~~(v.setWidth 6) } }
  else if 0x1000 ≤ off ∧ off < 0x1000 + 0x400 * 16 then
    let j := (off - 0x1000) % 0x400
    if j < 0x200 then writeCar ((off - 0x1000) / 0x400) (j / 0x10) (j % 0x10) v m else m
  else m

/-- A write to `SEC` (R398). -/
def writeSec (fz : Fuses) (off : Nat) (v : BitVec 32) (m : Mod) : Mod :=
  match off with
  | 0x008 => doFuseKey v m
  | 0x00C =>
    let arg := fld v 4 8
    fuseCmd m (match fld v 0 4 with
      | 1 => revokeOp fz m.sec arg
      | 2 => rollbackOp fz m.sec arg
      | 3 => debugOp fz arg
      | 4 => jtagOp fz
      | 5 => isolationOp fz
      | _ => .error 5)
  | 0x014 => doOwnCheck fz (v.setWidth 16) m
  | _ => m

/-- A write to an aperture (R377): `VALID` can be set only while the group is assigned. -/
def writeAperture (owned : Bool) (off : Nat) (v : BitVec 32) (a : Aperture) : Aperture :=
  match off with
  | 0x00 =>
    let c := v.setWidth 26
    { a with ctrl := if owned || bit a.ctrl 0 then c else setBit c 0 false }
  | 0x04 => { a with lines := v.toNat }
  | 0x08 => { a with base := putFld a.base 0 32 v.toNat }
  | 0x0C => { a with base := putFld a.base 32 32 v.toNat }
  | _ => a

/-- A write to `PG[g]` (R375, R377). -/
def writePg (g off : Nat) (v : BitVec 32) (m : Mod) : Mod :=
  if off = 0x004 then doPgCtrl g v m
  else if off = 0x008 then updGroup m g (fun y => { y with event := y.event &&& ~~~(v.setWidth 6) })
  else if 0x300 ≤ off ∧ off < 0x400 then
    updGroup m g (fun y => { y with
      apertures := lupd y.apertures ((off - 0x300) / 0x20) (writeAperture y.owner.isSome ((off - 0x300) % 0x20) v) })
  else m

/-- The W1C registers of `RGC[n]` (R469, R172, R215). -/
def isRgcEvent (off : Nat) : Bool := off == 0x0008 || off == 0x3004 || off == 0x4004

/-- A write to `RGC[n]`: held while its controller restarts (R498). -/
def writeRgc (n off : Nat) (v : BitVec 32) (m : Mod) : Mod :=
  if !isRgcEvent off then m
  else if (regionAt m n).fwRestart then updRegion m n (fun y => { y with heldW1C := y.heldW1C ++ [(off, v)] })
  else clearRgc n m (off, v)

/-- A write to `PTN[p]` (R388). -/
def writePtn (p off : Nat) (v : BitVec 32) (m : Mod) : Mod :=
  if 0x200 ≤ off ∧ off < 0x240 then
    let c := (off - 0x200) / 8
    if off % 8 = 0 then updPart m p (fun x => { x with classes := lupd x.classes c (fun d => { d with itlNext := v.toNat }) })
    else doClassWrite p c v m
  else m

/-- A write to function 0 BAR0. -/
def writeFn0 (fz : Fuses) (h : HostId) (off : Nat) (v : BitVec 32) (m : Mod) : Mod :=
  match off / 0x100000 with
  | 0x0 => writeGlb h off v m
  | 0x2 => writePwr (off - 0x200000) v m
  | 0x3 => writeThm (off - 0x300000) v m
  | 0x6 => writeSec fz (off - 0x600000) v m
  | 0x7 => if off < 0x740000 ∧ off % 0x10000 = 0x004 then
      updHost m ((off - 0x700000) / 0x10000) (fun x => { x with event := x.event &&& ~~~(v.setWidth 6) }) else m
  | 0x8 => writePg ((off - 0x800000) / 0x10000) (off % 0x10000) v m
  | _ =>
    if 0x1000000 ≤ off ∧ off < 0x1400000 then writeRgc ((off - 0x1000000) / 0x10000) (off % 0x10000) v m
    else if 0x2000000 ≤ off ∧ off < 0x2400000 then writePtn ((off - 0x2000000) / 0x40000) (off % 0x40000) v m
    else m

/-! ### Partition functions (R291, R292) -/

/-- A write of `PFN_CTRL`: `ATTACH`, then `RESUME`, then `DETACH`. -/
def writePfnCtrl (h p : Nat) (v : BitVec 32) (m : Mod) : Mod :=
  let m1 := if bit v 0 then doAttach h p m else m
  let m2 := if bit v 1 then doResume h p { writes := [], rejects := (hostOf m1 h).rejects } m1 else m1
  if bit v 2 then doDetach h p m2 else m2

/-- A write to the BAR0 of a partition function at the site that owns the partition. -/
def writePfn (h p off : Nat) (v : BitVec 32) (m : Mod) : Mod :=
  if off = 0x008 then writePfnCtrl h p v m
  else if off = 0x010 then updPart m p (fun x => { x with cookieReg := putFld x.cookieReg 0 32 v.toNat })
  else if off = 0x014 then updPart m p (fun x => { x with cookieReg := putFld x.cookieReg 32 32 v.toNat })
  else if off = 0x028 then updPart m p (fun x => { x with pairErr := x.pairErr &&& ~~~(v.setWidth 64) })
  else if off = 0x02C then updPart m p (fun x => { x with pairErr := x.pairErr &&& ~~~(v.setWidth 64 <<< 32) })
  else if 0x1000 ≤ off ∧ off < 0x2000 then writePair (ringOf p ((off - 0x1000) / 0x40)) ((off - 0x1000) % 0x40) v m
  else if 0x80000 ≤ off ∧ off < 0x80200 ∧ off % 8 = 0 then doSqTail (ringOf p ((off - 0x80000) / 8)) (fld v 0 16) m
  else if 0x81000 ≤ off ∧ off < 0x81200 ∧ off % 8 = 0 then doCqHead (ringOf p ((off - 0x81000) / 8)) (fld v 0 16) m
  else if 0xF0000 ≤ off ∧ off < 0xF1000 then writeMsixP h p (off - 0xF0000) v m
  else m

/-! ### Accesses (R495) -/

/-- Count an access that is not a naturally aligned one of 4 or 8 bytes. -/
def countBad (m : Mod) : Mod := { m with badAccess := sat32 (m.badAccess + 1) }

/-- The access is naturally aligned and of 4 or 8 bytes. -/
def plainAccess (a : Access) : Bool := (a.size == 4 || a.size == 8) && a.offset % a.size == 0

/-- `BAD_ACCESS`: a read completes with Completer Abort, a write is discarded; either is counted. -/
def doBadAccess (a : Access) (m : Mod) : Mod :=
  if plainAccess a then m
  else if a.write then countBad m
  else { (countBad m) with resp := 0, aborted := true }

/-- `REGISTER_WRITE`: a 4-byte write through host site `h` to function `fn`. -/
def doRegisterWrite (fz : Fuses) (h : HostId) (fn off : Nat) (v : BitVec 32) (m : Mod) : Mod :=
  if !inBar fn off then m
  else if off % 4 ≠ 0 then countBad m
  else if fn = 0 then writeFn0 fz h off v m
  else if (partOf? m (fn - 1)).any (fun x => partHost x == h.val) then writePfn h.val (fn - 1) off v m
  else m

/-- `LO_READ_LATCH`: a 4-byte read through host site `h`; reading a `_LO` latches its `_HI` for that site (R79, R496). -/
def doLoRead (fz : Fuses) (h fn off : Nat) (m : Mod) : Mod :=
  if inBar fn off && off % 4 != 0 then { (countBad m) with resp := 0, aborted := true }
  else match readReg fz m h fn off with
    | none => { m with resp := 0, aborted := true }
    | some v =>
      let m1 := respond m v
      if fn = 0 ∧ isHi (off + 4) then
        updHost m1 h (fun x => { x with hiLatch := mput 0 x.hiLatch (off + 4) (BitVec.ofNat 32 (fn0Reg fz m h (off + 4))) })
      else m1

/-! ### The commands -/

/-- `EV_ENABLE`. -/
def execEvEnable (h : HostId) (s : State) : Host.Outcome State Fault Refusal := lift (viaGlb h (doEvEnable h.val)) s
/-- `EV_HEAD_DOORBELL`. -/
def execEvHeadDoorbell (h : HostId) (value : BitVec 16) (s : State) : Host.Outcome State Fault Refusal :=
  lift (viaGlb h (doEvHead h.val value.toNat)) s
/-- `EHOLD_KEY`. -/
def execEholdKey (h : HostId) (value : BitVec 32) (s : State) : Host.Outcome State Fault Refusal :=
  lift (viaGlb h (doEholdKey h.val value)) s
/-- `EMERGENCY_HOLD`. -/
def execEmergencyHold (h : HostId) (partitions : BitVec 16) (s : State) : Host.Outcome State Fault Refusal :=
  lift (viaSite h.val (doEhold h.val partitions false)) s
/-- `EMERGENCY_RELEASE`. -/
def execEmergencyRelease (h : HostId) (partitions : BitVec 16) (s : State) : Host.Outcome State Fault Refusal :=
  lift (viaSite h.val (doEhold h.val partitions true)) s
/-- `BAD_ACCESS`. -/
def execBadAccess (h : HostId) (a : Access) (s : State) : Host.Outcome State Fault Refusal :=
  lift (viaSite h.val (doBadAccess a)) s
/-- `REGISTER_WRITE`. -/
def execRegisterWrite (h : HostId) (fn : Fin 17) (offset : Nat) (value : BitVec 32) (s : State) : Host.Outcome State Fault Refusal :=
  lift (viaSite h.val (doRegisterWrite s.fuses h fn.val offset value)) s
/-- `LO_READ_LATCH`. -/
def execLoReadLatch (h : HostId) (fn : Fin 17) (offset : Nat) (s : State) : Host.Outcome State Fault Refusal :=
  lift (viaSite h.val (doLoRead s.fuses h.val fn.val offset)) s

end Sys2Proof.Machine
end

