-- ==== Sys2Proof/Machine/Smbus.lean ====
section
/-! DEFINITION. The SMBus management port (19_electrical_and_mechanical.md R518; R404, R485). -/
namespace Sys2Proof.Machine
open Sys2Proof

/-- The port does not acknowledge. -/
def smbNack (m : Mod) : Mod := { m with resp := 0, aborted := true }

/-- The port answers from step 2 of start-up until the management domains power down. -/
def smbLive (m : Mod) : Bool := m.pwr.mgmtOn != 0

/-- A read that returns `v m`. -/
def smbRead (v : Mod → Nat) (m : Mod) : Mod := if smbLive m then respond m (v m) else smbNack m

/-- Temperature of the hottest site; 0xFFFF until step 4. -/
def smbHottest (m : Mod) : Nat :=
  if m.startup.step < 4 then 0xFFFF
  else match hottest m (m.sites.map Prod.fst) with
    | some s => siteTemp m s
    | none => 0

/-- The debug console: acknowledged only at `DEBUG_LEVEL` 0. What the console answers is not stated: a free value. -/
def doConsole (fz : Fuses) (write : Bool) (bs : List Byte) (m : Mod) : Mod :=
  if !smbLive m || fz.debugLevel != 0 then smbNack m
  else if write then { m with pins := { m.pins with console := bs }, resp := 0, aborted := false }
  else bumpFree (respond m (Config.freeWord m.freeCount).toNat)

/-- The Alert Response Address cycle: the module answers with its address and releases `SMB_ALERT_N`. -/
def doAlertResponse (m : Mod) : Mod :=
  if smbLive m && m.pins.smbAlert then
    { (respond m (0x58 + m.pins.straps)) with pins := { m.pins with smbAlert := false } }
  else smbNack m

/-! ### The commands -/

/-- `SMB_START_CODE`. -/
def execSmbStartCode (s : State) : Host.Outcome State Fault Refusal := lift (smbRead (fun m => m.startup.code)) s
/-- `SMB_STATUS`. -/
def execSmbStatus (s : State) : Host.Outcome State Fault Refusal := lift (smbRead smbByte) s
/-- `SMB_VIN`. -/
def execSmbVin (s : State) : Host.Outcome State Fault Refusal := lift (smbRead (fun m => m.pwr.vinMv)) s
/-- `SMB_INPUT_POWER`. -/
def execSmbInputPower (s : State) : Host.Outcome State Fault Refusal := lift (smbRead (fun m => m.pwr.pinW)) s
/-- `SMB_HOTTEST_SITE`. -/
def execSmbHottestSite (s : State) : Host.Outcome State Fault Refusal := lift (smbRead smbHottest) s
/-- `SMB_COOLANT_INLET`. -/
def execSmbCoolantInlet (s : State) : Host.Outcome State Fault Refusal := lift (smbRead (fun m => m.thm.inletDc)) s
/-- `SMB_COOLANT_OUTLET`. -/
def execSmbCoolantOutlet (s : State) : Host.Outcome State Fault Refusal := lift (smbRead (fun m => m.thm.outletDc)) s
/-- `SMB_FLOW`. -/
def execSmbFlow (s : State) : Host.Outcome State Fault Refusal := lift (smbRead (fun m => m.thm.flowDl)) s
/-- `SMB_MODULE_ID`: 8 bytes. -/
def execSmbModuleId (s : State) : Host.Outcome State Fault Refusal := lift (smbRead (fun _ => s.fuses.moduleId.toNat)) s
/-- `SMB_GRADE`. -/
def execSmbGrade (s : State) : Host.Outcome State Fault Refusal := lift (smbRead (fun _ => s.fuses.grade)) s
/-- `SMB_DEBUG_CONSOLE`. -/
def execSmbDebugConsole (write : Bool) (bytes : List Byte) (s : State) : Host.Outcome State Fault Refusal :=
  lift (doConsole s.fuses write bytes) s
/-- `SMB_ALERT_RESPONSE`. -/
def execSmbAlertResponse (s : State) : Host.Outcome State Fault Refusal := lift doAlertResponse s

end Sys2Proof.Machine
end

