-- ==== Sys2Proof/Machine/Jtag.lean ====
section
/-! DEFINITION. The JTAG port (19_electrical_and_mechanical.md R519; 12_partitions_modes_protection.md R404). -/
namespace Sys2Proof.Machine
open Sys2Proof

/-- Bits as a number, the first shifted out lowest. -/
def bitsVal (bs : List Bool) : Nat := bs.foldr (fun b a => b2n b + 2 * a) 0

/-- The port is live while the management domains are up; then instruction `i` is in force, and its data register shows
`dr` on `TDO` (the first 64 bits are the reader's value). -/
def jtagShift (i : JtagInstr) (dr : List Bool) (f : Pins → Pins) (m : Mod) : Mod :=
  if m.pwr.mgmtOn = 0 then { m with resp := 0, aborted := true }
  else
    let m1 := respond m (bitsVal (dr.take 64))
    { m1 with pins := f { m1.pins with jtagIr := i, dr := dr, driven := none } }

/-- The 32 bits of IDCODE: 0x1A52_C0F3 on the first stepping; the version field follows the stepping. -/
def idcodeOf (fz : Fuses) : BitVec 32 := putFld (0x1A52C0F3#32) 28 4 (1 + fz.stepping.toNat)

/-- The bits of a number, lowest first. -/
def bitList {n : Nat} (w : BitVec n) : List Bool := (List.range n).map (bit w)

/-- A private instruction is accepted (R404). -/
def jtagAllowed (fz : Fuses) (m : Mod) : Bool :=
  !fz.jtagLock && (fz.debugLevel == 0 || (fz.debugLevel == 1 && m.parts.isEmpty))

/-- A private instruction. What it does and shows is not stated: its data register is a free value. A refused one selects
BYPASS, as IEEE 1149.1 has it for a code without an instruction. -/
def doVendorJtag (fz : Fuses) (code : Byte) (m : Mod) : Mod :=
  if m.pwr.mgmtOn = 0 then { m with resp := 0, aborted := true }
  else if jtagAllowed fz m then
    bumpFree (jtagShift (.own code) (bitList (Config.freeWord m.freeCount)) id m)
  else { (jtagShift .bypass [false] id m) with resp := 0, aborted := true }

/-! ### The commands -/

/-- `BYPASS`: one bit, 0 at capture, between `TDI` and `TDO`. -/
def execBypass (tdi : List Bool) (s : State) : Host.Outcome State Fault Refusal := lift (jtagShift .bypass (false :: tdi) id) s
/-- `SAMPLE_PRELOAD`: the pins are captured; what is shifted in is preloaded. The pins go on working. -/
def execSamplePreload (pins : List Bool) (tdi : Option (List Bool)) (s : State) : Host.Outcome State Fault Refusal :=
  lift (jtagShift .samplePreload pins (fun p => { p with scan := tdi.getD p.scan })) s
/-- `EXTEST`: the preloaded values drive the pins; the pins are captured. -/
def execExtest (pins : List Bool) (s : State) : Host.Outcome State Fault Refusal :=
  lift (jtagShift .extest pins (fun p => { p with driven := some p.scan })) s
/-- `IDCODE`. -/
def execIdcode (s : State) : Host.Outcome State Fault Refusal := lift (jtagShift .idcode (bitList (idcodeOf s.fuses)) id) s
/-- `PRIVATE_JTAG_INSTRUCTION`. -/
def execPrivateJtagInstruction (code : Byte) (s : State) : Host.Outcome State Fault Refusal := lift (doVendorJtag s.fuses code) s

end Sys2Proof.Machine
end

