-- ==== Sys2Proof/Machine/Dispatch.lean ====
section
/-! DEFINITION. One arm per command of the table. -/
namespace Sys2Proof.Machine
open Sys2Proof
/-- The effect of a command on everything but the queue. -/
def exec (i : Instr) (s : State) : Host.Outcome State Fault Refusal :=
  match i with
  | .wstream iss => Sys2Proof.Machine.execWstream iss s
  | .wfetch iss => Sys2Proof.Machine.execWfetch iss s
  | .kvread iss => Sys2Proof.Machine.execKvread iss s
  | .kvappend iss => Sys2Proof.Machine.execKvappend iss s
  | .delta iss => Sys2Proof.Machine.execDelta iss s
  | .vmwrite iss => Sys2Proof.Machine.execVmwrite iss s
  | .mmul iss => Sys2Proof.Machine.execMmul iss s
  | .dapply iss => Sys2Proof.Machine.execDapply iss s
  | .nop iss => Sys2Proof.Machine.execNop iss s
  | .copy iss => Sys2Proof.Machine.execCopy iss s
  | .quant iss => Sys2Proof.Machine.execQuant iss s
  | .dequant iss => Sys2Proof.Machine.execDequant iss s
  | .add iss => Sys2Proof.Machine.execAdd iss s
  | .mul iss => Sys2Proof.Machine.execMul iss s
  | .scale iss => Sys2Proof.Machine.execScale iss s
  | .rmsnorm iss => Sys2Proof.Machine.execRmsnorm iss s
  | .layernorm iss => Sys2Proof.Machine.execLayernorm iss s
  | .softmax iss => Sys2Proof.Machine.execSoftmax iss s
  | .act iss => Sys2Proof.Machine.execAct iss s
  | .gate iss => Sys2Proof.Machine.execGate iss s
  | .rope iss => Sys2Proof.Machine.execRope iss s
  | .accClear iss => Sys2Proof.Machine.execAccClear iss s
  | .sampBias iss m => Sys2Proof.Machine.execSampBias iss m s
  | .sampPenalty iss m => Sys2Proof.Machine.execSampPenalty iss m s
  | .sampFilter iss m => Sys2Proof.Machine.execSampFilter iss m s
  | .sampDraw iss m => Sys2Proof.Machine.execSampDraw iss m s
  | .sampCount iss m => Sys2Proof.Machine.execSampCount iss m s
  | .sampStop iss m => Sys2Proof.Machine.execSampStop iss m s
  | .setp iss => Sys2Proof.Machine.execSetp iss s
  | .send iss => Sys2Proof.Machine.execSend iss s
  | .recv iss => Sys2Proof.Machine.execRecv iss s
  | .gread iss => Sys2Proof.Machine.execGread iss s
  | .gwrite iss => Sys2Proof.Machine.execGwrite iss s
  | .beatArrive site => Sys2Proof.Machine.execBeatArrive site s
  | .barrierRelease p => Sys2Proof.Machine.execBarrierRelease p s
  | .batchWriteAck p => Sys2Proof.Machine.execBatchWriteAck p s
  | .checkTileDone site mem => Sys2Proof.Machine.execCheckTileDone site mem s
  | .scoreReceived p => Sys2Proof.Machine.execScoreReceived p s
  | .quantWindowEnd p => Sys2Proof.Machine.execQuantWindowEnd p s
  | .pendingEscalate p layer => Sys2Proof.Machine.execPendingEscalate p layer s
  | .level3Timeout p layer => Sys2Proof.Machine.execLevel3Timeout p layer s
  | .patrolScrub site mem => Sys2Proof.Machine.execPatrolScrub site mem s
  | .earlyScrub site mem => Sys2Proof.Machine.execEarlyScrub site mem s
  | .rowCopyDone site channel bank => Sys2Proof.Machine.execRowCopyDone site channel bank s
  | .periodicRefresh site channel bank => Sys2Proof.Machine.execPeriodicRefresh site channel bank s
  | .refreshIntervalEnd site channel bank => Sys2Proof.Machine.execRefreshIntervalEnd site channel bank s
  | .targetedRefresh site channel bank => Sys2Proof.Machine.execTargetedRefresh site channel bank s
  | .memHotRefresh site lowerC upperC => Sys2Proof.Machine.execMemHotRefresh site lowerC upperC s
  | .sliceReady site => Sys2Proof.Machine.execSliceReady site s
  | .packetForward site port slot flitFixed flitBad => Sys2Proof.Machine.execPacketForward site port slot flitFixed flitBad s
  | .packetAck site => Sys2Proof.Machine.execPacketAck site s
  | .epochDrainReport p site => Sys2Proof.Machine.execEpochDrainReport p site s
  | .seamDown west => Sys2Proof.Machine.execSeamDown west s
  | .seamUp => Sys2Proof.Machine.execSeamUp s
  | .linkDown link => Sys2Proof.Machine.execLinkDown link s
  | .linkRetrainFail link => Sys2Proof.Machine.execLinkRetrainFail link s
  | .beatTimeout p => Sys2Proof.Machine.execBeatTimeout p s
  | .faultReport => Sys2Proof.Machine.execFaultReport s
  | .seqOpen r e h => Sys2Proof.Machine.execSeqOpen r e h s
  | .seqAppend r e h => Sys2Proof.Machine.execSeqAppend r e h s
  | .seqGenerate r e h => Sys2Proof.Machine.execSeqGenerate r e h s
  | .seqPause r e h => Sys2Proof.Machine.execSeqPause r e h s
  | .seqResume r e h => Sys2Proof.Machine.execSeqResume r e h s
  | .seqPark r e h => Sys2Proof.Machine.execSeqPark r e h s
  | .seqUnpark r e h => Sys2Proof.Machine.execSeqUnpark r e h s
  | .seqFork r e h => Sys2Proof.Machine.execSeqFork r e h s
  | .seqTruncate r e h => Sys2Proof.Machine.execSeqTruncate r e h s
  | .seqClose r e h => Sys2Proof.Machine.execSeqClose r e h s
  | .seqSnapshot r e h => Sys2Proof.Machine.execSeqSnapshot r e h s
  | .storeWriteAck p rejected => Sys2Proof.Machine.execStoreWriteAck p rejected s
  | .storeReadData p failed record => Sys2Proof.Machine.execStoreReadData p failed record s
  | .kvMaskReport p => Sys2Proof.Machine.execKvMaskReport p s
  | .epochTick p => Sys2Proof.Machine.execEpochTick p s
  | .adapterLoad r e h => Sys2Proof.Machine.execAdapterLoad r e h s
  | .adapterRetire r e h => Sys2Proof.Machine.execAdapterRetire r e h s
  | .modeSet r e h => Sys2Proof.Machine.execModeSet r e h s
  | .query r e h => Sys2Proof.Machine.execQuery r e h s
  | .frameStart r e h => Sys2Proof.Machine.execFrameStart r e h s
  | .frameHold r e h => Sys2Proof.Machine.execFrameHold r e h s
  | .frameResume r e h => Sys2Proof.Machine.execFrameResume r e h s
  | .abort r e h => Sys2Proof.Machine.execAbort r e h s
  | .planLoad r e h => Sys2Proof.Machine.execPlanLoad r e h s
  | .weightChunkArrive p payload failed => Sys2Proof.Machine.execWeightChunkArrive p payload failed s
  | .planUnload r e h => Sys2Proof.Machine.execPlanUnload r e h s
  | .sqTailDoorbell r value => Sys2Proof.Machine.execSqTailDoorbell r value s
  | .cqHeadDoorbell r value => Sys2Proof.Machine.execCqHeadDoorbell r value s
  | .sqEntryFetch r h => Sys2Proof.Machine.execSqEntryFetch r h s
  | .completionPost r h => Sys2Proof.Machine.execCompletionPost r h s
  | .irqCoalesceTimeout r => Sys2Proof.Machine.execIrqCoalesceTimeout r s
  | .attach h p => Sys2Proof.Machine.execAttach h p s
  | .resume h p side => Sys2Proof.Machine.execResume h p side s
  | .detach h p => Sys2Proof.Machine.execDetach h p s
  | .rpEnable r => Sys2Proof.Machine.execRpEnable r s
  | .rpDisable r => Sys2Proof.Machine.execRpDisable r s
  | .hostLinkDown h hotReset => Sys2Proof.Machine.execHostLinkDown h hotReset s
  | .functionLevelReset h fn => Sys2Proof.Machine.execFunctionLevelReset h fn s
  | .ucieRetrain h ev => Sys2Proof.Machine.execUcieRetrain h ev s
  | .ucieLinkUp h modules gt32 => Sys2Proof.Machine.execUcieLinkUp h modules gt32 s
  | .classTableWrite p cls ftlUs => Sys2Proof.Machine.execClassTableWrite p cls ftlUs s
  | .olixTrainTimeout g k => Sys2Proof.Machine.execOlixTrainTimeout g k s
  | .olixLinkUp g k lanes => Sys2Proof.Machine.execOlixLinkUp g k lanes s
  | .olixLaneDrop g lane uncorrectable => Sys2Proof.Machine.execOlixLaneDrop g lane uncorrectable s
  | .olixFlitReceive g k flit => Sys2Proof.Machine.execOlixFlitReceive g k flit s
  | .olixAckTimer g k => Sys2Proof.Machine.execOlixAckTimer g k s
  | .olixLinkDown g k => Sys2Proof.Machine.execOlixLinkDown g k s
  | .helloSend g k => Sys2Proof.Machine.execHelloSend g k s
  | .hello g k c => Sys2Proof.Machine.execHello g k c s
  | .partnerTimeout idx => Sys2Proof.Machine.execPartnerTimeout idx s
  | .read g k hd h => Sys2Proof.Machine.execRead g k hd h s
  | .write g k hd lines h => Sys2Proof.Machine.execWrite g k hd lines h s
  | .readData g k hd lines => Sys2Proof.Machine.execReadData g k hd lines s
  | .writeAck g k hd => Sys2Proof.Machine.execWriteAck g k hd s
  | .error g k hd => Sys2Proof.Machine.execError g k hd s
  | .pgEnable g value => Sys2Proof.Machine.execPgEnable g value s
  | .pgRetrain g => Sys2Proof.Machine.execPgRetrain g s
  | .partnerList r e h => Sys2Proof.Machine.execPartnerList r e h s
  | .partitionCreate r e h => Sys2Proof.Machine.execPartitionCreate r e h s
  | .partitionDestroy r e h => Sys2Proof.Machine.execPartitionDestroy r e h s
  | .partitionHold r e h => Sys2Proof.Machine.execPartitionHold r e h s
  | .partitionResume r e h => Sys2Proof.Machine.execPartitionResume r e h s
  | .moduleLimits r e h => Sys2Proof.Machine.execModuleLimits r e h s
  | .stageAck p region => Sys2Proof.Machine.execStageAck p region s
  | .stageTimeout p => Sys2Proof.Machine.execStageTimeout p s
  | .attest r e h => Sys2Proof.Machine.execAttest r e h s
  | .fuseKey value => Sys2Proof.Machine.execFuseKey value s
  | .fuseRevokeKey arg => Sys2Proof.Machine.execFuseRevokeKey arg s
  | .fuseAdvanceRollback arg => Sys2Proof.Machine.execFuseAdvanceRollback arg s
  | .fuseRaiseDebugLevel arg => Sys2Proof.Machine.execFuseRaiseDebugLevel arg s
  | .fuseJtagLock arg => Sys2Proof.Machine.execFuseJtagLock arg s
  | .fuseIsolationLock arg => Sys2Proof.Machine.execFuseIsolationLock arg s
  | .fuseProgramDone => Sys2Proof.Machine.execFuseProgramDone s
  | .ownCheckWrite disable => Sys2Proof.Machine.execOwnCheckWrite disable s
  | .domainCmd value => Sys2Proof.Machine.execDomainCmd value s
  | .regionRampDone region tripped => Sys2Proof.Machine.execRegionRampDone region tripped s
  | .headroomCapTimeout region => Sys2Proof.Machine.execHeadroomCapTimeout region s
  | .currentExcess region regionDa site siteDa => Sys2Proof.Machine.execCurrentExcess region regionDa site siteDa s
  | .pwrCellFail region cell => Sys2Proof.Machine.execPwrCellFail region cell s
  | .pwrRegionLoss region cause => Sys2Proof.Machine.execPwrRegionLoss region cause s
  | .pwrFeedLoss region feedB => Sys2Proof.Machine.execPwrFeedLoss region feedB s
  | .crackWindowEnd site samples => Sys2Proof.Machine.execCrackWindowEnd site samples s
  | .pwrSensorSuspect site sensor => Sys2Proof.Machine.execPwrSensorSuspect site sensor s
  | .pwrVinWarn mv => Sys2Proof.Machine.execPwrVinWarn mv s
  | .vinTrip mv => Sys2Proof.Machine.execVinTrip mv s
  | .pwrOverpower watts => Sys2Proof.Machine.execPwrOverpower watts s
  | .clkRefLoss => Sys2Proof.Machine.execClkRefLoss s
  | .pllLockLoss pll => Sys2Proof.Machine.execPllLockLoss pll s
  | .thmThrottle site dQ oQ => Sys2Proof.Machine.execThmThrottle site dQ oQ s
  | .throttleStep region => Sys2Proof.Machine.execThrottleStep region s
  | .fabricClockChange east => Sys2Proof.Machine.execFabricClockChange east s
  | .thmMinclk => Sys2Proof.Machine.execThmMinclk s
  | .hotTrip site => Sys2Proof.Machine.execHotTrip site s
  | .carousel set => Sys2Proof.Machine.execCarousel set s
  | .thmSensorSuspect site sensorO selfCheck => Sys2Proof.Machine.execThmSensorSuspect site sensorO selfCheck s
  | .carouselEntryValid p iss valid => Sys2Proof.Machine.execCarouselEntryValid p iss valid s
  | .thmFlowWarn c => Sys2Proof.Machine.execThmFlowWarn c s
  | .thmFlowLow c => Sys2Proof.Machine.execThmFlowLow c s
  | .thmInletWarn c => Sys2Proof.Machine.execThmInletWarn c s
  | .thmFlowDisagree c => Sys2Proof.Machine.execThmFlowDisagree c s
  | .stepRestart p => Sys2Proof.Machine.execStepRestart p s
  | .refillChunkDone p site payload => Sys2Proof.Machine.execRefillChunkDone p site payload s
  | .countTableRebuilt p handle => Sys2Proof.Machine.execCountTableRebuilt p handle s
  | .twinPageCopied p page => Sys2Proof.Machine.execTwinPageCopied p page s
  | .rmHeartbeatTimeout => Sys2Proof.Machine.execRmHeartbeatTimeout s
  | .rmResyncDone => Sys2Proof.Machine.execRmResyncDone s
  | .fwStage r e h => Sys2Proof.Machine.execFwStage r e h s
  | .fwActivate r e h => Sys2Proof.Machine.execFwActivate r e h s
  | .fwResyncTimeout => Sys2Proof.Machine.execFwResyncTimeout s
  | .rcRestartDone region => Sys2Proof.Machine.execRcRestartDone region s
  | .rcRestartTimeout region => Sys2Proof.Machine.execRcRestartTimeout region s
  | .configWrite r e h => Sys2Proof.Machine.execConfigWrite r e h s
  | .configRead r e h => Sys2Proof.Machine.execConfigRead r e h s
  | .ledgerCommitTimer => Sys2Proof.Machine.execLedgerCommitTimer s
  | .ledgerCommitDone => Sys2Proof.Machine.execLedgerCommitDone s
  | .ledgerRead r e h => Sys2Proof.Machine.execLedgerRead r e h s
  | .timeSet r e h => Sys2Proof.Machine.execTimeSet r e h s
  | .pwrEnAssert env => Sys2Proof.Machine.execPwrEnAssert env s
  | .coolantWaitCheck inletDc flowDl => Sys2Proof.Machine.execCoolantWaitCheck inletDc flowDl s
  | .refClockWait => Sys2Proof.Machine.execRefClockWait s
  | .shutdown r e h => Sys2Proof.Machine.execShutdown r e h s
  | .shutdownParkTimeout => Sys2Proof.Machine.execShutdownParkTimeout s
  | .pwrEnWithdraw => Sys2Proof.Machine.execPwrEnWithdraw s
  | .modRstN => Sys2Proof.Machine.execModRstN s
  | .ctlVddLoss => Sys2Proof.Machine.execCtlVddLoss s
  | .evEnable h => Sys2Proof.Machine.execEvEnable h s
  | .evHeadDoorbell h value => Sys2Proof.Machine.execEvHeadDoorbell h value s
  | .eholdKey h value => Sys2Proof.Machine.execEholdKey h value s
  | .emergencyHold h partitions => Sys2Proof.Machine.execEmergencyHold h partitions s
  | .emergencyRelease h partitions => Sys2Proof.Machine.execEmergencyRelease h partitions s
  | .badAccess h a => Sys2Proof.Machine.execBadAccess h a s
  | .registerWrite h fn offset value => Sys2Proof.Machine.execRegisterWrite h fn offset value s
  | .smbStartCode => Sys2Proof.Machine.execSmbStartCode s
  | .smbStatus => Sys2Proof.Machine.execSmbStatus s
  | .smbVin => Sys2Proof.Machine.execSmbVin s
  | .smbInputPower => Sys2Proof.Machine.execSmbInputPower s
  | .smbHottestSite => Sys2Proof.Machine.execSmbHottestSite s
  | .smbCoolantInlet => Sys2Proof.Machine.execSmbCoolantInlet s
  | .smbCoolantOutlet => Sys2Proof.Machine.execSmbCoolantOutlet s
  | .smbFlow => Sys2Proof.Machine.execSmbFlow s
  | .smbModuleId => Sys2Proof.Machine.execSmbModuleId s
  | .smbGrade => Sys2Proof.Machine.execSmbGrade s
  | .smbDebugConsole write bytes => Sys2Proof.Machine.execSmbDebugConsole write bytes s
  | .smbAlertResponse => Sys2Proof.Machine.execSmbAlertResponse s
  | .bypass tdi => Sys2Proof.Machine.execBypass tdi s
  | .samplePreload pins tdi => Sys2Proof.Machine.execSamplePreload pins tdi s
  | .extest pins => Sys2Proof.Machine.execExtest pins s
  | .idcode => Sys2Proof.Machine.execIdcode s
  | .referenceReturn ref1 => Sys2Proof.Machine.execReferenceReturn ref1 s
  | .pllRelock pll => Sys2Proof.Machine.execPllRelock pll s
  | .linkRetrained link => Sys2Proof.Machine.execLinkRetrained link s
  | .modRstNRelease env => Sys2Proof.Machine.execModRstNRelease env s
  | .vinRangeWait mv => Sys2Proof.Machine.execVinRangeWait mv s
  | .quadrantHeadroomStart quadrant watts => Sys2Proof.Machine.execQuadrantHeadroomStart quadrant watts s
  | .guardIssueStep region regionDa => Sys2Proof.Machine.execGuardIssueStep region regionDa s
  | .overpowerGuardStep watts => Sys2Proof.Machine.execOverpowerGuardStep watts s
  | .carouselRelease region => Sys2Proof.Machine.execCarouselRelease region s
  | .rmStandbyTimeout => Sys2Proof.Machine.execRmStandbyTimeout s
  | .loReadLatch h fn offset => Sys2Proof.Machine.execLoReadLatch h fn offset s
  | .privateJtagInstruction code => Sys2Proof.Machine.execPrivateJtagInstruction code s

end Sys2Proof.Machine
end

