-- ==== Sys2Proof/Machine/Tick.lean ====
section
/-! DEFINITION. What time does when no command waits: one TCLK cycle of 10 ns (R208, R447, R475, R476, R503, and the work that
goes on by itself). The rows that are timers are commands of their own. -/
namespace Sys2Proof.Machine
open Sys2Proof

/-! ### Clocked counts -/

/-- The slowest half that a partition spans, in MHz of FCLK. -/
def slowFclk (m : Mod) (rs : List Nat) : Nat :=
  rs.foldl (fun a r => min a (if eastRegion r then m.clk.eMhz else m.clk.wMhz)) 1500

/-- Nanoseconds of full-rate time that one microsecond counts in a partition's watchdog (R208). -/
def watchdogPace (m : Mod) (x : Part) : Nat :=
  let rs := partRegions m x
  let pace := rs.foldl (fun a r =>
    let y := regionAt m r
    min a (y.clock.cclkMhz * y.power.fraction)) (16 * x.targetMhz)
  if x.targetMhz = 0 then 0 else 1000 * pace * slowFclk m rs / (16 * x.targetMhz * 1500)

/-- A microsecond of the beat watchdogs: suspended while the partition is held, its seam crossings are down or it waits for a
partner (R202, R372). -/
def tickWatchdogs (m : Mod) : Mod :=
  forAll m (partIds m) (fun m p => match partOf? m p with
    | none => m
    | some x =>
      if beatsRun x && !x.holdSeam && !x.holdPartner then
        let d := watchdogPace m x
        forAll m (partRegions m x) (fun m r => updRegion m r (fun y => { y with watchdogNs := y.watchdogNs + d }))
      else m)

/-- A millisecond of the throttled regions (R447) and of the cell currents, in tenths of mA·s (R475). -/
def tickMs (m : Mod) : Mod :=
  { m with
    sites := m.sites.map (fun sx => (sx.1, { sx.2 with env := { sx.2.env with integral := sx.2.env.integral + sx.2.env.siteDa } })),
    regions := m.regions.map (fun ry =>
      if ry.2.clock.throttle then
        (ry.1, { ry.2 with clock := { ry.2.clock with throttleMs := sat32 (ry.2.clock.throttleMs + 1) } })
      else ry) }

/-- Bin of a region temperature in 0.25 °C (R475). -/
def tempBin (q : Nat) : Nat := if q < 80 then 0 else min 22 (1 + (q - 80) / 20)

/-- A second of a region's counters: its core domain is ON or WARM. -/
def tickRegion (m : Mod) (ry : Nat × Region) : Nat × Region :=
  let c := ry.2.clock
  if ry.2.power.core = .on ∨ ry.2.power.core = .warm then
    (ry.1, { ry.2 with clock := { c with
      onSeconds := sat32 (c.onSeconds + 1),
      bins := lupd c.bins (tempBin (peak m (sitesOf ry.1))) (fun n => sat32 (n + 1)),
      throttleSeconds := sat32 (c.throttleSeconds + b2n c.throttle) } })
  else ry

/-- A second of the module's counters: those of its regions, and the input energy in J. -/
def tickSecond (m : Mod) : Mod :=
  { m with
    regions := m.regions.map (tickRegion m),
    pwr := { m.pwr with energy := m.pwr.energy + m.pwr.pinW } }

/-- Do `f` when a period of `n` nanoseconds has just ended. -/
def everyNs (n : Nat) (f : Mod → Mod) (m : Mod) : Mod := if m.time % n < 10 then f m else m

/-! ### Work that goes on by itself -/

/-- The oldest unannounced event record has waited `COAL_US` (R318, R503). -/
def tickEventRing (m : Mod) (h : Nat) : Mod :=
  updHost m h (fun x =>
    let r := x.ring
    if r.unannounced = 0 ∨ m.time < r.oldest + 1000 * r.coalUs then x
    else raise0 { x with ring := { r with unannounced := 0 } } r.vector)

/-- Commands of a partition wait. -/
def anyWaiting (x : Part) : Bool := (partCmds x).any (fun c => c.phase == .waiting || c.abortBy.isSome)

/-- What a partition's work does as soon as it can. -/
def tickPart (fz : Fuses) (m : Mod) (p : Nat) : Mod :=
  let m1 := stallDone m p
  let m2 := if (partOf? m1 p).any anyWaiting then serviceWaiting fz m1 p else m1
  kick (stageWork (storeWork m2 p) p) p

/-- Everything that moves on by itself. -/
def tickWork (fz : Fuses) (m : Mod) : Mod :=
  let m1 := serviceAdmin fz (forAll m (partIds m) (tickPart fz))
  let m2 := nextRestart fz (trySwitch fz (retryInbound m1))
  forAll (shutWork m2) [0, 1, 2, 3] tickEventRing

/-- The link layer of every host site in service has acknowledged what was written before (R315; DESIGN CHOICE, log entry 97). -/
def ackOutput (m : Mod) : Mod :=
  { m with parts := m.parts.map (fun px =>
      if (hostOf m (partHost px.2)).linkUp && !px.2.holdHost then
        (px.1, { px.2 with pairs := px.2.pairs.map (fun q => (q.1, { q.2 with sentWrites := [], sentCompls := [] })) })
      else px) }

/-- One TCLK cycle; nothing happens while the management domains are off. -/
def doTick (fz : Fuses) (m : Mod) : Mod :=
  if m.pwr.mgmtOn = 0 then m
  else
    let m1 := ackOutput { m with time := m.time + 10 }
    let m2 := everyNs 1000000000 tickSecond (everyNs 1000000 tickMs (everyNs 1000 tickWatchdogs m1))
    tickWork fz m2

/-- A step on an empty queue. -/
def tick (s : State) : Host.Outcome State Fault Refusal := lift (doTick s.fuses) s

end Sys2Proof.Machine
end

