-- ==== Sys2Proof/Safety.lean ====
section
/-! DEFINITION. What claims about runs are stated in: when a command takes its own effect, and what every step keeps. -/
namespace Sys2Proof.Machine
open Sys2Proof

/-- A step answers a next state. -/
def Runs (s : State) : Prop := ∃ t, step s = .next t

/-- No command in the queue is one that cannot reach the block. -/
def QueueOk (s : State) : Prop := ∀ c ∈ s.pending, c.wellFormed = true

/-- The state with another module. -/
def State.withMod (s : State) (m : Mod) : State := { s with mod := m }

/-- A compute instruction `op` of engine `e` issues (R45, R46, R66, R77): it is the next of its list and not one that resumes,
its header is well formed, no internal check fails, `x` is its partition and `c` its core once the token awaited is taken. -/
def Computes (e op : Nat) (i : Issue) (s : State) (x : Part) (c : Core) : Prop :=
  (computeReady s.mod e i).map Prod.snd = some x ∧ badHeader e i.word = false ∧ wOpcode i.word = op
    ∧ (let c0 := (siteOf s.mod i.site.val).core
       c = if resumes e c0 then c0 else takeWait i.word c0) ∧ i.logic = false

/-- An access instruction `op` issues and no internal check fails (R54, R77): `x` is its partition, `b` and `pos` its beat and place in the list, and its
step has begun where `begun` asks it. -/
def Accesses (op : Nat) (begun : Bool) (i : Issue) (s : State) (x : Part) (b pos : Nat) : Prop :=
  ∃ p inStep, issuing s.mod i.site.val = some (p, x)
    ∧ (let c := (siteOf s.mod i.site.val).core
       accessNext x c i.list.val (c.beatCount + 17 - c.accessBeat.getD i.list.val 0) (c.accessBeat.getD i.list.val 0)
             (c.accessPos.getD i.list.val 0) = some (b, pos, i.index.val, inStep)
         ∧ i.ahead = b - c.beatCount ∧ mget c.prog i.index.val 0 = i.word
         ∧ c.xfers.any (fun t => t.opcode = 0x40 && t.list = i.list.val) = false)
    ∧ badHeader 0 i.word = false ∧ wOpcode i.word = op ∧ (begun && !inStep) = false ∧ i.logic = false

/-- The place of an access list after the instruction at `pos` of beat `b` (R54). -/
def accessed (m : Mod) (s q b pos : Nat) (ahead : Nat) : Mod :=
  updCore m s (fun d => { d with
    accessBeat := lupd d.accessBeat q (fun _ => b), accessPos := lupd d.accessPos q (fun _ => pos + 1),
    accessPart := lupd d.accessPart q (fun _ => 0), runahead := max d.runahead ahead })

/-- A staging ring has room for `n` more lines and its queue for one more entry (R47, R54). -/
def Room (m : Mod) (s q n : Nat) : Prop :=
  stagedLines (siteOf m s).core q + n ≤ ringLines (siteOf m s).core q ∧ ((siteOf m s).core.queues.getD q []).length < 64

/-- Member `k` is sampled with the state `q`; its working state is `w` on the core `c1`: what an earlier stage left, or
the logits of the source operand (R344). -/
def WorkNow (i : Issue) (x : Part) (k : Nat) (c c1 : Core) (q : Sampler) (w : SampWork) : Prop :=
  memberSampler x k = some q
    ∧ ((mget? c.samp k = some w ∧ c1 = c)
      ∨ (mget? c.samp k = none ∧ ∃ vs, vSource i.scratch x i.word c = .ok (c1, vs) ∧ w = freshWork (vs.map cleanLogit)))

/-- A submission entry `e` with opcode `op` starts on its pair (R297, R298, R302): the host has done `h`, the module
stands at `m`, and `c` is the known command, decoded or waiting. -/
def Taken (r : RingRef) (e : SqEntry) (h : HostSide) (op : Nat) (s : State) (m : Mod) (c : Cmd) : Prop :=
  m = applySide s.mod (ringHost s.mod r) h ∧ e.opcode.toNat = op ∧ rmAlive m = true
    ∧ cmdOf? m r e.cid = some c ∧ c.entry = e ∧ (c.phase = .decoded ∨ c.phase = .waiting)
    ∧ shutOut m c = false ∧ orderedWaits (pairOf m r) c = false

/-- The ring `r` is a pair of partition `p`, which stands at `x` (R308). -/
def OnPart (m : Mod) (r : RingRef) (p : Nat) (x : Part) : Prop :=
  (∃ t k, r = .part t k ∧ t.val = p) ∧ partOf? m p = some x

/-- The command `c` names the sequence `q` of its partition, and no earlier command of that sequence has yet to act (R302). -/
def OnSeq (m : Mod) (r : RingRef) (p : Nat) (x : Part) (q : Seq) (c : Cmd) : Prop :=
  OnPart m r p x ∧ seqOf? x c.entry.handle = some q ∧ earlierWaits x c = false

/-- A write to a ring pair's registers closes the emergency-hold unlock where the pair is an admin pair, in `GLB` (R508). -/
def glbClosed (m : Mod) (r : RingRef) : Mod :=
  match r with
  | .admin h => eholdClose h.val m
  | .part _ _ => m

/-- A message with operation `op` is accepted on a link: the link is UP, the module has a node id, the header is sound and
names the module (R359, R363). -/
def Heard (m : Mod) (g k : Nat) (hd : Header) (op : Nat) : Prop :=
  (linkAt m g k).state = .up ∧ m.nodeId ≠ 0xFF ∧ headerOk hd = true ∧ gOp hd = op ∧ gDst hd = m.nodeId

/-- `t` differs from `m` in the core of site `s`, in the first-fault record of its region, and in at most one fault report
more, which names that site and the partition it works for (R46, R78). -/
structure CoreOnly (m t : Mod) (s : Nat) : Prop where
  /-- Nothing but sites, regions and fault reports changes. -/
  rest : t = { m with sites := t.sites, regions := t.regions, fabric := { m.fabric with reports := t.fabric.reports } }
  /-- Every other site stands. -/
  others : ∀ j, j ≠ s → siteOf t j = siteOf m j
  /-- Of its site only the core changes. -/
  own : siteOf t s = { siteOf m s with core := (siteOf t s).core }
  /-- Of the regions only the first-fault record of its own changes. -/
  region : ∀ r, regionAt t r = if r = regionOf s then { regionAt m r with firstFault := (regionAt t r).firstFault } else regionAt m r
  /-- At most one report is added. -/
  reports : t.fabric.reports = m.fabric.reports
    ∨ ∃ p n, t.fabric.reports = m.fabric.reports ++ [(p, n)] ∧ n.site = s ∧ partAtSite m s = some p

/-- The fuses that grow only: once a fuse is blown it stays blown (R396). -/
structure FusesGrow (a b : Fuses) : Prop where
  /-- A root key stays revoked. -/
  revoked : ∀ k, bit a.rootRevoked k = true → bit b.rootRevoked k = true
  /-- The rollback counter never falls. -/
  rollback : a.rollback ≤ b.rollback
  /-- The debug level never falls. -/
  debug : a.debugLevel ≤ b.debugLevel
  /-- `JTAG_LOCK` stays blown. -/
  jtag : a.jtagLock = true → b.jtagLock = true
  /-- `ISOLATION_LOCK` stays blown. -/
  isolation : a.isolationLock = true → b.isolationLock = true
  /-- The fields blown at manufacture never change. -/
  made : b = { a with
    rootRevoked := b.rootRevoked, rollback := b.rollback, debugLevel := b.debugLevel, jtagLock := b.jtagLock,
    isolationLock := b.isolationLock }

end Sys2Proof.Machine
end

