-- ==== Sys2Proof/Certificates/Slice0/Obligations.lean ====
section
/-! DEFINITION. The statements for the provers. -/
open Sys2Proof Sys2Proof.Machine

/-- WSTREAM pushes the lines it read; WFETCH opens one request on its window. When a WSTREAM issues with room in its
ring, the lines of its vertical memory operand are pushed as one entry of its queue and the list moves on; when a
WFETCH issues with room, one request for its lines goes out on its window's request route and the list moves on.
Nothing else changes. (02_core.md R54, R55, R47, R44; 06_fabric_beats_frames.md R191) -/
def Obligations.AccessStreams : Prop :=
  (∀ (i : Issue) (s : State) (x : Part) (b pos a : Nat),
    Accesses 0x01 false i s x b pos → fld i.word 76 40 = 0 →
    vsegAddr (siteOf s.mod i.site.val).core (fld i.word 32 2) (fld i.word 34 26) (fld i.word 60 16 + 1) = .ok a →
    Room s.mod i.site.val i.list.val (fld i.word 60 16 + 1) →
    exec (.wstream i) s = .next (s.withMod (
      let r := weightLines s.mod x i.site.val a (fld i.word 60 16 + 1) i.mem
      accessed (pushEntry r.1 i.site.val i.list.val { lines := r.2, source := some a, fetched := false, remote := false, place := 0 })
        i.site.val i.list.val b pos i.ahead)))
  ∧ (∀ (i : Issue) (s : State) (x : Part) (b pos : Nat) (win : Window),
    Accesses 0x02 false i s x b pos → fld i.word 88 28 = 0 →
    Room s.mod i.site.val i.list.val (fld i.word 72 16 + 1) → windowOf x (fld i.word 32 6) = some win →
    exec (.wfetch i) s = .next (s.withMod (
      accessed (sendRequest s.mod i.site.val win (fld i.word 38 34) (fld i.word 72 16 + 1)
          { opcode := 0x40, open_ := [], sigTok := none, replyTag := none, scratch := 0, awaited := fld i.word 72 16 + 1,
            gwin := win.gwin, list := i.list.val, buf := [], index := i.index.val })
        i.site.val i.list.val b pos i.ahead)))

/-- VMWRITE stores scratch lines; KVREAD pushes a walk a member; KVAPPEND stores the new positions. When a VMWRITE
issues, the lines of its scratch operand are written, tags kept, to its vertical memory operand. When a KVREAD issues
with room for the whole transfer, one entry a member is pushed. When a KVAPPEND issues, the new positions of every
member it names are written from its scratch operand. The list then moves on. (02_core.md R54, R55; 03_narrow_arithmetic.md R96;
08_sequences_and_kv_cache.md R255, R262, R269) -/
def Obligations.AccessWrites : Prop :=
  (∀ (i : Issue) (s : State) (x : Part) (b pos v a : Nat) (c1 : Core) (ws : List Word),
    Accesses 0x06 false i s x b pos → fld i.word 101 15 = 0 →
    vsegAddr (siteOf s.mod i.site.val).core (fld i.word 32 2) (fld i.word 34 26) (fld i.word 60 16 + 1) = .ok v →
    segAddr (siteOf s.mod i.site.val).core (fld i.word 76 3) (fld i.word 79 22) (9 * (fld i.word 60 16 + 1)) = .ok a →
    readWords i.scratch (siteOf s.mod i.site.val).core a (9 * (fld i.word 60 16 + 1)) = .ok (c1, ws) →
    Room s.mod i.site.val i.list.val 0 →
    exec (.vmwrite i) s = .next (s.withMod (
      accessed (writeLines (updCore s.mod i.site.val (fun _ => c1)) i.site.val v ((chunksOf 9 ws).map wordsLine) i.mem)
        i.site.val i.list.val b pos i.ahead)))
  ∧ (∀ (i : Issue) (s : State) (x : Part) (b pos p : Nat) (pl : Plan) (f : Packed),
    Accesses 0x03 true i s x b pos → badMembers i.word = false → fld i.word 71 45 = 0 →
    partAtSite s.mod i.site.val = some p → x.plan = some pl → packedOf pl.cacheFormat = some f →
    (siteOf s.mod i.site.val).core.accessPart.getD i.list.val 0 = 0 →
    Room s.mod i.site.val i.list.val ((membersOf x i.word).foldl (fun a m => a + entryLines f i.word m.2) 0) →
    (let t := pushMembers s.mod p x pl f i.site.val ((vcoreAt pl i.site.val).getD 0) i.list.val i.word i.mem (membersOf x i.word)
     (membersOf x i.word).length ≤ (siteOf t i.site.val).core.accessPart.getD i.list.val 0 →
     exec (.kvread i) s = .next (s.withMod (accessed t i.site.val i.list.val b pos i.ahead))))
  ∧ (∀ (i : Issue) (s : State) (x : Part) (b pos a : Nat) (pl : Plan) (f : Packed) (c1 : Core) (ls : List Line),
    Accesses 0x04 true i s x b pos → badMembers i.word = false → fld i.word 96 20 = 0 →
    x.plan = some pl → packedOf pl.cacheFormat = some f →
    segAddr (siteOf s.mod i.site.val).core (fld i.word 71 3) (fld i.word 74 22) (9 * appendTotal f x i.word) = .ok a →
    readScrLines i.scratch (siteOf s.mod i.site.val).core f.code a (appendTotal f x i.word) = .ok (c1, ls) →
    Room s.mod i.site.val i.list.val 0 →
    exec (.kvappend i) s = .next (s.withMod (
      accessed (appendAll x pl f i.site.val ((vcoreAt pl i.site.val).getD 0) i.word i.mem
          (updCore s.mod i.site.val (fun _ => c1)) ls)
        i.site.val i.list.val b pos i.ahead)))

/-- DELTA queues the merged blocks; DAPPLY applies them up to the last of the matrix. When a DELTA issues with room in
the delta queue, the blocks of the adapters its members use are read from vertical memory and enter the queue in order, and
the list moves on. When a DAPPLY issues, the blocks in the queue up to the last of its matrix are applied to the accumulators
and leave the queue; where the last is among them it completes, else it goes on waiting for more, its place in the list kept.
(02_core.md R57, R58, R65, R66; 10_priorities_adapters_sampling.md R334, R335) -/
def Obligations.DeltaBlocks : Prop :=
  (∀ (i : Issue) (s : State) (x : Part) (b pos : Nat),
    Accesses 0x05 true i s x b pos → fld i.word 42 11 ≠ 0 → fld i.word 42 11 ≤ 1024 → fld i.word 113 3 = 0 →
    (siteOf s.mod i.site.val).core.accessPart.getD i.list.val 0 = 0 → Room s.mod i.site.val i.list.val 0 →
    (deltaBlocks x i.site.val i.word).length ≤ 4096 - (siteOf s.mod i.site.val).core.deltaQ.length →
    exec (.delta i) s = .next (s.withMod (
      let r := fetchBlocks s.mod i.site.val i.mem (deltaBlocks x i.site.val i.word)
      accessed (updCore r.1 i.site.val (fun d => { d with
          deltaQ := d.deltaQ ++ r.2,
          accessPart := lupd d.accessPart i.list.val (fun n => n + (deltaBlocks x i.site.val i.word).length) }))
        i.site.val i.list.val b pos i.ahead)))
  ∧ (∀ (i : Issue) (s : State) (x : Part) (c d : Core) (a : Nat),
    Computes 2 1 i s x c → badDapply i.word = false →
    segAddr c (fld i.word 71 3) (fld i.word 74 22)
      ((fld i.word 50 6 + 1) * operandWords (resolveFmt x c (wLayer i.word) (fld i.word 38 6)) (32 * fld i.word 96 16)) = .ok a →
    applyBlocks i x a c.deltaQ c = .ok d →
    (d.dapplyOn = true → exec (.dapply i) s = .next (s.withMod (updCore s.mod i.site.val (fun _ => d))))
    ∧ (∀ e, d.dapplyOn = false → completeCore i.word d = .ok e →
        exec (.dapply i) s = .next (s.withMod (updCore s.mod i.site.val (fun _ => bumpDone 2 e)))))

/-- MMUL multiplies its queue head by every activation column into the accumulators. When an MMUL issues, its
accumulators lie in the file, its head entry holds its weight lines and its activations lie in their segment, every
column is multiplied lane by lane, in the packed format resolved or, for every MMUL of a layer at layer-format level 3, on
the check lane; the instruction then completes. Only its core changes. (02_core.md R58, R60, R61, R62, R73;
03_narrow_arithmetic.md R109-R118) -/
def Obligations.MmulResult : Prop :=
  ∀ (i : Issue) (s : State) (x : Part) (c c1 d e : Core) (fw : Packed) (q : QEntry) (fmt a : Nat),
    Computes 1 1 i s x c → badMmul i.word = false →
    accRange c (fld i.word 56 15 + 256 * fld i.word 50 6) (if bit i.word 112 then 128 else 256) = .ok () →
    packedOf (fld i.word 32 6) = some fw → (c.queues.getD (wSq i.word) []).head? = some q →
    fmt = (if coreLevel c (wLayer i.word) = 3 then 0x10 else resolveFmt x c (wLayer i.word) (fld i.word 38 6)) →
    segAddr c (fld i.word 71 3) (fld i.word 74 22) ((fld i.word 50 6 + 1) * operandWords fmt (32 * fld i.word 96 16)) = .ok a →
    checkWeights i.scratch c (wSq i.word) fw.code ((if bit i.word 112 then 128 else 256) * runLines fw (fld i.word 96 16)) q = .ok c1 →
    (match packedOf fmt with
      | some fa => eachM (mmulColumn i.scratch x i.word q fw fa a) (List.range (fld i.word 50 6 + 1)) c1
      | none => eachM (mmulWide i.scratch i.word q fw a) (List.range (fld i.word 50 6 + 1)) c1) = .ok d →
    completeCore i.word d = .ok e →
    exec (.mmul i) s = .next (s.withMod (updCore s.mod i.site.val (fun _ => bumpDone 1 e)))

/-- ADD, MUL, SCALE, ACT and GATE act element by element. When one of them issues and its operands can be read, its
destination takes, element by element, the sum, the product, the product with the descriptor's scalar, the activation,
or the activated source times the parameter operand; the instruction then completes. Only its core changes.
(02_core.md R67, R68, R69; 03_narrow_arithmetic.md R101-R104, R119) -/
def Obligations.VectorElementwise : Prop :=
  (∀ (i : Issue) (s : State) (x : Part) (c c1 : Core) (vs : List B32) (c2 : Core) (ps : List B32) (d e : Core),
    Computes 3 0x04 i s x c → badVecFmt i.word = false → vBounds true x i.word c = .ok () →
    vSource i.scratch x i.word c = .ok (c1, vs) →
    vParamVals i.scratch i.word c1 vs.length = .ok (c2, ps) →
    vDest x i.word c2 (List.zipWith add32 vs ps) = .ok d → completeCore i.word d = .ok e →
    exec (.add i) s = .next (s.withMod (updCore s.mod i.site.val (fun _ => bumpDone 3 e))))
  ∧ (∀ (i : Issue) (s : State) (x : Part) (c c1 : Core) (vs : List B32) (c2 : Core) (ps : List B32) (d e : Core),
    Computes 3 0x05 i s x c → badVecFmt i.word = false → vBounds true x i.word c = .ok () →
    vSource i.scratch x i.word c = .ok (c1, vs) →
    vParamVals i.scratch i.word c1 vs.length = .ok (c2, ps) →
    vDest x i.word c2 (List.zipWith mul32 vs ps) = .ok d → completeCore i.word d = .ok e →
    exec (.mul i) s = .next (s.withMod (updCore s.mod i.site.val (fun _ => bumpDone 3 e))))
  ∧ (∀ (i : Issue) (s : State) (x : Part) (c c1 : Core) (vs : List B32) (d e : Core),
    Computes 3 0x06 i s x c → badVecFmt i.word = false → vBounds false x i.word c = .ok () →
    vSource i.scratch x i.word c = .ok (c1, vs) →
    vDest x i.word c1 (vs.map (fun v => mul32 v (vParam i.word c1).scalar)) = .ok d → completeCore i.word d = .ok e →
    exec (.scale i) s = .next (s.withMod (updCore s.mod i.site.val (fun _ => bumpDone 3 e))))
  ∧ (∀ (i : Issue) (s : State) (x : Part) (c c1 : Core) (vs : List B32) (d e : Core),
    Computes 3 0x0B i s x c → badVecFmt i.word = false → vBounds false x i.word c = .ok () →
    vSource i.scratch x i.word c = .ok (c1, vs) →
    vDest x i.word c1 (vs.map (activation (fld (vParam i.word c1).scalar 0 8))) = .ok d → completeCore i.word d = .ok e →
    exec (.act i) s = .next (s.withMod (updCore s.mod i.site.val (fun _ => bumpDone 3 e))))
  ∧ (∀ (i : Issue) (s : State) (x : Part) (c c1 : Core) (vs : List B32) (c2 : Core) (ps : List B32) (d e : Core),
    Computes 3 0x0C i s x c → badVecFmt i.word = false → vBounds true x i.word c = .ok () →
    vSource i.scratch x i.word c = .ok (c1, vs) →
    vParamVals i.scratch i.word c1 vs.length = .ok (c2, ps) →
    vDest x i.word c2
      (List.zipWith (fun g u => mul32 (activation (fld (vParam i.word c1).scalar 0 8) g) u) vs ps) = .ok d → completeCore i.word d = .ok e →
    exec (.gate i) s = .next (s.withMod (updCore s.mod i.site.val (fun _ => bumpDone 3 e))))

/-- RMSNORM, LAYERNORM and SOFTMAX write their functions of the whole source. When one of them issues and its operands
can be read, its destination takes the value of its function, element by element; a masked position of SOFTMAX (an
input of -Inf) gives 0. The functions' values are free values of the model (log entry 10): the statement holds
whatever they are. (02_core.md R67, R68; 03_narrow_arithmetic.md R119) -/
def Obligations.VectorNormalise : Prop :=
  (∀ (i : Issue) (s : State) (x : Part) (c c1 : Core) (vs : List B32) (c2 : Core) (ps : List B32) (d e : Core),
    Computes 3 0x08 i s x c → badVecFmt i.word = false → vBounds true x i.word c = .ok () →
    vSource i.scratch x i.word c = .ok (c1, vs) →
    vParamVals i.scratch i.word c1 vs.length = .ok (c2, ps) →
    vDest x i.word c2 ((List.range vs.length).map (fun k => (Config.rmsNorm vs ps).getD k 0)) = .ok d → completeCore i.word d = .ok e →
    exec (.rmsnorm i) s = .next (s.withMod (updCore s.mod i.site.val (fun _ => bumpDone 3 e))))
  ∧ (∀ (i : Issue) (s : State) (x : Part) (c c1 : Core) (vs : List B32) (c2 : Core) (ps : List B32) (d e : Core),
    Computes 3 0x09 i s x c → badVecFmt i.word = false → vBounds true x i.word c = .ok () →
    vSource i.scratch x i.word c = .ok (c1, vs) →
    vParamVals i.scratch i.word c1 (2 * vs.length) = .ok (c2, ps) →
    vDest x i.word c2 ((List.range vs.length).map (fun k => (Config.layerNorm vs ps).getD k 0)) = .ok d → completeCore i.word d = .ok e →
    exec (.layernorm i) s = .next (s.withMod (updCore s.mod i.site.val (fun _ => bumpDone 3 e))))
  ∧ (∀ (i : Issue) (s : State) (x : Part) (c c1 : Core) (vs : List B32) (d e : Core),
    Computes 3 0x0A i s x c → badVecFmt i.word = false → vBounds false x i.word c = .ok () →
    vSource i.scratch x i.word c = .ok (c1, vs) →
    vDest x i.word c1 ((List.range vs.length).map (fun k =>
      if vs.getD k 0 = 0xFF800000 then 0 else (Config.softmax vs).getD k 0)) = .ok d → completeCore i.word d = .ok e →
    exec (.softmax i) s = .next (s.withMod (updCore s.mod i.site.val (fun _ => bumpDone 3 e))))

/-- NOP, COPY, DEQUANT, ACC_CLEAR and SETP. When a NOP issues it only completes. A COPY between equal line formats in
scratch moves the lines with their tags; any other COPY, and a DEQUANT, decodes the source and writes it in the
destination format. ACC_CLEAR invalidates its run of accumulator entries. SETP replaces one parameter descriptor. Only
the core changes. (02_core.md R63, R67, R68, R69; 03_narrow_arithmetic.md R96, R108) -/
def Obligations.VectorMoves : Prop :=
  (∀ (i : Issue) (s : State) (x : Part) (c e : Core),
    Computes 3 0x00 i s x c → badVecFmt i.word = false → completeCore i.word c = .ok e →
    exec (.nop i) s = .next (s.withMod (updCore s.mod i.site.val (fun _ => bumpDone 3 e))))
  ∧ (∀ (i : Issue) (s : State) (x : Part) (c d e : Core) (f : Nat),
    Computes 3 0x01 i s x c → badVecFmt i.word = false →
    resolveFmt x c (wLayer i.word) (fld i.word 32 6) = f → resolveFmt x c (wLayer i.word) (fld i.word 38 6) = f →
    f ≠ 0x10 → f ≠ 0x11 → bit i.word 47 = false → bit i.word 73 = false →
    copyLines i f c = .ok d → completeCore i.word d = .ok e →
    exec (.copy i) s = .next (s.withMod (updCore s.mod i.site.val (fun _ => bumpDone 3 e))))
  ∧ (∀ (i : Issue) (s : State) (x : Part) (c c1 d e : Core) (vs : List B32),
    Computes 3 0x01 i s x c → badVecFmt i.word = false →
    (resolveFmt x c (wLayer i.word) (fld i.word 32 6) ≠ resolveFmt x c (wLayer i.word) (fld i.word 38 6)
      ∨ resolveFmt x c (wLayer i.word) (fld i.word 32 6) = 0x10 ∨ resolveFmt x c (wLayer i.word) (fld i.word 32 6) = 0x11
      ∨ bit i.word 47 = true ∨ bit i.word 73 = true) →
    vBounds false x i.word c = .ok () → vSource i.scratch x i.word c = .ok (c1, vs) → vDest x i.word c1 vs = .ok d →
    completeCore i.word d = .ok e → exec (.copy i) s = .next (s.withMod (updCore s.mod i.site.val (fun _ => bumpDone 3 e))))
  ∧ (∀ (i : Issue) (s : State) (x : Part) (c c1 d e : Core) (vs : List B32),
    Computes 3 0x03 i s x c → badDequant i.word = false → vBounds false x i.word c = .ok () →
    vSource i.scratch x i.word c = .ok (c1, vs) →
    vDest x i.word c1 vs = .ok d → completeCore i.word d = .ok e →
    exec (.dequant i) s = .next (s.withMod (updCore s.mod i.site.val (fun _ => bumpDone 3 e))))
  ∧ (∀ (i : Issue) (s : State) (x : Part) (c e : Core),
    Computes 3 0x0E i s x c → badVecFmt i.word = false → fld i.word 74 22 + vCount i.word ≤ 32768 →
    completeCore i.word { c with acc := mdelRange c.acc (fld i.word 74 22) (fld i.word 74 22 + vCount i.word) } = .ok e →
    exec (.accClear i) s = .next (s.withMod (updCore s.mod i.site.val (fun _ => bumpDone 3 e))))
  ∧ (∀ (i : Issue) (s : State) (x : Part) (c e : Core),
    Computes 3 0x3E i s x c → fld i.word 109 7 = 0 →
    completeCore i.word { c with params := lupd c.params (fld i.word 32 4) (fun _ =>
      { seg := fld i.word 36 3, off := fld i.word 39 22, len := fld i.word 61 16 + 1,
        scalar := BitVec.ofNat 32 (fld i.word 77 32) }) } = .ok e →
    exec (.setp i) s = .next (s.withMod (updCore s.mod i.site.val (fun _ => bumpDone 3 e))))

/-- QUANT quantises one column and selects it for checking; ROPE rotates by position. When a QUANT issues and its
operands lie in their segments, the quantised blocks are written and counted for their layer and the column is
selected for checking where the counter crosses N. When a ROPE issues, every vector of 128 elements is rotated by its
position: from the parameter operand, from the member header for query vectors, or for the key lines of its queue
entry. Only the core changes. (02_core.md R68, R70, R71; 03_narrow_arithmetic.md R101-R107;
08_sequences_and_kv_cache.md R266) -/
def Obligations.VectorQuantRope : Prop :=
  (∀ (i : Issue) (s : State) (x : Part) (c c1 e : Core) (vs : List B32) (a : Nat),
    Computes 3 0x02 i s x c → badQuant i.word = false → fld (vParam i.word c).scalar 17 15 = 0 →
    vBounds false x i.word c = .ok () → vSource i.scratch x i.word c = .ok (c1, vs) →
    (let fmt := resolveFmt x c1 (wLayer i.word) (fld i.word 38 6)
     let static := if bit (vParam i.word c).scalar 16 then some (fld (vParam i.word c).scalar 8 8) else none
     let enc := encodeOperand x c1 (wLayer i.word) fmt static vs
     segAddr c1 (fld i.word 70 3) (fld i.word 74 22) (operandWords fmt vs.length) = .ok a →
     completeCore i.word (selectColumn x i.site.val i.word (fld (vParam i.word c).scalar 0 8) a fmt static vs
       (countBlocks (writeWords c1 a enc.1) (wLayer i.word) enc.2)) = .ok e →
     exec (.quant i) s = .next (s.withMod (updCore s.mod i.site.val (fun _ => bumpDone 3 e)))))
  ∧ (∀ (i : Issue) (s : State) (x : Part) (c c1 c2 d e : Core) (vs ps : List B32),
    Computes 3 0x0D i s x c → badVecFmt i.word = false → wSqEn i.word = false →
    vBounds true x i.word c = .ok () → vSource i.scratch x i.word c = .ok (c1, vs) →
    vParamVals i.scratch i.word c1 (cdiv (vCount i.word) 128) = .ok (c2, ps) →
    vDest x i.word c2 (rotateAll (fun j => (ps.getD j 0).toNat) vs) = .ok d → completeCore i.word d = .ok e →
    exec (.rope i) s = .next (s.withMod (updCore s.mod i.site.val (fun _ => bumpDone 3 e))))
  ∧ (∀ (i : Issue) (s : State) (x : Part) (c c0 c1 d e : Core) (vs : List B32) (q : QEntry),
    Computes 3 0x0D i s x c → badVecFmt i.word = false → wSqEn i.word = true →
    (c.queues.getD (wSq i.word) []).head? = some q → bit (vParam i.word c).scalar 0 = false →
    vBounds false x i.word c = .ok () → readStaged i.scratch c (wSq i.word) q [0] = .ok c0 →
    vSource i.scratch x i.word c0 = .ok (c1, vs) →
    vDest x i.word c1 (rotateAll (fun j => headerWord q 3 + j) vs) = .ok d → completeCore i.word d = .ok e →
    exec (.rope i) s = .next (s.withMod (updCore s.mod i.site.val (fun _ => bumpDone 3 e))))
  ∧ (∀ (i : Issue) (s : State) (x : Part) (c c1 d e : Core) (q : QEntry) (f : Packed) (b g0 : Nat),
    Computes 3 0x0D i s x c → badVecFmt i.word = false → wSqEn i.word = true →
    (c.queues.getD (wSq i.word) []).head? = some q → bit (vParam i.word c).scalar 0 = true →
    packedOf (resolveFmt x c (wLayer i.word) (fld i.word 32 6)) = some f →
    (bit i.word 73 = true → accRange c (fld i.word 74 22) (vCount i.word) = .ok ()) →
    (bit i.word 73 = false → ∃ a, segAddr c (fld i.word 70 3) (fld i.word 74 22)
      (operandWords (resolveFmt x c (wLayer i.word) (fld i.word 38 6)) (vCount i.word)) = .ok a) →
    entryPlace f (max 1 (entryRun f (headerWord q 1))) (max 1 (fld i.word 48 22 / 9)) = (b, g0) →
    readStaged i.scratch c (wSq i.word) q (0 :: entryLinesOf f b g0 (vCount i.word)) = .ok c1 →
    (entryLinesOf f b g0 (vCount i.word)).all (fun j => fmtMatch (tagFmt (q.lines.getD j 0)) f.code) = true →
    vDest x i.word c1 (rotateAll (fun j => headerWord q 2 + g0 / 128 + j) (entryKeys f q b g0 (vCount i.word))) = .ok d →
    completeCore i.word d = .ok e →
    exec (.rope i) s = .next (s.withMod (updCore s.mod i.site.val (fun _ => bumpDone 3 e))))

/-- The six sampler stages act on the working state of their member. When a sampler stage issues for a member that is
sampled, SAMP_BIAS starts from the member's logits with the bias added, SAMP_PENALTY applies the penalties,
SAMP_FILTER keeps the candidates or chooses, SAMP_DRAW draws where nothing was chosen, SAMP_COUNT marks the count
update, SAMP_STOP tells whether the token stops the sequence. Only the member's working state changes, and the
instruction completes. (10_priorities_adapters_sampling.md R341-R346) -/
def Obligations.SamplerStages : Prop :=
  (∀ (i : Issue) (k : Fin 1024) (s : State) (x : Part) (c c1 e : Core) (q : Sampler) (vs : List B32),
    Computes 3 0x10 i s x c → badVecFmt i.word = false → memberSampler x k.val = some q →
    vSource i.scratch x i.word c = .ok (c1, vs) →
    completeCore i.word (setWork c1 k.val (freshWork (stageBias q (vs.map cleanLogit)))) = .ok e →
    exec (.sampBias i k) s = .next (s.withMod (updCore s.mod i.site.val (fun _ => bumpDone 3 e))))
  ∧ (∀ (i : Issue) (k : Fin 1024) (s : State) (x : Part) (c c1 e : Core) (q : Sampler) (w : SampWork),
    Computes 3 0x11 i s x c → badVecFmt i.word = false → WorkNow i x k.val c c1 q w →
    completeCore i.word (setWork c1 k.val { w with logits := stagePenalty q w.logits }) = .ok e →
    exec (.sampPenalty i k) s = .next (s.withMod (updCore s.mod i.site.val (fun _ => bumpDone 3 e))))
  ∧ (∀ (i : Issue) (k : Fin 1024) (s : State) (x : Part) (c c1 e : Core) (q : Sampler) (w : SampWork),
    Computes 3 0x12 i s x c → badVecFmt i.word = false → WorkNow i x k.val c c1 q w →
    completeCore i.word (setWork c1 k.val { w with token := (stageFilter q w.logits).1, cands := (stageFilter q w.logits).2 }) = .ok e →
    exec (.sampFilter i k) s = .next (s.withMod (updCore s.mod i.site.val (fun _ => bumpDone 3 e))))
  ∧ (∀ (i : Issue) (k : Fin 1024) (s : State) (x : Part) (c c1 e : Core) (q : Sampler) (w : SampWork),
    Computes 3 0x13 i s x c → badVecFmt i.word = false → WorkNow i x k.val c c1 q w →
    completeCore i.word (setWork c1 k.val { w with token := some (w.token.getD (stageDraw q w.cands)) }) = .ok e →
    exec (.sampDraw i k) s = .next (s.withMod (updCore s.mod i.site.val (fun _ => bumpDone 3 e))))
  ∧ (∀ (i : Issue) (k : Fin 1024) (s : State) (x : Part) (c c1 e : Core) (q : Sampler) (w : SampWork),
    Computes 3 0x14 i s x c → badVecFmt i.word = false → WorkNow i x k.val c c1 q w →
    completeCore i.word (setWork c1 k.val { w with counted := true }) = .ok e →
    exec (.sampCount i k) s = .next (s.withMod (updCore s.mod i.site.val (fun _ => bumpDone 3 e))))
  ∧ (∀ (i : Issue) (k : Fin 1024) (s : State) (x : Part) (c c1 e : Core) (q : Sampler) (w : SampWork),
    Computes 3 0x15 i s x c → badVecFmt i.word = false → WorkNow i x k.val c c1 q w →
    completeCore i.word (setWork c1 k.val { w with stop := (w.token.bind (tabEntry? q.table)).any eStop }) = .ok e →
    exec (.sampStop i k) s = .next (s.withMod (updCore s.mod i.site.val (fun _ => bumpDone 3 e))))

/-- SEND, GREAD and GWRITE inject their packets; RECV completes. When one of SEND, GREAD and GWRITE issues, no FENCE
holds it back, its scratch operand lies in its segment and its window exists, the issue is counted and its packets go
out on its route with its transfer open; completion follows the acknowledgements. A RECV completes at its issue.
(02_core.md R74, R75, R76; 06_fabric_beats_frames.md R180, R190, R191) -/
def Obligations.Transfers : Prop :=
  (∀ (i : Issue) (s : State) (x : Part) (c c1 : Core) (ls : List Line),
    Computes 4 0x01 i s x c → fenceHolds s.mod i = false → 4 < c.done.length → fld i.word 110 18 = 0 →
    scratchSource i (fld i.word 78 16 + 1) c = .ok (c1, ls) →
    exec (.send i) s = .next (s.withMod (
      let m1 := updCore s.mod i.site.val (fun _ => bumpDone 4 c1)
      sendLines m1 i.site.val (fld i.word 32 12) 0 (fld i.word 45 8) (fld i.word 94 16) (fun _ => 0)
        (sourceLines i (fld i.word 78 16 + 1) m1) (xferOf i (fld i.word 78 16 + 1) 0 0))))
  ∧ (∀ (i : Issue) (s : State) (x : Part) (c e : Core),
    Computes 4 0x02 i s x c → fld i.word 32 13 = 0 → fld i.word 94 34 = 0 → completeCore i.word c = .ok e →
    exec (.recv i) s = .next (s.withMod (updCore s.mod i.site.val (fun _ => bumpDone 4 e))))
  ∧ (∀ (i : Issue) (s : State) (x : Part) (c : Core) (win : Window) (a : Nat),
    Computes 4 0x03 i s x c → fenceHolds s.mod i = false → 4 < c.done.length → badWindow i.word = false →
    windowOf x (fld i.word 45 6) = some win →
    segAddr c (fld i.word 53 3) (fld i.word 56 22) (9 * (fld i.word 78 16 + 1)) = .ok a →
    exec (.gread i) s = .next (s.withMod (
      sendRequest (updCore s.mod i.site.val (fun _ => bumpDone 4 c)) i.site.val win (fld i.word 94 34)
        (fld i.word 78 16 + 1) (xferOf i (fld i.word 78 16 + 1) a win.gwin))))
  ∧ (∀ (i : Issue) (s : State) (x : Part) (c c1 : Core) (ls : List Line) (win : Window),
    Computes 4 0x04 i s x c → fenceHolds s.mod i = false → 4 < c.done.length → badWindow i.word = false →
    windowOf x (fld i.word 45 6) = some win → scratchSource i (fld i.word 78 16 + 1) c = .ok (c1, ls) →
    exec (.gwrite i) s = .next (s.withMod (
      let m1 := updCore s.mod i.site.val (fun _ => bumpDone 4 c1)
      sendLines m1 i.site.val win.reqRoute 3 0 0 (fun k => fields [(0, 6, win.gwin), (6, 34, fld i.word 94 34 + k)])
        (sourceLines i (fld i.word 78 16 + 1) m1) (xferOf i (fld i.word 78 16 + 1) 0 win.gwin))))

/-- The beat barrier: boundaries, results, and what a beat that does not end is called. A core whose lists are done,
whose receives have their counts and which holds no residue stands at the barrier; when it is the last, what waits for
the boundary acts. A barrier that may release ends the beat of every core and enters the next beat of the schedule, or
ends the step; a step to be restarted enters beat 0. The last acknowledged write of the batch table lets the step
begin. When beats of a partition run and no partner or seam hold stops them, BEAT_TIMEOUT flags its regions, puts it
into FAULTED at the lowest late site with code 0x26, records every late core, posts FAB_FAULT, and then enters the
fault path of the fabric, waits for the partner whose answer is missing, or faults the plan. (02_core.md R51, R52; 06_fabric_beats_frames.md R205, R206, R208,
R211, R214; 11_olix_links_and_partners.md R370; 08_sequences_and_kv_cache.md R256) -/
def Obligations.Beats : Prop :=
  ((∀ (i : SiteId) (s : State) (p : Nat) (x : Part),
    issuing s.mod i.val = some (p, x) → (siteOf s.mod i.val).core.atBarrier = false →
    beatDone (siteOf s.mod i.val).core = true → residue? (siteOf s.mod i.val).core = none →
    exec (.beatArrive i) s = .next (s.withMod (
      boundaryReached s.fuses (updCore s.mod i.val (fun d => { d with atBarrier := true })) p)))
  ∧ (∀ (p : PartId) (s : State) (x : Part) (pl : Plan),
    partOf? s.mod p.val = some x → x.plan = some pl → mayRelease s.mod p.val x = true →
    (x.restartDue = true → exec (.barrierRelease p) s = .next (s.withMod (
        enterAll (forAll (updPart s.mod p.val (fun y => { y with restartDue := false })) (partRegions s.mod x) (fun m r =>
          updRegion m r (fun y => { y with watchdogNs := 0 }))) p.val 0)))
    ∧ (x.restartDue = false → x.schedPos + 1 < stepBeats s.mod x → exec (.barrierRelease p) s = .next (s.withMod (
        storeWork (enterAll (endBeatAll s.mod p.val x pl) p.val (x.schedPos + 1)) p.val)))
    ∧ (x.restartDue = false → stepBeats s.mod x ≤ x.schedPos + 1 → exec (.barrierRelease p) s = .next (s.withMod (
        endStep s.fuses (endBeatAll s.mod p.val x pl) p.val))))
  ∧ (∀ (p : PartId) (s : State) (x : Part), partOf? s.mod p.val = some x → x.tableWaiting = true →
    exec (.batchWriteAck p) s = .next (s.withMod (
      tryBegin (updPart s.mod p.val (fun y => { y with tableWaiting := false })) p.val))))
  ∧ (∀ (p : PartId) (s : State) (x : Part), partOf? s.mod p.val = some x → beatsRun x = true → x.holdPartner = false →
    x.holdSeam = false →
    (let m := updPart (faultPart (forAll s.mod (partRegions s.mod x) (fun m r => fabFlag m r 5)) p.val (lateSite s.mod x) 0x26)
       p.val (fun y => { y with late := lateCores s.mod x })
     let posted := post m 0x0306 none (fabPayload m 0xFFFF p.val 0x26 0 0)
     let note (c : FaultClass) : FaultNote := { site := lateSite s.mod x, code := 0x26, cls := c, partner := false }
     (hardwareFault s.mod p.val = true → exec (.beatTimeout p) s = .next (s.withMod (
        beginRestart (faultEntry posted p.val (note .fabric) 0) p.val (note .fabric))))
     ∧ (∀ q, hardwareFault s.mod p.val = false → awaitsPartner s.mod p.val = some q →
        exec (.beatTimeout p) s = .next (s.withMod (
          let m2 := updPart posted p.val (fun y => { y with faultStall := true })
          postLedger m2 0x0708 none 6 0 (olixPayload m2 q.group q.link 0xFF q.node 0x2A 0 p.val q.moduleId))))
     ∧ (hardwareFault s.mod p.val = false → awaitsPartner s.mod p.val = none →
        exec (.beatTimeout p) s = .next (s.withMod (planFault posted p.val x (note .plan))))))

/-- Scores, windows, pending rises and the level-3 timeout reach the error watch. A captured tile is recomputed,
posted as a score and freed. While the active Ringmaster member lives, the oldest score of a partition is taken: at the
level of its layer it counts as a score, at another level or without a value as non-finite; a gross tile is put into
the ledger and posted, and the third of its site within 600 s retires the site. The end of a 64-step window tests each
layer's counts and clears them. A pending rise that has become free is triggered with cause 4; a layer 65,536 steps at
level 3 without a change or a counter trigger falls with cause 6.
(04_error_watch_and_widening.md R125-R132, R136, R137, R140; 15_faults_and_live_service.md R453) -/
def Obligations.ErrorWatchCommands : Prop :=
  (∀ (i : SiteId) (fs : List MemFault) (s : State) (p : Nat) (e : CheckEntry),
    partAtSite s.mod i.val = some p → (siteOf s.mod i.val).core.reserve.find? (fun e => !e.results.isEmpty) = some e →
    (regionAt s.mod (regionOf i.val)).fwRestart = false →
    exec (.checkTileDone i fs) s = .next (s.withMod (
      let r := readLines s.mod i.val e.source (tileLines e) fs
      updPart (updCore r.1 i.val (fun c => { c with reserve := c.reserve.erase e, checkDone := c.checkDone + 1 })) p
        (fun x => { x with scores := x.scores ++ [scoreTile i.val e r.2] }))))
  ∧ (∀ (p : PartId) (s : State) (x : Part) (sc : Score) (rest : List Score) (e : LayerEntry) (l : LayerSt),
    rmAlive s.mod = true → partOf? s.mod p.val = some x → x.scores = sc :: rest → layerEntry x sc.layer = some e →
    mget? x.layers sc.layer = some l →
    (let m := updPart s.mod p.val (fun y => { y with scores := rest })
     let nonFinite (m : Mod) : Mod := updLayer m p.val sc.layer (fun l => { l with nonfinite := sat16 (l.nonfinite + 1) })
     (∀ d, sc.gross = none → sc.score = some d → exec (.scoreReceived p) s = .next (s.withMod (
        if l.level = sc.level then takeScore m p.val e sc.layer d else nonFinite m)))
     ∧ (sc.gross = none → sc.score = none → exec (.scoreReceived p) s = .next (s.withMod (nonFinite m)))
     ∧ (∀ g, sc.gross = some g → sc.score = none →
        (let m1 := takeGross m p.val x l.level sc g
         let m2 := if l.level = sc.level then m1 else nonFinite m1
         exec (.scoreReceived p) s = .next (s.withMod (
           if (siteOf m2 sc.site).env.gross ≠ (siteOf s.mod sc.site).env.gross ∧ 3 ≤ grossRecent m2 sc.site then
             takeFault s.fuses m2 p.val { site := sc.site, code := 0, cls := .core, partner := false }
           else m2))))))
  ∧ (∀ (p : PartId) (s : State) (x : Part), rmAlive s.mod = true → partOf? s.mod p.val = some x → windowOver x = true →
    exec (.quantWindowEnd p) s = .next (s.withMod (forAll s.mod (x.layers.map Prod.fst) (endWindow p.val))))
  ∧ (∀ (p : PartId) (layer : Fin 4096) (s : State) (x : Part) (l : LayerSt),
    rmAlive s.mod = true → partOf? s.mod p.val = some x → mget? x.layers layer.val = some l →
    (l.pending = true → levelFree x l = true →
      exec (.pendingEscalate p layer) s = .next (s.withMod (trigger s.mod p.val layer.val 4)))
    ∧ (l.level = 3 → max l.changeStep l.calmStep + 65536 ≤ x.stepCount →
      exec (.level3Timeout p layer) s = .next (s.withMod (narrow s.mod p.val layer.val 6))))

/-- Scrub visits and row refresh of the vertical memory. Patrol scrub of a slice that runs scrubs the unit of its pass
and moves to the next, or begins a new pass. Early scrub visits the oldest queued unit and takes it from the queue.
The end of a row copy writes the corrected row to the spare, remaps it, counts it, ends its tracker entry and posts it
with its ledger entry; with three spare rows left 0x0205 is posted once; the next row that waits for the bank follows. On a slice that runs: PERIODIC_REFRESH moves the bank's refresh row
on (2,069 rows), REFRESH_INTERVAL_END clears the bank's activation counters, TARGETED_REFRESH clears and counts the
counters that reached TR_THRESHOLD. MEM_HOT_REFRESH takes the two temperatures: hot above 85, not hot below 82,
posting 0x0207 when that changes. (05_vertical_memory.md R158, R159, R160, R162, R165, R166, R168) -/
def Obligations.MemoryMaintenance : Prop :=
  ((∀ (i : SiteId) (fs : List MemFault) (s : State), (siteOf s.mod i.val).slice.state = .ready →
    exec (.patrolScrub i fs) s = .next (s.withMod (
      let u := (siteOf s.mod i.val).slice.scrubPos
      updSlice (scrubUnit s.mod i.val u fs) i.val (fun x =>
        if u + 1 = unitsPerSlice then newPass x else { x with scrubPos := u + 1 }))))
  ∧ (∀ (i : SiteId) (fs : List MemFault) (s : State) (u : Nat) (us : List Nat),
    (siteOf s.mod i.val).slice.state = .ready → (siteOf s.mod i.val).slice.scrubQ = u :: us →
    exec (.earlyScrub i fs) s = .next (s.withMod (
      updSlice (scrubUnit s.mod i.val u fs) i.val (fun x => { x with scrubQ := x.scrubQ.filter (fun v => v != u) }))))
  ∧ (∀ (i : SiteId) (ch : RegionId) (b : Fin 8) (s : State) (rc : RowCopy),
    (bankOf (siteOf s.mod i.val).slice (8 * ch.val + b.val)).copying = some rc →
    exec (.rowCopyDone i ch b) s = .next (s.withMod (
      let m1 := forAll s.mod ((List.range 16).map (fun col => unitAt ch.val b.val rc.row col))
        (fun m u => scrubUnit m i.val u [])
      let m2 := updBank m1 i.val (8 * ch.val + b.val) (fun x => { x with
        copying := none, remap := (rc.row, rc.spare) :: x.remap })
      let m3 := updSlice m2 i.val (fun x => { x with
        rowsRetired := sat16 (x.rowsRetired + 1),
        trackers := mset x.trackers ch.val ((mget x.trackers ch.val []).filter (fun t => !(t.bank = b.val && t.row = rc.row))) })
      let u := unitAt ch.val b.val rc.row 0
      let m4 := memPostLedger (memFlag m3 i.val 0) 0x0202 0 i.val u 0xFF (2 * u) (spareRows - (rc.spare + 1))
      let m5 := if spareRows - (rc.spare + 1) = 3 ∧
          (bankOf (siteOf m4 i.val).slice (8 * ch.val + b.val)).lowPosted = false then
        memPost (memFlag (updBank m4 i.val (8 * ch.val + b.val) (fun x => { x with lowPosted := true })) i.val 4) 0x0205
          i.val u 0xFF (2 * u) (spareRows - (rc.spare + 1))
      else m4
      nextRow m5 i.val (8 * ch.val + b.val)))))
  ∧ ((∀ (i : SiteId) (ch : RegionId) (b : Fin 8) (s : State), (siteOf s.mod i.val).slice.state = .ready →
    exec (.periodicRefresh i ch b) s = .next (s.withMod (
      updBank s.mod i.val (8 * ch.val + b.val) (fun x => { x with refreshRow := (x.refreshRow + 1) % 2069 })))
    ∧ exec (.refreshIntervalEnd i ch b) s = .next (s.withMod (
      updBank s.mod i.val (8 * ch.val + b.val) (fun x => { x with counters := [] })))
    ∧ (let due := (bankOf (siteOf s.mod i.val).slice (8 * ch.val + b.val)).counters.filter
         (fun p => (regionAt s.mod (regionOf i.val)).trThreshold ≤ p.2)
       due ≠ [] → exec (.targetedRefresh i ch b) s = .next (s.withMod (
        updSlice (updBank s.mod i.val (8 * ch.val + b.val) (fun x => { x with
            counters := x.counters.filter (fun p => p.2 < (regionAt s.mod (regionOf i.val)).trThreshold) }))
          i.val (fun x => { x with tref := x.tref + due.length })))))
  ∧ (∀ (i : SiteId) (lo hi : Fin 256) (s : State) (hot : Bool), slicePowered (siteOf s.mod i.val).slice = true →
    hot = (if 85 < max lo.val hi.val then true else if max lo.val hi.val < 82 then false else (siteOf s.mod i.val).slice.hot) →
    exec (.memHotRefresh i lo hi) s = .next (s.withMod (
      let m := updSlice s.mod i.val (fun x => { x with tempLower := lo.val, tempUpper := hi.val, hot := hot })
      if hot = (siteOf s.mod i.val).slice.hot then m
      else post m 0x0207 none (memPayload m i.val 0x3F 0 0 0xFF 0 (b2n hot))))))

/-- Packets arrive and are acknowledged; links and seams fall and return. When the outputs of the oldest packet of an
input are free it leaves the input, corrected and lost flits are counted, and lost data flits go on with their wrong
bits and poison their lines; a lost header or a reserved kind is a router fault, else the packet moves along its
corridor, by its route entry, or from the local port of a redirected core into a corridor. The oldest acknowledgement
of a sender whose way back is free is taken; one of a DATA or GWR packet counts for its transfer. A router that holds
no flit of the old epoch reports it; with the last the old bank is released, 0x0301 posted, and a switch that waited
staged. A lost half clock takes every crossing down, marks the regions that no longer see the clock, holds the
partitions that own seam slots and posts 0x0302; with both seam domains on and the clocks locked the crossings whose
links are trained come back and the holds end. A mesh link that falls is not trained at both ends, is latched, flagged,
reported and remembered by its owners; a failed retraining leaves it dead and faults its owners; a retrained link is
trained again. (06_fabric_beats_frames.md R177, R179, R180, R183, R184, R187, R190, R197, R198, R202, R214, R216, R217;
01_wafer_organisation.md R22) -/
def Obligations.Fabric : Prop :=
  ((∀ (i : SiteId) (port : Fin 5) (slot : Fin 8) (fixed : Nat) (bad : List (Fin 33 × BitVec 144)) (s : State) (f : Flight),
    s.mod.fabric.flights.find? (fun f => f.site = i.val && f.port = port.val && f.slot = slot.val) = some f →
    outputsFree s.mod i.val port.val f.pkt = true →
    (let hits := bad.filter (fun b => b.1.val < packetFlits f.pkt)
     let m2 := updRouter { s.mod with fabric := { s.mod.fabric with flights := s.mod.fabric.flights.erase f } } i.val
       (fun r => { r with flitCE := sat32 (r.flitCE + fixed), flitUE := sat32 (r.flitUE + hits.length) })
     let m := if hits.isEmpty then m2 else fabFlag m2 (regionOf i.val) 0
     let pkt := poisonFlits f.pkt hits
     (hits.any (fun b => b.1.val = 0) = true → exec (.packetForward i port slot fixed bad) s = .next (s.withMod (
        routerFault m i.val port.val slot.val f.pkt.header 0x24)))
     ∧ (hits.any (fun b => b.1.val = 0) = false → 6 ≤ hKind f.pkt.header →
        exec (.packetForward i port slot fixed bad) s = .next (s.withMod (
          routerFault m i.val port.val slot.val f.pkt.header 0x20)))
     ∧ (hits.any (fun b => b.1.val = 0) = false → hKind f.pkt.header < 6 →
        (hCorridor pkt.header = true → hDest pkt.header = i.val →
          exec (.packetForward i port slot fixed bad) s = .next (s.withMod (corridorArrive m i.val port.val slot.val pkt)))
        ∧ (hCorridor pkt.header = true → hDest pkt.header ≠ i.val →
          exec (.packetForward i port slot fixed bad) s = .next (s.withMod (corridorStep m i.val pkt)))
        ∧ (hCorridor pkt.header = false → (port.val ≠ 4 ∨ (siteOf m i.val).router.redirect = none ∨ partAtSite m i.val = none) →
          exec (.packetForward i port slot fixed bad) s = .next (s.withMod (forwardScheduled m i.val port.val slot.val pkt)))
        ∧ (∀ d q, hCorridor pkt.header = false → port.val = 4 → (siteOf m i.val).router.redirect = some d →
          partAtSite m i.val = some q →
          exec (.packetForward i port slot fixed bad) s = .next (s.withMod (corridorStep m i.val (toCorridor pkt d)))))))
  ∧ (∀ (i : SiteId) (s : State) (a : Ack), s.mod.fabric.acks.find? (fun a => a.src = i.val && ackFree s.mod a) = some a →
    exec (.packetAck i) s = .next (s.withMod (
      let m := { s.mod with fabric := { s.mod.fabric with acks := s.mod.fabric.acks.erase a } }
      if a.kind = 0 ∨ a.kind = 3 then takeAck m i.val a.seq else m)))
  ∧ (∀ (p : PartId) (i : SiteId) (s : State) (x : Part), partOf? s.mod p.val = some x → x.draining.contains i.val = true →
    oldFlits s.mod i.val (fun f => hPart f.pkt.header == p.val) = 0 →
    (let m1 := updPart s.mod p.val (fun y => { y with draining := x.draining.filter (fun t => t != i.val) })
     (x.draining.filter (fun t => t != i.val) ≠ [] → exec (.epochDrainReport p i) s = .next (s.withMod m1))
     ∧ (x.draining.filter (fun t => t != i.val) = [] → exec (.epochDrainReport p i) s = .next (s.withMod (
         let m2 := forAll m1 (concerned m1 p.val x) (fun m t => updRouter m t (fun r =>
           if partEpoch m1 x then { r with routesA := releaseBank p.val r.routesA }
           else { r with routesB := releaseBank p.val r.routesB }))
         let m3 := forAll m2 (partRegions m2 x) (fun m r => updRegion m r (fun y => { y with switchPending := false }))
         let m4 := post m3 0x0301 none (fabPayload m3 0xFFFF p.val 0 0 0)
         if x.epochDue then stageEpoch m4 p.val else m4))))))
  ∧ ((∀ (west : Bool) (s : State), s.mod.fabric.seamDown = false →
    exec (.seamDown west) s = .next (s.withMod (
      let m0 := forAll s.mod seamRegions (fun m r => updRegion m r (fun y => { y with
        seamClockLost := y.seamClockLost || (eastRegion r == west) }))
      let m1 := forAll { m0 with fabric := { m0.fabric with seamDown := true } } (List.range 48)
        (fun m y => markLink m (seamLink y) false)
      let m2 := forAll m1 seamRegions (fun m r => fabFlag m r 4)
      let m3 := forAll m2 (partIds m2) (fun m p =>
        if ownsSeam m p then settleHold (updPart m p (fun y => { y with holdSeam := true })) p else m)
      post m3 0x0302 none (fabPayload m3 0xFFFF 0 0 0 0))))
  ∧ (∀ s : State, s.mod.fabric.seamDown = true → s.mod.pwr.seamOn = 3 → s.mod.clk.fclkWLock = true →
    s.mod.clk.fclkELock = true → s.mod.clk.sclkLock = true →
    exec .seamUp s = .next (s.withMod (
      let m1 := { s.mod with fabric := { s.mod.fabric with seamDown := false } }
      let m2 := forAll (forAll m1 seamRegions (fun m r => updRegion m r (fun y => { y with seamClockLost := false })))
        ((List.range 48).filter (fun y => !(s.mod.fabric.linkDown ++ s.mod.fabric.linkDead).contains (seamLink y)))
        (fun m y => markLink m (seamLink y) true)
      let m3 := post m2 0x0303 none (fabPayload m2 0xFFFF 0 0 0 0)
      forAll m3 (partIds m3) (fun m p => match partOf? m p with
        | some x => if x.holdSeam then settleHold (updPart m p (fun y => { y with holdSeam := false })) p else m
        | none => m))))
  ∧ (∀ (l : Fin 2992) (s : State), l.val ∉ s.mod.fabric.linkDown → l.val ∉ s.mod.fabric.linkDead →
    exec (.linkDown l) s = .next (s.withMod (
      let a := (linkEnds l.val).1
      let b := (linkEnds l.val).2
      let m1 := markLink { s.mod with fabric := { s.mod.fabric with linkDown := s.mod.fabric.linkDown ++ [l.val] } } l.val false
      let m2 := fabFlag (fabFlag (latchLink (latchLink m1 a) b) (regionOf a.1) 2) (regionOf b.1) 2
      let m3 := noteRegionFault m2 (regionOf a.1) a.1 0x25 .fabric
      let m4 := forAll m3 (partIds m3) (fun m p =>
        if ownsLink m p l.val then updPart m p (fun y => { y with linkFault := true }) else m)
      let owner := ((partIds m4).find? (fun p => ownsLink m4 p l.val)).getD 0
      post (ledgerAdd m4 0 4 0 (fabPayload m4 a.1 owner 0x25 0 b.1)) 0x0306 none
        (fabPayload (ledgerAdd m4 0 4 0 (fabPayload m4 a.1 owner 0x25 0 b.1)) a.1 owner 0x25 0 0))))
  ∧ (∀ (l : Fin 2992) (s : State), l.val ∈ s.mod.fabric.linkDown →
    exec (.linkRetrained l) s = .next (s.withMod (
      let m := { s.mod with fabric := { s.mod.fabric with linkDown := s.mod.fabric.linkDown.filter (fun k => k != l.val) } }
      if isSeamLink l.val = true ∧ s.mod.fabric.seamDown = true then m else markLink m l.val true))
    ∧ exec (.linkRetrainFail l) s = .next (s.withMod (
      let a := (linkEnds l.val).1.1
      let m1 := { s.mod with fabric := { s.mod.fabric with
        linkDown := s.mod.fabric.linkDown.filter (fun k => k != l.val), linkDead := s.mod.fabric.linkDead ++ [l.val] } }
      let m2 := forAll m1 (partIds m1) (fun m p =>
        if ownsLink m p l.val then updPart (faultPart m p a 0x25) p (fun y => { y with frame0 := .faulted, faultLink := true })
        else m)
      post m2 0x0306 none (fabPayload m2 a (((partIds m2).find? (fun p => ownsLink m2 p l.val)).getD 0) 0x25 0 0)))))

/-- SEQ_OPEN enters a new sequence from a parameter block or a state record. When SEQ_OPEN starts on a partition with
a running plan, its arguments are clean and its block or record is there whole and passes every check, its binding
stands and a slot is free, the new sequence is entered under a new handle, the lines of its cache tables are written
and the command completes with that handle and the sequence's state. Nothing else changes. (08_sequences_and_kv_cache.md R252, R273, R281, R282; 10_priorities_adapters_sampling.md
R334, R338, R339; 09_host_rings_and_commands.md R302, R303) -/
def Obligations.SequenceOpens : Prop :=
  (∀ (r : RingRef) (e : SqEntry) (h : HostSide) (s : State) (m : Mod) (c : Cmd) (p : Nat) (x : Part) (pl : Plan) (tab : SMap Word) (v slot : Nat),
    Taken r e h 0x01 s m c → OnPart m r p x → x.plan = some pl → planStopped x = false → bit e.args 104 = false →
    entryClean e false true false [(0, 64), (64, 32), (96, 3), (104, 1), (112, 16), (128, 8), (144, 16)] = true →
    areaOk m x (argN e 0 8) (argN e 8 4) = true → 256 ≤ e.len0.toNat →
    rejected (hostOf m (ringHost m r)) e.addr0.toNat 256 = false →
    (let b : BitVec 2048 := BitVec.ofNat 2048 (leNat (hostRead (hostOf m (ringHost m r)) e.addr0.toNat 256))
     let n := 4 * sStops b + 8 * sBiases b
     blockOk b false = true → (n = 0 ∨ sListAddr b % 8 = 0 ∧ rejected (hostOf m (ringHost m r)) (sListAddr b) n = false) →
     listsTable b (hostRead (hostOf m (ringHost m r)) (sListAddr b) n) = some tab →
     bindCheck x pl (argN e 14 2) (argN e 16 1) (argN e 18 2) false = .ok v → freeSlot x = some slot →
    exec (.seqOpen r e h) s = .next (s.withMod (
      let t : Sampler := { block := b, counter := 0, table := tab, ring := [], fill := 0 }
      let g := enterSeq x slot none
        (newSeq 0 (fld e.args 96 3) (argN e 0 8) (argN e 8 4) (argN e 14 2) (argN e 16 1) v t m.time)
      completeOpen (updPart m p (fun _ => g.1)) r c g.2 0))))
  ∧ (∀ (r : RingRef) (e : SqEntry) (h : HostSide) (s : State) (m : Mod) (c : Cmd) (p : Nat) (x : Part) (pl : Plan) (v : Nat) (g : Part × BitVec 32),
    Taken r e h 0x01 s m c → OnPart m r p x → x.plan = some pl → planStopped x = false → bit e.args 104 = true →
    entryClean e false true false [(0, 64), (64, 32), (96, 3), (104, 1), (112, 16), (128, 8), (144, 16)] = true →
    areaOk m x (argN e 0 8) (argN e 8 4) = true → fld e.args 96 3 = 0 → argN e 14 6 = 0 → 128 ≤ e.len0.toNat →
    recordLen (hostOf m (ringHost m r)) e ≤ e.len0.toNat →
    rejected (hostOf m (ringHost m r)) e.addr0.toNat e.len0.toNat = false →
    (let bs := hostRead (hostOf m (ringHost m r)) e.addr0.toNat e.len0.toNat
     let q := recordSeq bs (argN e 0 8) (argN e 8 4) v m.time
     recordOk (bs.take (leAt bs 8 8)) (recordSampler bs).1 (recordSampler bs).2 = true →
     leAt bs 28 1 = pl.cacheFormat → (bs.drop 64).take 32 = pairDigest pl →
     leAt bs 32 4 = (if pl.pairs.isEmpty then 0 else cdiv (leAt bs 20 4) 256) →
     bindCheck x pl (leAt bs 56 2) (leAt bs 60 1) (leAt bs 58 2) true = .ok v →
     pagesNamed x (BitVec.ofNat 32 (leAt bs 16 4)) (recordLeaves bs) = true →
     enterShared x (handleParity (BitVec.ofNat 32 (leAt bs 16 4))) q = some g →
    exec (.seqOpen r e h) s = .next (s.withMod (completeOpen (updPart m p (fun _ => g.1)) r c g.2 (seqCode q.state)))))

/-- SEQ_APPEND and SEQ_GENERATE join their sequence; a buffer too small is refused with the size it needs. A
SEQ_APPEND of 4 to 2^26 bytes whose first token is good, and a SEQ_GENERATE of at most 2^24 tokens whose buffer holds
them, are queued behind the pending commands of a sequence that takes steps, which becomes ACTIVE, also while frame 0
is HELD; a FAULTED frame 0 completes them HELD. A SEQ_GENERATE buffer that is too small is refused for resources with the bytes needed. (08_sequences_and_kv_cache.md R254;
09_host_rings_and_commands.md R302, R303) -/
def Obligations.SequenceRuns : Prop :=
  (∀ (r : RingRef) (e : SqEntry) (h : HostSide) (s : State) (m : Mod) (c : Cmd) (p : Nat) (x : Part) (q : Seq),
    Taken r e h 0x02 s m c → OnSeq m r p x q c → x.frame0 ≠ .faulted → takesSteps q = true →
    entryClean e true true false [] = true → 4 ≤ e.len0.toNat → e.len0.toNat ≤ 2 ^ 26 → e.len0.toNat % 4 = 0 →
    rejected (hostOf m (ringHost m r)) e.addr0.toNat e.len0.toNat = false →
    (let toks := (List.range (e.len0.toNat / 4)).map (fun k =>
       BitVec.ofNat 32 (leNat (hostRead (hostOf m (ringHost m r)) (e.addr0.toNat + 4 * k) 4)))
     badToken (toks.headD 0) = false →
    exec (.seqAppend r e h) s = .next (s.withMod (acceptRun m r c p toks))))
  ∧ (∀ (r : RingRef) (e : SqEntry) (h : HostSide) (s : State) (m : Mod) (c : Cmd) (p : Nat) (x : Part) (q : Seq),
    Taken r e h 0x03 s m c → OnSeq m r p x q c → x.frame0 ≠ .faulted → takesSteps q = true →
    entryClean e true true false [(0, 32), (32, 16)] = true → 0 < maxTokens e → maxTokens e ≤ 2 ^ 24 →
    8 + 4 * maxTokens e ≤ e.len0.toNat →
    exec (.seqGenerate r e h) s = .next (s.withMod (acceptRun m r c p [])))
  ∧ (∀ (r : RingRef) (e : SqEntry) (h : HostSide) (s : State) (m : Mod) (c : Cmd) (p : Nat) (x : Part) (q : Seq),
    OnPart m r p x → seqOf? x c.entry.handle = some q → x.frame0 = .faulted →
    (Taken r e h 0x02 s m c → entryClean e true true false [] = true → 4 ≤ e.len0.toNat → e.len0.toNat ≤ 2 ^ 26 →
      e.len0.toNat % 4 = 0 → exec (.seqAppend r e h) s = .next (s.withMod (completeQ m r c .held)))
    ∧ (Taken r e h 0x03 s m c → entryClean e true true false [(0, 32), (32, 16)] = true → 0 < maxTokens e →
      maxTokens e ≤ 2 ^ 24 → 8 + 4 * maxTokens e ≤ e.len0.toNat →
      exec (.seqGenerate r e h) s = .next (s.withMod (completeQ m r c .held))))
  ∧ (∀ (r : RingRef) (e : SqEntry) (h : HostSide) (s : State) (m : Mod) (c : Cmd) ,
    Taken r e h 0x03 s m c → entryClean e true true false [(0, 32), (32, 16)] = true → 0 < maxTokens e → maxTokens e ≤ 2 ^ 24 →
    e.len0.toNat < 8 + 4 * maxTokens e →
    exec (.seqGenerate r e h) s = .next (s.withMod (
      complete m r { compl e.cid .refusedResources with handle := e.handle, result1 := 8 + 4 * maxTokens e })))

/-- SEQ_PAUSE, SEQ_RESUME and SEQ_CLOSE at a step boundary. While no step runs, SEQ_PAUSE turns an OPEN or ACTIVE
sequence to PAUSED, SEQ_RESUME returns a PAUSED one to ACTIVE or OPEN, and SEQ_CLOSE ends the sequence's earlier
commands that wait and removes the sequence whatever stops the plan; each completes. A step in progress makes the first
two wait, SEQ_PAUSE with the gates closed. (06_fabric_beats_frames.md R206; 08_sequences_and_kv_cache.md R254, R284;
09_host_rings_and_commands.md R302, R303) -/
def Obligations.SequenceStates : Prop :=
  (∀ (r : RingRef) (e : SqEntry) (h : HostSide) (s : State) (m : Mod) (c : Cmd) (p : Nat) (x : Part) (q : Seq),
    Taken r e h 0x04 s m c → OnSeq m r p x q c → planStopped x = false → entryClean e true false false [] = true → x.inStep = false →
    (q.state = .opened ∨ q.state = .active) →
    exec (.seqPause r e h) s = .next (s.withMod (
      completeSeq (updSeq m p q.handle (fun s => { s with state := .paused, hold := false })) r c q .ok)))
  ∧ (∀ (r : RingRef) (e : SqEntry) (h : HostSide) (s : State) (m : Mod) (c : Cmd) (p : Nat) (x : Part) (q : Seq),
    Taken r e h 0x05 s m c → OnSeq m r p x q c → planStopped x = false → entryClean e true false false [] = true → x.inStep = false →
    q.state = .paused →
    exec (.seqResume r e h) s = .next (s.withMod (
      kick (completeSeq (updSeq m p q.handle (fun s => { s with
        state := if s.pending.isEmpty then .opened else .active })) r c q .ok) p)))
  ∧ (∀ (r : RingRef) (e : SqEntry) (h : HostSide) (s : State) (m : Mod) (c : Cmd) (p : Nat) (x : Part) (q : Seq),
    Taken r e h 0x0A s m c → OnSeq m r p x q c → entryClean e true false false [] = true →
    (x.inStep = false ∨ stepStopped x = true ∧ ((memberNow x q.handle).isNone = true ∨ x.repair.isSome = true)) →
    exec (.seqClose r e h) s = .next (s.withMod (
      complete (poolCheck (closeSeq (abortEarlier m p q.handle c.fetchNo) p q.handle) p) r
        { compl e.cid .ok with handle := q.handle })))
  ∧ (∀ (r : RingRef) (e : SqEntry) (h : HostSide) (s : State) (m : Mod) (c : Cmd) (p : Nat) (x : Part) (q : Seq),
    OnSeq m r p x q c → planStopped x = false → entryClean e true false false [] = true → x.inStep = true →
    (Taken r e h 0x04 s m c → exec (.seqPause r e h) s = .next (s.withMod (waitCmd (closeGates m p) r c)))
    ∧ (Taken r e h 0x05 s m c → exec (.seqResume r e h) s = .next (s.withMod (waitCmd m r c))))

/-- SEQ_PARK, SEQ_UNPARK and SEQ_SNAPSHOT start their transfers. SEQ_PARK of an OPEN or PAUSED sequence whose store
has room takes the store area given, or keeps its own, and writes its pages. SEQ_UNPARK of a PARKED or LOST one,
salvaged first where it is LOST, reserves a page for each stored leaf and reads them. SEQ_SNAPSHOT writes its record
at once, or flushes pages first. (08_sequences_and_kv_cache.md R276, R277, R283, R280; 09_host_rings_and_commands.md
R302, R303) -/
def Obligations.SequenceParking : Prop :=
  (∀ (r : RingRef) (e : SqEntry) (h : HostSide) (s : State) (m : Mod) (c : Cmd) (p : Nat) (x : Part) (q : Seq),
    Taken r e h 0x06 s m c → OnSeq m r p x q c → planStopped x = false → entryClean e true false false [(0, 64), (64, 32)] = true →
    (q.state = .opened ∨ q.state = .paused) →
    (let keep := argN e 0 8 = 0 ∧ argN e 8 4 = 0
     let base := if keep then q.storeBase else argN e 0 8
     let pages := if keep then q.storePages else argN e 8 4
     (keep ∨ argN e 0 8 ≠ 0 ∧ argN e 8 4 ≠ 0 ∧ storeAreaOk m x (argN e 0 8) = true) → pages ≠ 0 → seqPages x q ≤ pages →
    exec (.seqPark r e h) s = .next (s.withMod (
      parkNext (updSeq (runningCmd m r c) p q.handle (fun s => { s with
        storeBase := base, storePages := pages, state := .parking, pausedBefore := decide (q.state = .paused) })) p q.handle))))
  ∧ (∀ (r : RingRef) (e : SqEntry) (h : HostSide) (s : State) (m : Mod) (c : Cmd) (p : Nat) (x : Part) (q : Seq),
    Taken r e h 0x07 s m c → OnSeq m r p x q c → planStopped x = false → entryClean e true false false [] = true →
    (q.state = .parked ∨ q.state = .lost) →
    (let z := if q.state = .lost then salvage x q else (x, q)
     storedLeaves z.2 ≤ freePages x →
    exec (.seqUnpark r e h) s = .next (s.withMod (
      let y := putSeq z.1 { z.2 with state := .unparking, wasLost := decide (q.state = .lost) }
      unparkNext (writeTables (poolCheck (updPart (runningCmd m r c) p (fun w => { y with
        reserved := y.reserved ++ [(q.handle, storedLeaves z.2)], pairs := w.pairs })) p) p) p q.handle))))
  ∧ (∀ (r : RingRef) (e : SqEntry) (h : HostSide) (s : State) (m : Mod) (c : Cmd) (p : Nat) (x : Part) (q : Seq) (pl : Plan),
    Taken r e h 0x0B s m c → OnSeq m r p x q c → entryClean e true true false [(0, 1)] = true →
    (x.inStep = false ∨ stepStopped x = true) → (takesSteps q = true ∨ q.state = .parked) → x.plan = some pl →
    recordSize (seqPages x q) ≤ e.len0.toNat →
    (let t : Snap := { ring := r, cid := e.cid, seq := q, code := seqCode q.state, time := m.time,
                       copies := (List.range (seqPages x q)).map (copyOf x q), held := [] }
     (bit e.args 0 = false ∨ q.storePages ≠ 0 ∨ t.copies.any (fun c => c.isNone) = false) →
    exec (.seqSnapshot r e h) s = .next (s.withMod (
      if bit e.args 0 then snapNext (updPart (runningCmd m r c) p (fun y => { y with snaps := y.snaps ++ [t] })) p t
      else finishSnap m pl t 0))))

/-- A SEQ_FORK child takes the parent's generator counter, and the seed that SEED_MODE selects. While no step runs, a
SEQ_FORK that passes its checks enters a child whose sampler is the parent's, its generator counter among it, with the
seed of the parent, SEED, or SEED XOR the parent's seed for SEED_MODE 0, 1, 2, and completes with the child's handle.
Any other SEED_MODE, and a SEED other than 0 in mode 0, complete with BAD_DESCRIPTOR.
(10_priorities_adapters_sampling.md R347) -/
def Obligations.ForkSeeds : Prop :=
  (∀ (r : RingRef) (e : SqEntry) (h : HostSide) (s : State) (m : Mod) (c : Cmd) (p : Nat) (x : Part) (q : Seq) (g : Part × BitVec 32),
    Taken r e h 0x08 s m c → OnSeq m r p x q c → planStopped x = false →
    entryClean e true false false [(0, 8), (64, 64), (128, 64), (192, 32)] = true → argN e 0 1 ≤ 2 →
    (argN e 0 1 = 0 → argN e 8 8 = 0) → areaOk m x (argN e 16 8) (argN e 24 4) = true → x.inStep = false →
    (takesSteps q = true ∨ q.state = .parked) →
    (let seed := if argN e 0 1 = 0 then sSeed q.samp.block else if argN e 0 1 = 1 then argN e 8 8
       else argN e 8 8 ^^^ sSeed q.samp.block
     enterShared x (handleParity q.handle) { q with
       state := if q.state = .parked then .parked else .opened, pending := [], hold := false, holdTarget := false,
       storeBase := argN e 16 8, storePages := argN e 24 4, leafTables := [], leaves := q.leaves.take (seqPages x q),
       pausedBefore := false, written := false, tableReady := true,
       samp := { q.samp with block := putFld q.samp.block 0 64 seed } } = some g →
     exec (.seqFork r e h) s = .next (s.withMod (completeOpen (updPart m p (fun _ => g.1)) r c g.2 0))
     ∧ (∃ child ∈ g.1.seqs, child.handle = g.2 ∧ child.samp.counter = q.samp.counter ∧ sSeed child.samp.block = seed)))
  ∧ (∀ (r : RingRef) (e : SqEntry) (h : HostSide) (s : State) (m : Mod) (c : Cmd) ,
    Taken r e h 0x08 s m c → (2 < argN e 0 1 ∨ argN e 0 1 = 0 ∧ argN e 8 8 ≠ 0) →
    exec (.seqFork r e h) s = .next (s.withMod (completeQ m r c .badDescriptor)))

/-- SEQ_TRUNCATE cuts the tail of a sequence or drops pages. While no step runs, SEQ_TRUNCATE of an OPEN, PAUSED or
PARKED sequence cuts it to N positions, or drops pages A to B-1, and completes with the new length.
(08_sequences_and_kv_cache.md R274; 09_host_rings_and_commands.md R302, R303) -/
def Obligations.SequenceTruncate : Prop :=
  (∀ (r : RingRef) (e : SqEntry) (h : HostSide) (s : State) (m : Mod) (c : Cmd) (p : Nat) (x : Part) (q : Seq),
    Taken r e h 0x09 s m c → OnSeq m r p x q c → planStopped x = false →
    entryClean e true false false [(0, 8), (8, 1), (32, 32), (64, 32), (96, 32)] = true → x.inStep = false →
    (q.state = .opened ∨ q.state = .paused ∨ q.state = .parked) → argN e 0 1 = 0 → bit e.args 8 = false →
    argN e 8 4 = 0 → argN e 12 4 = 0 → argN e 4 4 ≤ q.length →
    exec (.seqTruncate r e h) s = .next (s.withMod (
      completeSeq (writeTables (updPart m p (fun y => truncTail y q.handle (argN e 4 4))) p) r c { q with length := argN e 4 4 } .ok)))
  ∧ (∀ (r : RingRef) (e : SqEntry) (h : HostSide) (s : State) (m : Mod) (c : Cmd) (p : Nat) (x : Part) (q : Seq),
    Taken r e h 0x09 s m c → OnSeq m r p x q c → planStopped x = false →
    entryClean e true false false [(0, 8), (8, 1), (32, 32), (64, 32), (96, 32)] = true → x.inStep = false →
    (q.state = .opened ∨ q.state = .paused ∨ q.state = .parked) → argN e 0 1 = 1 → argN e 4 4 = 0 →
    argN e 8 4 ≤ argN e 12 4 → (bit e.args 8 = true → argN e 8 4 = 0 ∧ q.posOffset + 256 * argN e 12 4 < 2 ^ 31) →
    256 * argN e 12 4 ≤ q.length →
    exec (.seqTruncate r e h) s = .next (s.withMod (
      completeSeq (writeTables (updPart m p (fun y => truncDrop y q.handle (argN e 8 4) (argN e 12 4) (bit e.args 8))) p) r c
        { q with length := q.length - 256 * (argN e 12 4 - argN e 8 4) } .ok)))

/-- A store acknowledges, a record arrives, a masked walk is reported, the epoch ticks. When the store accepts the
oldest journal record, its page has a current copy unless it changed and loses the reference. A record read that fails
or does not verify is asked for again at most twice; one that verifies and fits fills the page it was read for. The oldest
report of a masked walk masks its member, posts 0x0501, drops the page and loses the sequence. Without a step the epoch advances. (08_sequences_and_kv_cache.md R263, R271, R275, R276, R277,
R278) -/
def Obligations.StoresWalksEpoch : Prop :=
  (∀ (p : PartId) (bad : Bool) (s : State) (x : Part) (w : StoreWrite) (rest : List StoreWrite),
    partOf? s.mod p.val = some x → s.mod.requests.any (fun q => q.part = p.val && q.write && q.cls = 2) = false →
    x.storeWrites = w :: rest → w.purpose = 1 →
    exec (.storeWriteAck p bad) s = .next (s.withMod (
      shutWork (updPart s.mod p.val (fun y => dropRef (updPage { y with storeWrites := rest } w.slotPage (fun g =>
        if !bad && !w.stale && (g.state == .filling || g.state == .full) then
          { g with copy := some { location := w.location, slot := w.slot, crc := w.crc, positions := w.positions } }
        else g)) w.slotPage)))))
  ∧ (∀ (p : PartId) (bs : List Byte) (s : State) (x : Part) (pl : Plan) (t : StoreRead) (rest : List StoreRead) (f : Packed)
      (r : RingRef) (c : Cmd),
    partOf? s.mod p.val = some x → s.mod.requests.any (fun q => q.part = p.val && !q.write && q.cls = 2) = false →
    x.storeReads = t :: rest → x.plan = some pl → recordVerifies pl bs = true → recordFits pl t.copy bs = true →
    packedOf pl.cacheFormat = some f → runningOf p.val x 7 t.handle = some (r, c) →
    exec (.storeReadData p false bs) s = .next (s.withMod (
      let a := allocPage { x with
        storeReads := rest, reserved := x.reserved.map (fun r => if r.1 = t.handle then (r.1, r.2 - 1) else r) } t.handle
      let z := updPage a.1 a.2 (fun g => { g with
        positions := t.copy.positions, copy := some t.copy, state := if t.copy.positions = 256 then .full else .filling })
      let m := fillPage (updPart s.mod p.val (fun _ => pSeq z t.handle (fun q => setLeaf q t.page (.resident a.2)))) pl f a.2 bs
      storeWork (updCmd m r c.entry.cid (fun d => { d with done := d.done + 1 })) p.val)))
  ∧ (∀ (p : PartId) (failed : Bool) (bs : List Byte) (s : State) (x : Part) (pl : Plan) (t : StoreRead) (rest : List StoreRead),
    partOf? s.mod p.val = some x → s.mod.requests.any (fun q => q.part = p.val && !q.write && q.cls = 2) = false →
    x.storeReads = t :: rest → x.plan = some pl → (failed = true ∨ recordVerifies pl bs = false) →
    (t.tries < 2 → exec (.storeReadData p failed bs) s = .next (s.withMod (
      askRecord (updPart s.mod p.val (fun y => { y with storeReads := { t with tries := t.tries + 1 } :: rest }))
        p.val x pl t.copy)))
    ∧ (2 ≤ t.tries → exec (.storeReadData p failed bs) s = .next (s.withMod (
      let m := updPart s.mod p.val (fun y => { y with storeReads := rest })
      storeWork (unparkLost (post m 0x0503 (some p.val) (kvPayload m t.handle.toNat t.page p.val 0 0xFFFF 0))
        p.val x t.handle t.page) p.val))))
  ∧ (∀ (p : PartId) (s : State) (x : Part) (q : Seq) (h : BitVec 32) (page reason site : Nat)
      (rest : List (BitVec 32 × Nat × Nat × Nat)),
    partOf? s.mod p.val = some x → x.maskReports = (h, page, reason, site) :: rest → seqOf? x h = some q → q.state ≠ .lost →
    exec (.kvMaskReport p) s = .next (s.withMod (
      let m := updPart s.mod p.val (fun y => { y with
        maskReports := rest, batch := y.batch.map (fun b => if b.handle = h then { b with masked := true } else b) })
      let posted := post m 0x0501 (some p.val) (kvPayload m h.toNat page p.val reason site 0)
      let masked := updPart posted p.val (fun x => match residentPage q page with
        | some g => dropRef (putSeq x (setLeaf q page .lost)) g
        | none => putSeq x (setLeaf q page .lost))
      writeTables (loseSeq masked p.val site h) p.val)))
  ∧ (∀ (p : PartId) (s : State) (x : Part), partOf? s.mod p.val = some x → x.inStep = false → x.plan.isSome = true →
    exec (.epochTick p) s = .next (s.withMod (poolCheck (updPart s.mod p.val (advanceEpoch s.mod.time)) p.val)))

/-- ADAPTER_LOAD places a new version, ADAPTER_RETIRE retires one. An ADAPTER_LOAD of a sound image, of a version not
loaded, with room on every core, places its blocks, which service traffic writes; it completes at a step boundary. An ADAPTER_RETIRE marks its
version retiring and completes DEFERRED while sequences still refer to it; versions settle at the boundary.
(10_priorities_adapters_sampling.md R329, R332, R333, R336) -/
def Obligations.AdapterCommands : Prop :=
  (∀ (r : RingRef) (e : SqEntry) (h : HostSide) (s : State) (m : Mod) (c : Cmd) (p : Nat) (x : Part) (pl : Plan),
    Taken r e h 0x10 s m c → OnPart m r p x → x.plan = some pl → planStopped x = false →
    entryClean e false true false [(0, 16), (16, 16)] = true → argN e 0 2 < pl.maxAdapters →
    rejected (hostOf m (ringHost m r)) e.addr0.toNat e.len0.toNat = false →
    (let bs := hostRead (hostOf m (ringHost m r)) e.addr0.toNat e.len0.toNat
     imageOk pl bs = true → x.adapters.any (fun a => a.id = argN e 0 2 && a.version = argN e 2 2) = false →
     (x.adapters.filter (fun a => a.id = argN e 0 2)).length < 8 → adapterRoom x pl (imageBlocks bs) = true →
    exec (.adapterLoad r e h) s = .next (s.withMod (
      let a : Adapter := { id := argN e 0 2, version := argN e 2 2, retiring := false, loading := true,
                           addr := e.addr0.toNat, len := e.len0.toNat, blocks := imageBlocks bs,
                           places := adapterPlaces x pl (imageBlocks bs), written := false, cmd := some (r, e.cid) }
      let m1 := writeAdapters (updPart (runningCmd m r c) p (fun y => { y with adapters := y.adapters ++ [a] })) p
      if x.inStep then m1 else adapterBoundary m1 p))))
  ∧ (∀ (r : RingRef) (e : SqEntry) (h : HostSide) (s : State) (m : Mod) (c : Cmd) (p : Nat) (x : Part) (pl : Plan) (a : Adapter),
    Taken r e h 0x11 s m c → OnPart m r p x → x.plan = some pl → planStopped x = false →
    entryClean e false false false [(0, 16), (16, 16)] = true → argN e 0 2 < pl.maxAdapters →
    x.adapters.find? (fun a => a.id = argN e 0 2 && a.version = argN e 2 2 && !a.retiring && !a.loading) = some a →
    exec (.adapterRetire r e h) s = .next (s.withMod (
      let m1 := updPart (runningCmd m r c) p (fun y => { y with adapters := y.adapters.map (fun d =>
        if d.id = argN e 0 2 && d.version = argN e 2 2 then { d with retiring := true, cmd := some (r, e.cid) } else d) })
      let m2 := if versionRefs x a = 0 then m1
        else completeS (updCmd m1 r e.cid (fun d => { d with done := 1 })) r e.cid .deferred
      if x.inStep then m2 else settleAdapters m2 p)))

/-- MODE_SET stages its mode, MODULE_LIMITS its caps, QUERY answers. A MODE_SET of the mode in force completes with
the beat count; one of another mode that the configuration and the caps permit is staged at the partition's regions.
MODULE_LIMITS whose caps are in range and fit every partition's mode begins to stage them. A QUERY of a selector that
exists writes the records its count and buffer allow. (12_partitions_modes_protection.md R389, R391, R395;
09_host_rings_and_commands.md R305, R306) -/
def Obligations.ModeLimitsQuery : Prop :=
  (∀ (r : RingRef) (e : SqEntry) (h : HostSide) (s : State) (m : Mod) (c : Cmd) (p : Nat) (x : Part),
    Taken r e h 0x18 s m c → OnPart m r p x → entryClean e false false false [(0, 8)] = true → modeWaits m p x c = false →
    modeCode x.mode = argN e 0 1 →
    exec (.modeSet r e h) s = .next (s.withMod (complete m r { compl e.cid .ok with result1 := x.beatCount })))
  ∧ (∀ (r : RingRef) (e : SqEntry) (h : HostSide) (s : State) (m : Mod) (c : Cmd) (p : Nat) (x : Part),
    Taken r e h 0x18 s m c → OnPart m r p x → entryClean e false false false [(0, 8)] = true → modeWaits m p x c = false → argN e 0 1 ≤ 3 →
    modeCode x.mode ≠ argN e 0 1 → bit (configModes x.config) (argN e 0 1) = true → bit x.modesCap (argN e 0 1) = true →
    x.repair = none →
    exec (.modeSet r e h) s = .next (s.withMod (
      stageWork (stageChange (runningCmd m r c) p (.mode (modeOf (argN e 0 1))) (some (r, e.cid))) p)))
  ∧ (∀ (hs : HostId) (e : SqEntry) (h : HostSide) (s : State) (m : Mod) (c : Cmd),
    Taken (.admin hs) e h 0x44 s m c → entryClean e false true false [(0, 4), (16, 16), (32, 16)] = true →
    capsOk (argN e 2 2) (argN e 4 2) = true → 256 ≤ e.len0.toNat → m.limits = none →
    modesFit m (BitVec.ofNat 4 (argN e 0 1)) = true →
    exec (.moduleLimits (.admin hs) e h) s = .next (s.withMod (
      beginLimits (runningCmd m (.admin hs) c) (.admin hs) e.cid e.addr0.toNat (BitVec.ofNat 4 (argN e 0 1)) (argN e 2 2)
        (argN e 4 2) false)))
  ∧ (∀ (r : RingRef) (e : SqEntry) (h : HostSide) (s : State) (m : Mod) (c : Cmd) (p : Nat) (x : Part) (rs : List (List Byte)),
    Taken r e h 0x19 s m c → OnPart m r p x → entryClean e false true false [(0, 8), (32, 32), (64, 32)] = true →
    queryRecords m p x (argN e 0 1) (argN e 4 4) = some rs →
    exec (.query r e h) s = .next (s.withMod (answerQuery m r c rs)))
  ∧ (∀ (hs : HostId) (e : SqEntry) (h : HostSide) (s : State) (m : Mod) (c : Cmd) (x : Part) (rs : List (List Byte)),
    Taken (.admin hs) e h 0x19 s m c → entryClean e false true false [(0, 8), (32, 32), (64, 32), (96, 4)] = true →
    (argN e 0 1 = 1 ∨ argN e 0 1 = 2 ∨ argN e 0 1 = 6) → partOf? m (argN e 12 1) = some x →
    queryRecords m (argN e 12 1) x (argN e 0 1) (argN e 4 4) = some rs →
    exec (.query (.admin hs) e h) s = .next (s.withMod (answerQuery m (.admin hs) c rs)))

/-- FRAME_CONTROL starts, holds and resumes; ABORT stops its target. START of frame 0 of an idle partition with a plan
sets it running. HOLD adds its frame to the holds and RESUME takes it away; where the partition can act now the
command completes with the beat count, else it waits. An ABORT whose target can be stopped stops it and completes; one
whose target stops at the boundary closes the gates and waits; one that cannot stop it answers that the outcome is
fixed. (06_fabric_beats_frames.md R206, R209, R210, R211; 09_host_rings_and_commands.md R310, R311, R312) -/
def Obligations.FramesAndAbort : Prop :=
  (∀ (r : RingRef) (e : SqEntry) (h : HostSide) (s : State) (m : Mod) (c : Cmd) (p : Nat) (x : Part),
    Taken r e h 0x1A s m c → OnPart m r p x → argN e 0 1 = 0 → entryClean e false false false [(0, 8), (16, 16)] = true → argN e 2 2 < frameCount x → argN e 2 2 = 0 →
    x.frame0 = .idle → x.plan.isSome = true →
    exec (.frameStart r e h) s = .next (s.withMod (
      kick (completeBeat (settleHold (markCores (updPart m p (fun y => { y with frame0 := .run })) p .run) p) r c p) p)))
  ∧ (∀ (r : RingRef) (e : SqEntry) (h : HostSide) (s : State) (m : Mod) (c : Cmd) (p : Nat) (x : Part),
    Taken r e h 0x1A s m c → OnPart m r p x → argN e 0 1 = 1 → entryClean e false false false [(0, 8), (16, 16)] = true → argN e 2 2 < frameCount x →
    
    exec (.frameHold r e h) s = .next (s.withMod (
      let m1 := settleHold (updPart m p (fun y => { y with
        frameHolds := if y.frameHolds.contains (argN e 2 2) then y.frameHolds else y.frameHolds ++ [argN e 2 2] })) p
      if actsNow m x then completeBeat m1 r c p else waitCmd m1 r c)))
  ∧ (∀ (r : RingRef) (e : SqEntry) (h : HostSide) (s : State) (m : Mod) (c : Cmd) (p : Nat) (x : Part),
    Taken r e h 0x1A s m c → OnPart m r p x → argN e 0 1 = 2 → entryClean e false false false [(0, 8), (16, 16)] = true → argN e 2 2 < frameCount x →
    (x.frame0 = .faulted → x.faultPlan = false ∧ x.faultLink = false) →
    exec (.frameResume r e h) s = .next (s.withMod (
      if actsNow m x then
        kick (completeBeat (settleHold (updPart m p (fun y => clearSummary { y with
          frameHolds := y.frameHolds.filter (fun g => g != argN e 2 2) })) p) r c p) p
      else waitCmd m r c)))
  ∧ (∀ (t : PartId) (k : Fin 64) (e : SqEntry) (h : HostSide) (s : State) (m : Mod) (c d : Cmd) (x : Part),
    Taken (.part t k) e h 0x1F s m c → entryClean e false false false [(0, 6), (16, 16)] = true → partOf? m t.val = some x →
    cmdOf? m (.part t (Fin.ofNat 64 (argN e 0 1))) (BitVec.ofNat 16 (argN e 2 2)) = some d → d.entry.opcode ≠ 0x1F →
    d.phase ≠ .completed →
    (∀ m1, abortTarget m t.val x (.part t (Fin.ofNat 64 (argN e 0 1))) d = .stop m1 → x.repair = none →
      exec (.abort (.part t k) e h) s = .next (s.withMod (kick (completeS m1 (.part t k) e.cid .ok) t.val)))
    ∧ (abortTarget m t.val x (.part t (Fin.ofNat 64 (argN e 0 1))) d = .wait →
      exec (.abort (.part t k) e h) s = .next (s.withMod (
        waitCmd (updCmd (closeGates m t.val) (.part t (Fin.ofNat 64 (argN e 0 1))) (BitVec.ofNat 16 (argN e 2 2))
          (fun d => { d with abortBy := some (.part t k, e.cid) })) (.part t k) c)))
    ∧ (abortTarget m t.val x (.part t (Fin.ofNat 64 (argN e 0 1))) d = .fixed →
      exec (.abort (.part t k) e h) s = .next (s.withMod (completeS m (.part t k) e.cid .alreadyComplete))))

/-- PLAN_LOAD places a plan that passes every check, weight chunks fill it, PLAN_UNLOAD takes it away. A PLAN_LOAD on
a partition without plan or load whose image passes every check begins its load, from host memory or, where WEIGHTS_AT
names one, from a partner that is a store; one that fails a check, or names no store, is refused with its record; with
a plan or a load in progress it is not permitted. The head of the image starts the chunks. A chunk with the right
length and CRC is written to its segment, what stood in its slice is remembered, and the next is awaited; a bad one is
asked for again at most twice, then the load fails with reason 0x1A. PLAN_UNLOAD aborts a load in progress; it takes
the plan of a partition that can stop now away and completes, and else closes the gates and waits.
(07_plans_and_compiler_contract.md R241, R242, R243, R245; 06_fabric_beats_frames.md R206) -/
def Obligations.PlanCommands : Prop :=
  (∀ (r : RingRef) (e : SqEntry) (h : HostSide) (s : State) (m : Mod) (c : Cmd) (p : Nat) (x : Part),
    Taken r e h 0x20 s m c → OnPart m r p x →
    entryClean e false true true [(0, 64), (64, 64), (128, 64), (192, 8), (200, 8)] = true → argN e 24 1 ≤ 64 →
    argN e 25 1 ≤ 1 → argN e 16 8 % 8 = 0 → (argN e 25 1 = 0 → argN e 0 8 % 8 = 0) → 64 ≤ e.len1.toNat →
    ((x.plan.isSome = true ∨ x.load.isSome = true) →
      exec (.planLoad r e h) s = .next (s.withMod (completeS m r e.cid .notPermitted)))
    ∧ (x.plan = none → x.load = none → planBuffers (hostOf m (ringHost m r)) e = true →
    (let img := hostRead (hostOf m (ringHost m r)) e.addr0.toNat e.len0.toNat
     let vals := (List.range (argN e 24 1)).map (fun i =>
       leNat (hostRead (hostOf m (ringHost m r)) (argN e 16 8 + 8 * i) 8))
     let store : Bool := ((remoteNode m (argN e 0 8)).bind (partnerOf m)).any (fun q => q.role == 2)
     (∀ why, planChecks s.fuses m p x img e.len0.toNat vals = .error why →
       exec (.planLoad r e h) s = .next (s.withMod (refuseLoad m p r e.cid e.addr1.toNat why)))
     ∧ (planChecks s.fuses m p x img e.len0.toNat vals = .ok () → argN e 25 1 = 1 → store = false →
       exec (.planLoad r e h) s = .next (s.withMod (refuseLoad m p r e.cid e.addr1.toNat (refuse 0x15 0xFFFFFFFF 0 0))))
     ∧ (planChecks s.fuses m p x img e.len0.toNat vals = .ok () → (argN e 25 1 = 0 ∨ store = true) →
       exec (.planLoad r e h) s = .next (s.withMod (
         beginLoad m r c p x (buildPlan s.fuses m p x img vals (argN e 25 1) (argN e 0 8) (argN e 8 8))
           (secIdx img 0x0033 0xFFFFFFFF)))))))
  ∧ (∀ (p : PartId) (bs : List Byte) (failed : Bool) (s : State) (x : Part) (l : Load),
    partOf? s.mod p.val = some x → x.load = some l → l.headerDue = true →
    (l.plan.source = 1 → s.mod.requests.any (fun q => q.part = p.val && q.cls = 2 && !q.write) = false) →
    exec (.weightChunkArrive p bs failed) s = .next (s.withMod (
      if failed then failLoad s.mod p.val (refuse 0x19 0 0 0) else takeHead s.mod p.val bs)))
  ∧ (∀ (p : PartId) (bs : List Byte) (failed : Bool) (s : State) (x : Part) (l : Load) (k : Chunk),
    partOf? s.mod p.val = some x → x.load = some l → l.headerDue = false → l.plan.chunks[l.next]? = some k →
    (l.plan.source = 1 → s.mod.requests.any (fun q => q.part = p.val && q.cls = 2 && !q.write) = false) →
    (∀ site vc, failed = false → bs.length = 72 * k.lines → crc32c bs = k.crc → l.plan.sites[k.vcore]? = some site →
      l.plan.vcores[k.vcore]? = some vc → exec (.weightChunkArrive p bs failed) s = .next (s.withMod (
        awaitChunk (writeLines (updPart s.mod p.val (fun y => { y with load := some (saveSlice s.mod site l) })) site
          (vc.vsegBase.getD k.vseg 0 + k.voff) (bytesLines bs) []) p.val (l.next + 1))))
    ∧ ((failed = true ∨ bs.length ≠ 72 * k.lines ∨ crc32c bs ≠ k.crc) → l.tries < 2 →
      exec (.weightChunkArrive p bs failed) s = .next (s.withMod (
        askBytes (updPart s.mod p.val (fun y => { y with load := some { l with tries := l.tries + 1 } })) p.val x
          l.plan.source (l.plan.weightAddr + k.offset) (72 * k.lines))))
    ∧ ((failed = true ∨ bs.length ≠ 72 * k.lines ∨ crc32c bs ≠ k.crc) → 2 ≤ l.tries →
      exec (.weightChunkArrive p bs failed) s = .next (s.withMod (
        failLoad s.mod p.val { refuse 0x1A l.next 0 0 with vcore := k.vcore }))))
  ∧ (∀ (r : RingRef) (e : SqEntry) (h : HostSide) (s : State) (m : Mod) (c : Cmd) (p : Nat) (x : Part),
    Taken r e h 0x21 s m c → OnPart m r p x → entryClean e false false false [] = true →
    (x.load.isSome = true → exec (.planUnload r e h) s = .next (s.withMod (completeS (abortLoad m p) r e.cid .ok)))
    ∧ (x.load = none → x.plan.isSome = true → unloadNow m x = true →
      exec (.planUnload r e h) s = .next (s.withMod (completeS (unloadPlan m p) r e.cid .ok)))
    ∧ (x.load = none → x.plan.isSome = true → unloadNow m x = false →
      exec (.planUnload r e h) s = .next (s.withMod (waitCmd (setGates m p true) r c)))
    ∧ (x.load = none → x.plan = none →
      exec (.planUnload r e h) s = .next (s.withMod (completeS m r e.cid .notPermitted))))

/-- Ring pairs: doorbells, fetches, completions and interrupts. Over a link that is up: a tail doorbell of an active
pair that stays on the ring and does not overrun sets the tail; a head doorbell that does not pass the entries written
frees them and forgets the commands consumed; a value off the ring puts the pair into ERROR with cause 3. An active
pair with entries, room for their completions, its link up and Ringmaster alive has its next entry fetched and
decoded. The oldest completion of a pair goes to the completion ring while it has room, with its phase, an ABORT's not
before its target's, and stays in the reserve until it is acknowledged; the vector is raised when the count is reached
or COAL_US is 0. When a completion has waited COAL_US, the vector is raised.
(09_host_rings_and_commands.md R295, R296, R297, R301, R294, R298, R299, R318; 18_address_map_and_setup_registers.md
R500, R508; 09_host_rings_and_commands.md R312, R315) -/
def Obligations.RingService : Prop :=
  ((∀ (r : RingRef) (v : BitVec 16) (s : State), ringLink s.mod r = true → (pairOf (glbClosed s.mod r) r).state = .active →
    (let m := glbClosed s.mod r
     let p := pairOf m r
     (v.toNat < sqSize p → ringDist (sqSize p) p.sqTail v.toNat ≤ sqSize p - 1 - ringDist (sqSize p) p.sqHead p.sqTail →
        exec (.sqTailDoorbell r v) s = .next (s.withMod (updPair m r (fun q => { q with sqTail := v.toNat }))))
     ∧ (sqSize p ≤ v.toNat → exec (.sqTailDoorbell r v) s = .next (s.withMod (pairError m r 3)))))
  ∧ (∀ (r : RingRef) (v : BitVec 16) (s : State), ringLink s.mod r = true → (pairOf (glbClosed s.mod r) r).state = .active →
    (let m := glbClosed s.mod r
     let p := pairOf m r
     let d := ringDist (cqSize p) p.cqHead v.toNat
     (v.toNat < cqSize p → d ≤ ringDist (cqSize p) p.cqHead p.cqTail →
        exec (.cqHeadDoorbell r v) s = .next (s.withMod (updPair m r (fun q =>
          let q1 := { q with cqHead := v.toNat, posted := q.posted.drop d, cqFull := q.cqFull && d == 0 }
          { q1 with cmds := q1.cmds.filter (stillKnown q1) }))))
     ∧ (cqSize p ≤ v.toNat → exec (.cqHeadDoorbell r v) s = .next (s.withMod (pairError m r 3))))))
  ∧ ((∀ (r : RingRef) (h : HostSide) (s : State),
    (let m := applySide s.mod (ringHost s.mod r) h
     let p := pairOf m r
     p.state = .active → rmAlive m = true → p.sqHead ≠ p.sqTail → ringLink m r = true → outstanding p < cqSize p - 1 →
     rejected (hostOf m (ringHost m r)) (p.sqBase.toNat + 64 * p.sqHead) 64 = false →
     exec (.sqEntryFetch r h) s = .next (s.withMod (
       decodeFetched (updPair m r (fun q => { q with sqHead := (q.sqHead + 1) % sqSize q })) r
         (parseEntry (hostRead (hostOf m (ringHost m r)) (p.sqBase.toNat + 64 * p.sqHead) 64))))))
  ∧ (∀ (r : RingRef) (h : HostSide) (s : State) (c : Completion) (rest : List Completion),
    (let m := applySide s.mod (ringHost s.mod r) h
     let p := pairOf m r
     let tail := (p.cqTail + 1) % cqSize p
     let fire : Bool := max 1 p.coalCount ≤ p.unannounced + 1 || p.coalUs == 0
     p.outbox = c :: rest → p.state = .active → pairHeld m r = false → ringLink m r = true → targetUnwritten m r c = false →
     tail ≠ p.cqHead →
     rejected (hostOf m (ringHost m r)) (p.cqBase.toNat + 32 * p.cqTail) 32 = false →
     exec (.completionPost r h) s = .next (s.withMod (
       let m1 := updHost m (ringHost m r) (fun x => hostWrite x (p.cqBase.toNat + 32 * p.cqTail) (complBytes p (pairNo r) c))
       let m2 := updPair m1 r (fun q => { q with
         outbox := rest, cqTail := tail, phase := if tail = 0 then !q.phase else q.phase, cqFull := false,
         posted := q.posted ++ [c.cid], unannounced := if fire then 0 else p.unannounced + 1,
         oldest := if q.unannounced = 0 then m.time else q.oldest })
       let m3 := noteOutput m2 r [] [c]
       if fire then raiseVector m3 r p.vector else m3))))
  ∧ (∀ (r : RingRef) (s : State), 0 < (pairOf s.mod r).unannounced →
    exec (.irqCoalesceTimeout r) s = .next (s.withMod (
      raiseVector (updPair s.mod r (fun q => { q with unannounced := 0 })) r (pairOf s.mod r).vector))))

/-- Sessions and ring pairs are opened and closed. Over a link that is up, of a partition of that host site: ATTACH of
an IDLE session with a cookie makes it ACTIVE, of a LOST one with the same cookie REATTACH, and otherwise marks the
cookie bad; DETACH of an ACTIVE one with every pair disabled makes it IDLE; RESUME of a REATTACH session handles each
pair, ends the host hold, makes it ACTIVE and posts 0x0602. Over a link that is up, enabling a disabled pair that may
be enabled puts it into service from index 0; sizes or units out of range give ERROR with cause 5, more than 1,024
reserve units cause 4. Disabling an enabled pair drops its output, and the commands of a partition's pair stop as
under ABORT. (09_host_rings_and_commands.md R293, R316, R294, R295, R319; 18_address_map_and_setup_registers.md R500,
R508) -/
def Obligations.RingAndSessionControl : Prop :=
  ((∀ (h : HostId) (p : PartId) (s : State) (x : Part), (hostOf s.mod h.val).linkUp = true → partOf? s.mod p.val = some x →
    partHost x = h.val →
    (x.session = .idle → exec (.attach h p) s = .next (s.withMod (updPart s.mod p.val (fun y =>
      if x.cookieReg = 0 then { y with cookieBad := true }
      else { y with session := .active, cookie := y.cookieReg, cookieBad := false }))))
    ∧ (x.session = .lost → exec (.attach h p) s = .next (s.withMod (updPart s.mod p.val (fun y =>
      if x.cookieReg = x.cookie then { y with session := .reattach, cookieBad := false }
      else { y with cookieBad := true }))))
    ∧ (x.session = .active → x.pairs.all (fun q => !q.2.enable) = true →
      exec (.detach h p) s = .next (s.withMod (updPart s.mod p.val (fun y => { y with session := .idle, cookie := 0 })))))
  ∧ (∀ (h : HostId) (p : PartId) (side : HostSide) (s : State) (x : Part), (hostOf s.mod h.val).linkUp = true →
    partOf? (applySide s.mod h.val side) p.val = some x → partHost x = h.val → x.session = .reattach →
    exec (.resume h p side) s = .next (s.withMod (
      let m1 := forAll (updPart (applySide s.mod h.val side) p.val (fun y => { y with holdHost := false }))
        (x.pairs.map Prod.fst) (resumePair p.val)
      let m2 := settleHold (updPart m1 p.val (fun y => { y with session := .active })) p.val
      kick (post m2 0x0602 (some p.val) (lossPayload m2 h.val 0 [p.val] (heldBytes x) (abortedAt x))) p.val))))
  ∧ ((∀ (r : RingRef) (s : State), ringLink s.mod r = true →
    (let m := glbClosed s.mod r
     let p := pairOf m r
     let ok : Bool := 6 ≤ p.sqLog2 && p.sqLog2 ≤ 16 && 6 ≤ p.cqLog2 && p.cqLog2 ≤ 16 && 1 ≤ p.units && p.units ≤ 16
     p.enable = false → mayEnable m r = true →
     exec (.rpEnable r) s = .next (s.withMod (
       if !ok then pairError (updPair m r (fun q => { q with enable := true })) r 5
       else if 1024 < unitsUsed m (ringHost m r) r + p.units then pairError (updPair m r (fun q => { q with enable := true })) r 4
       else updPair m r startPair))))
  ∧ (∀ (r : RingRef) (s : State), ringLink s.mod r = true → (pairOf (glbClosed s.mod r) r).enable = true →
    exec (.rpDisable r) s = .next (s.withMod (
      let m := glbClosed s.mod r
      let left := liveCmds (pairOf m r)
      let m1 := updPair m r (fun q => { q with
        enable := false, outbox := [], heldWrites := [], posted := [], cqFull := false, cmds := left,
        sentWrites := [], sentCompls := [],
        state := if left.isEmpty then .off else q.state, reserve := if left.isEmpty then 0 else q.reserve })
      match r with
      | .admin _ => m1
      | .part n _ => left.foldl (fun m c => stopSoon m n.val r c) m1))))

/-- Host links fall, are reset and come back; the class table takes an entry. A host link that falls resets the banked
registers of its site and is a host loss, cause 1 or 2, for the partitions of that site with a session; a
function-level reset is one of cause 3. UCIe events count, repair, disable and fall back. A link that comes up has its
modules and rate. An entry of the class table takes effect when its FTL_US is written. (09_host_rings_and_commands.md
R287, R288, R313, R314, R315, R317; 10_priorities_adapters_sampling.md R321; 12_partitions_modes_protection.md R388) -/
def Obligations.HostLinks : Prop :=
  (∀ (h : HostId) (hot : Bool) (s : State), (hostOf s.mod h.val).linkUp = true →
    exec (.hostLinkDown h hot) s = .next (s.withMod (
      let m := hostFlag (updHost (bankReset h s.mod) h.val (fun y => { y with
        linkUp := false, modulesUp := if hot then y.modulesUp else 0, rate := if hot then y.rate else 0 })) h.val 0
      hostLoss m h.val (if hot then 2 else 1) (partIds m))))
  ∧ (∀ (h : HostId) (fn : Fin 17) (s : State),
    (fn.val = 0 → exec (.functionLevelReset h fn) s = .next (s.withMod (
      hostLoss (bankReset h (hostFlag s.mod h.val 5)) h.val 3 [])))
    ∧ (∀ x, fn.val ≠ 0 → partOf? (hostFlag s.mod h.val 5) (fn.val - 1) = some x → partHost x = h.val →
      exec (.functionLevelReset h fn) s = .next (s.withMod (hostLoss (hostFlag s.mod h.val 5) h.val 3 [fn.val - 1]))))
  ∧ (∀ (h : HostId) (k : Fin 4) (n : Nat) (s : State),
    exec (.ucieRetrain h .retrain) s = .next (s.withMod (
      updHost s.mod h.val (fun y => { y with retrains := sat32 (y.retrains + 1) })))
    ∧ exec (.ucieRetrain h (.replay n)) s = .next (s.withMod (
      updHost s.mod h.val (fun y => { y with replays := sat32 (y.replays + n) })))
    ∧ exec (.ucieRetrain h (.laneRepair k)) s = .next (s.withMod (
      hostFlag (updHost s.mod h.val (fun y => { y with repaired := lupd y.repaired k.val (fun n => min 15 (n + 1)) })) h.val 2))
    ∧ exec (.ucieRetrain h .rateFallback) s = .next (s.withMod (
      hostFlag (updHost s.mod h.val (fun y => { y with rate := if y.rate = 2 then 1 else y.rate })) h.val 4))
    ∧ exec (.ucieRetrain h (.moduleDisable k)) s = .next (s.withMod (
      let m := hostFlag (updHost s.mod h.val (fun y => { y with
        disabled := setBit y.disabled k.val true, modulesUp := setBit y.modulesUp k.val false })) h.val 3
      if (hostOf m h.val).modulesUp = 0 then doLinkLoss h false m else m)))
  ∧ (∀ (h : HostId) (modules : BitVec 4) (gt32 : Bool) (s : State),
    modules &&& ~~~(hostOf s.mod h.val).disabled ≠ 0 →
    exec (.ucieLinkUp h modules gt32) s = .next (s.withMod (
      hostFlag (updHost s.mod h.val (fun y => { y with
        modulesUp := modules &&& ~~~(hostOf s.mod h.val).disabled, rate := if gt32 then 2 else 1, linkUp := true })) h.val 1)))
  ∧ (∀ (p : PartId) (c : Fin 8) (ftl : BitVec 32) (s : State),
    exec (.classTableWrite p c ftl) s = .next (s.withMod (
      updPart s.mod p.val (fun x => { x with
        classes := lupd x.classes c.val (fun c => { c with itlUs := c.itlNext, ftlUs := ftl.toNat }) }))))

/-- Olix links train, come up, drop lanes, exchange flits and go down. A link training at 200 Gb/s falls to 100. A
link of an enabled group comes UP on the lanes that locked, fresh unless it retrained, and posts 0x0701. A lane that
lost lock, or has more than 16 uncorrectable codewords, is dropped with 0x0703 and what is unacknowledged is replayed.
A damaged flit is counted and negatively acknowledged; of the intact ones the next in order is taken, with those held
that then follow, one up to 1,023 ahead is held, and a repeated one dropped. A link that does not return is DOWN.
(11_olix_links_and_partners.md R351, R353, R354, R355, R356, R357, R358, R375) -/
def Obligations.OlixLinks : Prop :=
  (∀ (g : GroupId) (k : LinkId) (s : State),
    exec (.olixTrainTimeout g k) s = .next (s.withMod (
      updLink s.mod g.val k.val (fun l => if l.state = .training ∧ l.rate = 2 then { l with rate := 1 } else l)))
    ∧ exec (.olixAckTimer g k) s = .next (s.withMod (
      updLink s.mod g.val k.val (fun l => if l.state = .up ∧ 0 < l.unackedRx then sendAck l else l)))
    ∧ ((linkAt s.mod g.val k.val).state = .retrain →
      exec (.olixLinkDown g k) s = .next (s.withMod (dropLink s.mod g.val k.val 1))))
  ∧ (∀ (g : GroupId) (k : LinkId) (lanes : BitVec 16) (s : State),
    (let y := groupOf s.mod g.val
     let l := linkAt s.mod g.val k.val
     let all := linkLanes y.bondInForce k.val
     y.enable = true → y.domainOn = true → k.val < bondLinks y.bondInForce → l.state ≠ .up → lanes &&& all ≠ 0 →
     exec (.olixLinkUp g k lanes) s = .next (s.withMod (
       let m1 := updGroup s.mod g.val (fun z => { z with
         lock := (z.lock &&& ~~~all) ||| (lanes &&& all), dropped := z.dropped &&& ~~~all,
         links := lupd z.links k.val (fun x =>
           if x.state = .retrain then { x with state := .up, mask := lanes &&& all }
           else { x with
             txSeq := 0, rxNext := 0, unackedRx := 0, nakDue := false, replay := [], sent := [], replayTimes := 0,
             credits := [128, 128, 128], freed := [0, 0, 0], units := [], early := [], state := .up, mask := lanes &&& all }) })
       let m2 := if l.rate = 1 then pgFlag (pgFlag m1 g.val 1) g.val 3 else pgFlag m1 g.val 1
       pumpAll (post m2 0x0701 none (linkPayload m2 g.val k.val l.rate 0 0 (linkPartner m2 (linkAt m2 g.val k.val))))))))
  ∧ (∀ (g : GroupId) (lane : Fin 16) (bad : Nat) (s : State),
    (let k := lane.val / lanesPer (groupOf s.mod g.val).bondInForce
     let m1 := updLink s.mod g.val k (fun l => { l with fecUncorr := sat32 (l.fecUncorr + bad) })
     let l := linkAt m1 g.val k
     l.state = .up → bit l.mask lane.val = true → (bad = 0 ∨ 16 < bad) →
     exec (.olixLaneDrop g lane bad) s = .next (s.withMod (
       let m2 := updGroup m1 g.val (fun z => { z with
         lock := if bad = 0 then setBit z.lock lane.val false else z.lock, dropped := setBit z.dropped lane.val true })
       let m3 := updLink m2 g.val k (fun l =>
         let l1 := replayLink { l with mask := setBit l.mask lane.val false }
         if l1.mask = 0 ∧ l1.state = .up then retrainLink l1 else l1)
       post (pgFlag m3 g.val 2) 0x0703 none (linkPayload m3 g.val k 0 lane.val 0 (linkPartner m3 (linkAt m3 g.val k)))))))
  ∧ (∀ (g : GroupId) (k : LinkId) (f : BitVec 1280) (s : State), (linkAt s.mod g.val k.val).state = .up →
    (flitOk f = false → exec (.olixFlitReceive g k f) s = .next (s.withMod (
      updLink s.mod g.val k.val (fun l => sendAck { l with crcErr := sat32 (l.crcErr + 1), nakDue := true }))))
    ∧ (flitOk f = true → bit f 1195 = false →
      (let m1 := updLink s.mod g.val k.val (fun l => takeFlitAck f { l with rx := l.rx + 1 })
       let l := linkAt m1 g.val k.val
       let n := fld f 1170 12
       let ahead := (n + 4096 - l.rxNext) % 4096
       let finish (m : Mod) : Mod := pumpAll (if 64 ≤ (linkAt m g.val k.val).unackedRx then updLink m g.val k.val sendAck else m)
       (ahead = 0 → exec (.olixFlitReceive g k f) s = .next (s.withMod (
          let m2 := takeUnits g.val k.val (fld f 1168 2) 8 (updLink m1 g.val k.val (fun l => { l with
            rxNext := (l.rxNext + 1) % 4096, unackedRx := l.unackedRx + 1,
            credits := (List.range 3).map (fun c => min 128 (l.credits.getD c 0 + fld f (1196 + 8 * c) 8)),
            freed := if fld f 1168 2 < 3 then lupd l.freed (fld f 1168 2) (fun n => n + 1) else l.freed,
            units := l.units ++ (flitUnits f).map (fun u => (fld f 1168 2, u.2)) }))
          finish (drainEarly g.val k.val l.early.length m2))))
       ∧ (0 < ahead → ahead < 1024 → l.early.any (fun e => e.1 = n) = false →
          exec (.olixFlitReceive g k f) s = .next (s.withMod (
            finish (updLink m1 g.val k.val (fun l => { l with early := l.early ++ [(n, f)] })))))
       ∧ (1024 ≤ ahead → exec (.olixFlitReceive g k f) s = .next (s.withMod (finish m1))))))

/-- PG_CTRL enables, disables and retrains a port group. A write of PG_CTRL to a disabled group without an owner sets
its bond mode, rate limit and media; ENABLE written 1 to a disabled group enables it, written 0 to an enabled one
disables it; RETRAIN then retrains its links. (11_olix_links_and_partners.md R351, R353, R375;
15_faults_and_live_service.md R467) -/
def Obligations.OlixGroups : Prop :=
  (∀ (g : GroupId) (v : BitVec 32) (s : State), (groupOf s.mod g.val).enable = false → (groupOf s.mod g.val).owner = none →
    exec (.pgEnable g v) s = .next (s.withMod (
      let m1 := updGroup s.mod g.val (fun z => { z with
        bond := if fld v 0 2 = 3 then z.bond else fld v 0 2, rate100 := bit v 3, media := bit v 4 })
      let m2 := if bit v 2 then enableGroup m1 g.val else m1
      if bit v 5 then retrainGroup m2 g.val else m2)))
  ∧ (∀ (g : GroupId) (v : BitVec 32) (s : State), (groupOf s.mod g.val).enable = true →
    exec (.pgEnable g v) s = .next (s.withMod (
      let m2 := if bit v 2 then s.mod else disableGroup s.mod g.val
      if bit v 5 then retrainGroup m2 g.val else m2)))
  ∧ (∀ (g : GroupId) (s : State), exec (.pgRetrain g) s = .next (s.withMod (retrainGroup s.mod g.val)))

/-- HELLOs are sent and heard, partners time out and are listed. A link that is UP sends the HELLO of the module. A
HELLO heard enters a new module in the table, refreshes one that is known, and frees an entry whose node id changed.
An entry without a HELLO for 4 ms is freed with cause 1. PARTNER_LIST writes the records, or the images of a PRESENT
partner. (11_olix_links_and_partners.md R362, R363, R364, R372, R378) -/
def Obligations.OlixDiscovery : Prop :=
  (∀ (g : GroupId) (k : LinkId) (s : State), (linkAt s.mod g.val k.val).state = .up →
    exec (.helloSend g k) s = .next (s.withMod (
      let l := linkAt s.mod g.val k.val
      let c := fields [(0, 64, s.fuses.moduleId.toNat), (64, 8, s.mod.nodeId), (72, 8, 1), (80, 16, 3), (96, 8, g.val), (104, 8, k.val),
        (112, 8, lanesUsed l)]
      let node := ((linkPartner s.mod l).map (fun q => q.node)).getD 0xFF
      updLink s.mod g.val k.val (fun x => sendFlit x 3
        (mkMessage 6 s.mod.nodeId node 0 0 1 0 :: (List.range 3).map (fun j => BitVec.ofNat 144 (c >>> (144 * j)))) true))))
  ∧ (∀ (g : GroupId) (k : LinkId) (c : HelloContent) (s : State), (linkAt s.mod g.val k.val).state = .up →
    (s.mod.partners.find? (fun q => q.moduleId = fld c 0 64) = none →
      exec (.hello g k c) s = .next (s.withMod (newPartner s.mod g.val k.val c)))
    ∧ (∀ q, s.mod.partners.find? (fun q => q.moduleId = fld c 0 64) = some q → q.node ≠ fld c 64 8 →
      exec (.hello g k c) s = .next (s.withMod (removePartner s.mod q.index 3)))
    ∧ (∀ q, s.mod.partners.find? (fun q => q.moduleId = fld c 0 64) = some q → q.node = fld c 64 8 → q.state = .present →
      exec (.hello g k c) s = .next (s.withMod (
        let t := { q with
          links := setBit q.links (4 * g.val + k.val) true, lastHello := s.mod.time, caps := BitVec.ofNat 16 (fld c 80 16),
          role := fld c 72 8, capacity := fld c 128 64, bandwidth := fld c 192 32, imageGen := fld c 224 32 }
        let m1 := updLink (updPartner s.mod q.index (fun _ => t)) g.val k.val (fun l => { l with partner := some q.index })
        let m2 := if q.imageGen = fld c 224 32 then m1 else readImages m1 t
        releasePartnerHolds (reissueKept m2 t) t))))
  ∧ (∀ (i : RegionId) (s : State), exec (.partnerTimeout i) s = .next (s.withMod (removePartner s.mod i.val 1)))
  ∧ (∀ (hs : HostId) (e : SqEntry) (h : HostSide) (s : State) (m : Mod) (c : Cmd), Taken (.admin hs) e h 0x58 s m c →
    entryClean e false true false [(0, 8), (32, 32)] = true →
    (argN e 0 1 = 0 → exec (.partnerList (.admin hs) e h) s = .next (s.withMod (
      answerRecords m (.admin hs) c 64 ((partnersFrom m (argN e 4 4)).map (partnerRecord m)))))
    ∧ (∀ q, argN e 0 1 = 1 → m.partners.find? (fun q => q.index = argN e 4 4 && q.state = .present) = some q →
      exec (.partnerList (.admin hs) e h) s = .next (s.withMod (
        answerRecords m (.admin hs) c 80 ((List.range 16).map (fun j => leBytes 80 (q.images.getD j 0).toNat))))))

/-- READ and WRITE are served, responses find their requests. An accepted READ or WRITE is served by the aperture it
names, its poisoned lines counted. A READ_DATA for a plan's request goes to the group's injection router on the reply
route; a WRITE_ACK acknowledges the packet of its core; an ERROR for a plan's request is a fault 0x29 of its
partition; each removes its request. A response that answers nothing is dropped and counted.
(11_olix_links_and_partners.md R359, R360, R363, R367, R368, R369, R370, R371, R372) -/
def Obligations.OlixMessages : Prop :=
  (∀ (g : GroupId) (k : LinkId) (hd : Header) (h : HostSide) (s : State) (x : Part),
    (groupOf s.mod g.val).owner.bind (partOf? s.mod) = some x → Heard (applySide s.mod (partHost x) h) g.val k.val hd 1 →
    exec (.read g k hd h) s = .next (s.withMod (serveInbound (applySide s.mod (partHost x) h)
      { group := g.val, link := k.val, cls := 0, header := hd, lines := [] })))
  ∧ (∀ (g : GroupId) (k : LinkId) (hd : Header) (ls : List Line) (h : HostSide) (s : State) (x : Part),
    ls.length = headerLines hd → (groupOf s.mod g.val).owner.bind (partOf? s.mod) = some x →
    Heard (applySide s.mod (partHost x) h) g.val k.val hd 3 →
    exec (.write g k hd ls h) s = .next (s.withMod (serveInbound (countPoison (applySide s.mod (partHost x) h) g.val hd ls)
      { group := g.val, link := k.val, cls := 0, header := hd, lines := ls })))
  ∧ (∀ (g : GroupId) (k : LinkId) (hd : Header) (ls : List Line) (s : State), ls.length = headerLines hd →
    Heard s.mod g.val k.val hd 2 →
    (let m := countPoison s.mod g.val hd ls
     (∀ r a x route, requestOf m g.val hd false = some r → r.site = some a → partOf? m r.part = some x →
       replyRoute { m with requests := m.requests.erase r } x a r.rtag = some route →
       exec (.readData g k hd ls) s = .next (s.withMod (
         injectGrsp { m with requests := m.requests.erase r } (injectSite { m with requests := m.requests.erase r } g.val) r.part
           route r.rtag r.doff ls)))
     ∧ (requestOf m g.val hd false = none → exec (.readData g k hd ls) s = .next (s.withMod (lateResponse m g.val)))))
  ∧ (∀ (g : GroupId) (k : LinkId) (hd : Header) (s : State), Heard s.mod g.val k.val hd 4 →
    (∀ r a, requestOf s.mod g.val hd true = some r → r.site = some a →
       exec (.writeAck g k hd) s = .next (s.withMod { s.mod with
         requests := s.mod.requests.erase r,
         fabric := { s.mod.fabric with acks := s.mod.fabric.acks ++ [{
           src := a, seq := r.rtag, site := injectSite { s.mod with requests := s.mod.requests.erase r } g.val, kind := 3 }] } }))
    ∧ (requestOf s.mod g.val hd true = none → exec (.writeAck g k hd) s = .next (s.withMod (lateResponse s.mod g.val))))
  ∧ (∀ (g : GroupId) (k : LinkId) (hd : Header) (s : State), Heard s.mod g.val k.val hd 5 →
    (∀ r, s.mod.requests.find? (fun r => r.tag = gTag hd && r.group = g.val && !r.kept && r.node = gSrc hd) = some r → r.cls = 0 →
       exec (.error g k hd) s = .next (s.withMod (
         gatewayFault { s.mod with requests := s.mod.requests.erase r } r.part (r.site.getD 0xFFFF) 0x29 (some g.val) k.val (partnerOf s.mod r.node)))))

/-- PARTITION_CREATE, DESTROY, HOLD and RESUME. A PARTITION_CREATE that passes every check of R384 creates the
partition and completes with its number and the head of its configuration digest; one that fails a check completes
with that check's number. DESTROY holds the partition and destroys it where it can stop now; HOLD and RESUME set and
clear the ADMIN hold and complete with the beat count where they can act now. (12_partitions_modes_protection.md R381,
R383, R384, R385, R386, R387; 09_host_rings_and_commands.md R308) -/
def Obligations.PartitionCommands : Prop :=
  (∀ (hs : HostId) (e : SqEntry) (h : HostSide) (s : State) (m : Mod) (c : Cmd), Taken (.admin hs) e h 0x40 s m c →
    argN e 4 4 ≤ 4096 → e.len0.toNat = 128 + 8 * argN e 4 4 → e.addr0.toNat % 8 = 0 →
    rejected (hostOf m hs.val) e.addr0.toNat (128 + 8 * argN e 4 4) = false →
    (let bs := hostRead (hostOf m hs.val) e.addr0.toNat (128 + 8 * argN e 4 4)
     let cfg : BitVec 1024 := BitVec.ofNat 1024 (leNat (bs.take 128))
     let gs := (chunksOf 8 (bs.drop 128)).map (fun b => (BitVec.ofNat 64 (leNat b) : BitVec 64))
     (∀ d st, createFails s.fuses m e cfg (gs.map grantOf) = some (d, st) →
       exec (.partitionCreate (.admin hs) e h) s = .next (s.withMod (
         complete m (.admin hs) { compl e.cid st with detail := d }))) ∧
     (createFails s.fuses m e cfg (gs.map grantOf) = none →
    exec (.partitionCreate (.admin hs) e h) s = .next (s.withMod (
       complete (createPart s.fuses m (argN e 0 1) cfg gs (modeOf (argN e 1 1))) (.admin hs)
         { compl e.cid .ok with
           result0 := argN e 0 1, result1 := fld (sha512 (leBytes 128 cfg.toNat)) 0 64 })))))
  ∧ (∀ (hs : HostId) (e : SqEntry) (h : HostSide) (s : State) (m : Mod) (c : Cmd) (x : Part), Taken (.admin hs) e h 0x41 s m c →
    entryClean e false false false [(0, 4)] = true → partOf? m (argN e 0 1) = some x →
    exec (.partitionDestroy (.admin hs) e h) s = .next (s.withMod (
      let p := argN e 0 1
      let m1 := settleHold (updPart m p (fun y => { y with holdAdmin := true })) p
      if unloadNow m x then completeS (destroyPart m1 p) (.admin hs) e.cid .ok else waitCmd m1 (.admin hs) c)))
  ∧ (∀ (hs : HostId) (e : SqEntry) (h : HostSide) (s : State) (m : Mod) (c : Cmd) (x : Part), Taken (.admin hs) e h 0x42 s m c →
    entryClean e false false false [(0, 4)] = true → partOf? m (argN e 0 1) = some x →
    (x.holdAdmin = false ∨ c.phase = .waiting) →
    exec (.partitionHold (.admin hs) e h) s = .next (s.withMod (
      let p := argN e 0 1
      let m1 := settleHold (updPart m p (fun y => { y with holdAdmin := true })) p
      if actsNow m x then completeBeat m1 (.admin hs) c p else waitCmd m1 (.admin hs) c)))
  ∧ (∀ (hs : HostId) (e : SqEntry) (h : HostSide) (s : State) (m : Mod) (c : Cmd) (x : Part), Taken (.admin hs) e h 0x43 s m c →
    entryClean e false false false [(0, 4)] = true → partOf? m (argN e 0 1) = some x →
    exec (.partitionResume (.admin hs) e h) s = .next (s.withMod (
      let p := argN e 0 1
      if x.holdAdmin = false then completeBeat m (.admin hs) c p
      else if actsNow m x then
        kick (completeBeat (settleHold (updPart m p (fun y => clearSummary { y with holdAdmin := false })) p) (.admin hs) c p) p
      else waitCmd m (.admin hs) c)))

/-- ATTEST reports, regions acknowledge stages, ownership checks are switched. ATTEST writes a report of the module,
of one partition of the site, or the certificates, or names the size needed. A region controller that serves
acknowledges the oldest change staged at it, its voltage raised first; the oldest change without every acknowledgement
is cancelled at the timeout. SEC.OWN_CHECK is taken while ISOLATION_LOCK is unblown and DEBUG_LEVEL at most 1, else
the write does nothing. (12_partitions_modes_protection.md R392, R393, R394, R402, R403, R405) -/
def Obligations.AttestAndChecks : Prop :=
  (∀ (hs : HostId) (e : SqEntry) (h : HostSide) (s : State) (m : Mod) (c : Cmd), Taken (.admin hs) e h 0x54 s m c →
    argN e 0 1 = 0 → entryClean e false true false [(0, 8), (8, 0), (64, 192)] = true →
    exec (.attest (.admin hs) e h) s = .next (s.withMod (
      answerSized m (.admin hs) e (attestReport s.fuses m 0 0xFF (argN e 8 24) m.parts))))
  ∧ (∀ (hs : HostId) (e : SqEntry) (h : HostSide) (s : State) (m : Mod) (c : Cmd), Taken (.admin hs) e h 0x54 s m c →
    argN e 0 1 = 2 → entryClean e false true false [(0, 8), (8, 0), (64, 192)] = true →
    exec (.attest (.admin hs) e h) s = .next (s.withMod (
      answerSized m (.admin hs) e (certBytes m))))
  ∧ (∀ (hs : HostId) (e : SqEntry) (h : HostSide) (s : State) (m : Mod) (c : Cmd) (x : Part), Taken (.admin hs) e h 0x54 s m c →
    argN e 0 1 = 1 → entryClean e false true false [(0, 8), (8, 4), (64, 192)] = true → partOf? m (argN e 1 1) = some x →
    partHost x = hs.val →
    exec (.attest (.admin hs) e h) s = .next (s.withMod (
      answerSized m (.admin hs) e (attestReport s.fuses m 1 (argN e 1 1) (argN e 8 24) [(argN e 1 1, x)]))))
  ∧ (∀ (p : PartId) (r : RegionId) (s : State) (x : Part) (t : Staged), partOf? s.mod p.val = some x →
    (regionAt s.mod r.val).fwRestart = false → (regionAt s.mod r.val).lost = false → (regionAt s.mod r.val).evacuated = false →
    x.staged.find? (fun t => t.waiting.contains r.val) = some t →
    exec (.stageAck p r) s = .next (s.withMod (kick (
      stageWork (updPart (raiseVcore s.mod r.val x t) p.val (fun z => { z with staged := z.staged.map (fun u =>
        if u = t then { u with waiting := u.waiting.filter (fun q => q != r.val) } else u) })) p.val) p.val)))
  ∧ (∀ (p : PartId) (s : State) (x : Part) (t : Staged), partOf? s.mod p.val = some x →
    x.staged.find? (fun t => !t.committed) = some t →
    exec (.stageTimeout p) s = .next (s.withMod (stageWork (cancelStaged s.mod p.val t) p.val)))
  ∧ (∀ (v : BitVec 16) (s : State),
    (s.fuses.isolationLock = false → s.fuses.debugLevel ≤ 1 →
      exec (.ownCheckWrite v) s = .next (s.withMod (setOwnCheck v s.mod)))
    ∧ ((s.fuses.isolationLock = true ∨ 1 < s.fuses.debugLevel) → exec (.ownCheckWrite v) s = .next s))

/-- The unlock sequence opens one fuse command, each operation is refused for its reason or begins, and programming
blows the fuse. 0x5AF0 then 0x0FA5 within 1 ms unlocks. A command without the sequence is refused with REASON 5; with
it, each operation is refused for its reason of R397 or programming begins. FUSE_PROGRAM_DONE blows the fuse of the
operation in progress with its ledger entry, and ISOLATION_LOCK puts every ownership check on.
(12_partitions_modes_protection.md R396, R397, R405; 16_tally_ledger_and_time.md R474) -/
def Obligations.FuseCommands : Prop :=
  (∀ (v : BitVec 32) (s : State),
    (fld v 0 16 = 0x5AF0 → exec (.fuseKey v) s = .next (s.withMod
      { s.mod with sec := { s.mod.sec with firstKey := some s.mod.time, unlocked := false } }))
    ∧ (fld v 0 16 ≠ 0x5AF0 → exec (.fuseKey v) s = .next (s.withMod { s.mod with sec := { s.mod.sec with
        firstKey := none,
        unlocked := decide (fld v 0 16 = 0x0FA5 ∧ s.mod.sec.firstKey.any (fun t => s.mod.time ≤ t + 1000000) = true) } })))
  ∧ (∀ (a : Byte) (s : State) (c : Instr), s.mod.sec.state ≠ 1 → s.mod.sec.unlocked = false →
    c ∈ [Instr.fuseRevokeKey a, .fuseAdvanceRollback a, .fuseRaiseDebugLevel a, .fuseJtagLock a, .fuseIsolationLock a] →
    exec c s = .next (s.withMod { s.mod with sec := { s.mod.sec with unlocked := false, firstKey := none, state := 3, reason := 5 } }))
  ∧ (∀ (a : Byte) (s : State), s.mod.sec.state ≠ 1 → s.mod.sec.unlocked = true →
    (let fz := s.fuses
     let sec := s.mod.sec
     let refuse (n : Nat) : State := s.withMod { s.mod with sec := { sec with unlocked := false, firstKey := none, state := 3, reason := n } }
     let begun (f : FuseOp) : State := s.withMod { s.mod with sec := { sec with
       unlocked := false, firstKey := none, state := 1, reason := 0, busy := some f } }
     (a.toNat ≤ 3 → a.toNat = sec.bootKey → exec (.fuseRevokeKey a) s = .next (refuse 1))
     ∧ (a.toNat ≤ 3 → a.toNat ≠ sec.bootKey → (∀ j, j < 4 → j ≠ a.toNat → bit fz.rootRevoked j = true) →
         exec (.fuseRevokeKey a) s = .next (refuse 2))
     ∧ (a.toNat ≤ 3 → a.toNat ≠ sec.bootKey → (∃ j, j < 4 ∧ j ≠ a.toNat ∧ bit fz.rootRevoked j = false) →
         exec (.fuseRevokeKey a) s = .next (begun (.revoke a.toNat)))
     ∧ ((a.toNat ≤ fz.rollback ∨ sec.fwRollback < a.toNat) → exec (.fuseAdvanceRollback a) s = .next (refuse 3))
     ∧ (fz.rollback < a.toNat → a.toNat ≤ sec.fwRollback →
         exec (.fuseAdvanceRollback a) s = .next (begun (.rollback a.toNat)))
     ∧ (a.toNat ≤ fz.debugLevel → exec (.fuseRaiseDebugLevel a) s = .next (refuse 3))
     ∧ (fz.debugLevel < a.toNat → a.toNat ≤ 2 → exec (.fuseRaiseDebugLevel a) s = .next (begun (.debug a.toNat)))
     ∧ exec (.fuseJtagLock a) s = .next (if fz.jtagLock then refuse 4 else begun .jtag)
     ∧ exec (.fuseIsolationLock a) s = .next (if fz.isolationLock then refuse 4 else begun .isolation)))
  ∧ (∀ (s : State) (f : FuseOp), s.mod.sec.busy = some f →
    exec .fuseProgramDone s = .next { s with
      fuses := blow s.fuses f,
      mod := (let m := { s.mod with sec := { s.mod.sec with state := 2, busy := none } }
              afterBlow f (ledgerAdd m 0 0 0 (payload [(0, 8, (fuseOpCode f).1), (8, 8, (fuseOpCode f).2), timeField m]))) })

/-- A fault is taken by its class, a slice becomes ready, the interrupted step restarts. The oldest fault report is
taken while Ringmaster serves: it waits behind a repair, else it is handled by its class. A powered slice is READY
with every row unwritten, and with the last of a repair the roles move. A repair whose slices are ready restarts the
step: traffic dropped, every core reset to the beat, the partition resumed unless a plan or link fault keeps it.
(15_faults_and_live_service.md R449, R450, R451, R453, R454, R468; 05_vertical_memory.md R171) -/
def Obligations.FaultRepairs : Prop :=
  (∀ (s : State) (p : Nat) (n : FaultNote) (rest : List (Nat × FaultNote)), s.mod.fabric.reports = (p, n) :: rest →
    rmAlive s.mod = true →
    (let m := { s.mod with fabric := { s.mod.fabric with reports := rest } }
     (faultWaits m p n = false → exec .faultReport s = .next (s.withMod (handleFault s.fuses m p n)))
     ∧ (faultWaits m p n = true → exec .faultReport s = .next (s.withMod (
         updPart (faultPart m p (if n.cls = .supply then 0xFFFF else n.site) n.code) p (fun y => { y with faultQ := y.faultQ ++ [n] }))))))
  ∧ (∀ (i : SiteId) (s : State), (siteOf s.mod i.val).slice.state = .init → s.mod.parts = [] →
    exec (.sliceReady i) s = .next (s.withMod (updSlice s.mod i.val readySlice)))
  ∧ (∀ (i : SiteId) (s : State) (p : Nat) (x : Part) (d : Repair), (siteOf s.mod i.val).slice.state = .init →
    s.mod.parts = [(p, x)] → x.repair = some d → d.awaited = [i.val] →
    exec (.sliceReady i) s = .next (s.withMod (finishMoves (updPart (updSlice s.mod i.val readySlice) p
      (fun y => { y with repair := some { d with awaited := [] } })) p)))
  ∧ (∀ (p : PartId) (s : State) (x : Part) (d : Repair), partOf? s.mod p.val = some x → x.repair = some d → d.awaited = [] →
    rmAlive s.mod = true →
    exec (.stepRestart p) s = .next (s.withMod (
      let m2 := forAll (dropTraffic s.mod p.val x) (partSites x) (fun m s => updCore m s (restartCore x.beatCount x.inStep))
      let m3 := updPart m2 p.val (fun y => { (emptyMembers m2 y) with repair := none, schedPos := 0 })
      let m4 := forAll m3 (if d.evacuation then [d.region, d.toRegion] else [d.region]) (fun m r =>
        updRegion m r (fun y => { y with repairing := false }))
      let back : Bool := x.frame0 == .faulted && !x.faultPlan && !x.faultLink
      let m5 := if back then settleHold (updPart m4 p.val (fun y => { y with frame0 := .held, faultStall := false })) p.val else m4
      storeWork (atBoundaryDo s.fuses (nextFault s.fuses (resumeStep (postRepair m5 p.val d back) p.val) p.val) p.val) p.val)))

/-- A stand-in is refilled, its count tables rebuilt, its twins copied. The next chunk of a stand-in whose bytes
verify is written to its segment and leaves the refill list; with the last one 0x0A05 is posted. A rebuilt count table
lets its sequence take steps again. A page's frame slots are copied to the first stand-in that waits for it, the page referred to meanwhile; with its
last page 0x0A06 is posted. (15_faults_and_live_service.md R457, R458, R459, R460, R461, R468) -/
def Obligations.RepairRefill : Prop :=
  (∀ (p : PartId) (i : SiteId) (bs : List Byte) (s : State) (x : Part) (pl : Plan) (e : Nat × Nat) (k : Chunk) (vc : VCore),
    partOf? s.mod p.val = some x → x.plan = some pl → x.refill.find? (fun e => e.1 = i.val) = some e →
    pl.chunks[e.2]? = some k → pl.vcores[k.vcore]? = some vc → refillRuns s.mod x pl = true → bs.length = 72 * k.lines →
    crc32c bs = k.crc →
    exec (.refillChunkDone p i bs) s = .next (s.withMod (
      let left := x.refill.filter (fun t => t != e)
      let m := updPart (writeLines s.mod i.val (vc.vsegBase.getD k.vseg 0 + k.voff) (bytesLines bs) []) p.val
        (fun y => { y with refill := left })
      if left.any (fun t => t.1 = i.val) then m
      else postLedger (rgFlag m (regionOf i.val) 2) 0x0A05 none 0 0
        (fltPayload m 0xFFFF i.val (regionOf i.val) 0x3F p.val 0 0 x.stretchUs))))
  ∧ (∀ (p : PartId) (h : BitVec 32) (s : State) (x : Part), partOf? s.mod p.val = some x → tableFirst s.mod x = some h →
    exec (.countTableRebuilt p h) s = .next (s.withMod (
      kick (writeCounts (updPart s.mod p.val (fun y => { (pSeq y h (fun q => { q with tableReady := true })) with
        tableQ := y.tableQ.filter (fun k => k != h) })) p.val h) p.val)))
  ∧ (∀ (p : PartId) (g : Fin 16777216) (s : State) (x : Part) (pl : Plan) (e : Nat × Nat) (v : Nat) (f : Packed),
    partOf? s.mod p.val = some x → x.plan = some pl → x.twinLeft.find? (fun e => e.2 = g.val) = some e →
    vcoreAt pl e.1 = some v → packedOf pl.cacheFormat = some f →
    exec (.twinPageCopied p g) s = .next (s.withMod (
      let left := x.twinLeft.filter (fun t => t != e)
      let m := updPart (copyTwins (updPart s.mod p.val (fun y => addRef y g.val)) pl f v e.1 g.val) p.val
        (fun y => { dropRef y g.val with twinLeft := left })
      if left.any (fun t => t.1 = e.1) then m
      else postLedger (rgFlag m (regionOf e.1) 3) 0x0A06 none 0 0
        (fltPayload m 0xFFFF e.1 (regionOf e.1) 0x3F p.val 0 0 x.stretchUs))))

/-- Domain commands switch or are refused, regions ramp in turn. A domain command for a number that does not exist is
refused with reason 5, for a spare region or a domain that only module power switches with 1, for an owned or
evacuated region with 2, for an enabled or owned group with 3, for a seam half while a partition owns a seam slot with
4; else the domain is switched. A ramp that ends lifts the
caps of its quadrant and turns the region ON, or WARM for a spare; one that trips is a supply loss. A measured
quadrant starts its next region; one that waited 50 ms caps the others. (13_power_delivery.md R408, R409, R420, R424,
R425) -/
def Obligations.PowerDomains : Prop :=
  (∀ (v : BitVec 32) (s : State),
    (let d := fld v 0 8
     let m := s.mod
     (151 < d → exec (.domainCmd v) s = .next (s.withMod (cmdAnswer m 5)))
     ∧ (d < 64 → isSpareRegion d = true → exec (.domainCmd v) s = .next (s.withMod (cmdAnswer m 1)))
     ∧ ((64 ≤ d ∧ d < 128 ∨ 144 ≤ d ∧ d < 148 ∨ d = 150 ∨ d = 151) →
         exec (.domainCmd v) s = .next (s.withMod (cmdAnswer m 1)))
     ∧ (d < 64 → isSpareRegion d = false → ((regionOwner m d).isSome = true ∨ (regionAt m d).evacuated = true) →
         exec (.domainCmd v) s = .next (s.withMod (cmdAnswer m 2)))
     ∧ (d < 64 → isSpareRegion d = false → regionOwner m d = none → (regionAt m d).evacuated = false →
         exec (.domainCmd v) s = .next (s.withMod (cmdAnswer (switchCore m d (bit v 8)) 0)))
     ∧ (128 ≤ d → d < 144 → ((groupOf m (d - 128)).enable = true ∨ (groupOf m (d - 128)).owner.isSome = true) →
         exec (.domainCmd v) s = .next (s.withMod (cmdAnswer m 3)))
     ∧ (128 ≤ d → d < 144 → (groupOf m (d - 128)).enable = false → (groupOf m (d - 128)).owner = none →
         exec (.domainCmd v) s = .next (s.withMod (cmdAnswer (updGroup m (d - 128) (fun z => { z with domainOn := bit v 8 })) 0)))
     ∧ ((d = 148 ∨ d = 149) → (partIds m).any (ownsSeam m) = true →
         exec (.domainCmd v) s = .next (s.withMod (cmdAnswer m 4)))
     ∧ ((d = 148 ∨ d = 149) → (partIds m).any (ownsSeam m) = false →
         exec (.domainCmd v) s = .next (s.withMod (cmdAnswer (switchSeam m (d - 148) (bit v 8)) 0)))))
  ∧ (∀ (r : RegionId) (s : State), (regionAt s.mod r.val).power.core = .ramp →
    (let m := liftCap s.mod r.val
     exec (.regionRampDone r true) s = .next (s.withMod (supplyLoss s.fuses s.mod r.val 1))
     ∧ (isSpareRegion r.val = true → (regionAt s.mod r.val).standin = false →
         exec (.regionRampDone r false) s = .next (s.withMod (
           startNext (retargetRegion (updPower m r.val (fun y => { y with core := .warm })) r.val) (quadrantOf r.val))))
     ∧ ((isSpareRegion r.val = false ∨ (regionAt s.mod r.val).standin = true) →
         exec (.regionRampDone r false) s = .next (s.withMod (
           startNext (retargetRegion (lightSites s.fuses (updPower m r.val (fun y => { y with core := .on })) r.val) r.val)
             (quadrantOf r.val))))))
  ∧ (∀ (r : RegionId) (s : State), (regionAt s.mod r.val).power.core = .wait →
    exec (.headroomCapTimeout r) s = .next (s.withMod (
      let m := forAll (updPower s.mod r.val (fun y => { y with capping := true })) ((quadRegions (quadrantOf r.val)).filter (fun t => t != r.val && coreUp s.mod t)) (fun m t =>
        updPower m t (fun y => { y with capped := true }))
      post (pwrFlag m 4) 0x0807 none (pwrPayload m r.val 0x1F 0 0 (cellsShown m r.val) (ilimDa (regionAt m r.val).power) 0))))
  ∧ (∀ (q : Fin 4) (w : Nat) (s : State),
    exec (.quadrantHeadroomStart q w) s = .next (s.withMod (
      startNext { s.mod with pwr := { s.mod.pwr with quadW := s.mod.pwr.quadW.set q.val (sat16 w) } } q.val)))

/-- The current guard: above its limit a region issues less, overpower lowers every limit. A region measured above its
limit, issuing in every cycle, issues in 15 of 16; each microsecond step takes one sixteenth more above the limit,
down to 1, and gives one back below 95 % of it, up to 16, and the throttled cycles are counted. Above 30 kW each
millisecond takes 5 points from every region's limit; 100 ms below 28.5 kW restores it. (13_power_delivery.md R418,
R419, R421, R423) -/
def Obligations.PowerGuard : Prop :=
  (∀ (r : RegionId) (da sda : Nat) (s : State), coreUp s.mod r.val = true →
    (let lim := ilimDa (regionAt s.mod r.val).power
     (lim < da → (regionAt s.mod r.val).power.fraction = 16 →
       exec (.currentExcess r da none sda) s = .next (s.withMod (updPower s.mod r.val (fun y =>
         { y with vmidDa := sat16 da, fraction := (if ilimDa y < da && y.fraction == 16 then 15 else y.fraction),
                  throttle := y.throttle || (decide (ilimDa y < da) && y.fraction == 16) }))))
     ∧ (∀ l : Fin 24, exec (.currentExcess r da (some l) sda) s = .next (s.withMod (
         updEnv (updPower s.mod r.val (fun y =>
           { y with vmidDa := sat16 da, fraction := (if ilimDa y < da && y.fraction == 16 then 15 else y.fraction),
                    throttle := y.throttle || (decide (ilimDa y < da) && y.fraction == 16) })) (siteAt r.val l.val) (fun e =>
             { e with siteDa := sat16 sda, fraction := (if e.limitDa < sda ∧ e.fraction = 16 then 15 else e.fraction) }))))
     ∧ exec (.guardIssueStep r da) s = .next (s.withMod (
         forAll (updRegion s.mod r.val (fun y =>
           let f := (if ilimDa y.power < da then max 1 (y.power.fraction - 1)
             else if 100 * da < 95 * ilimDa y.power then min 16 (y.power.fraction + 1) else y.power.fraction)
           { y with power := { y.power with
               vmidDa := sat16 da, fraction := f, throttle := f != 16,
               throttleCycles := y.power.throttleCycles + y.clock.cclkMhz * (16 - y.power.fraction) / 16 } })) (sitesOf r.val)
           (fun m s => if (siteOf m s).env.fraction = 16 then m
             else updEnv m s (fun e => { e with fraction := nextFraction e.fraction e.siteDa e.limitDa }))))))
  ∧ (∀ (w : Nat) (s : State), 30000 < w → s.mod.startup.step ≠ 0 →
    exec (.pwrOverpower w) s = .next (s.withMod (
      post (pwrFlag { s.mod with pwr := { s.mod.pwr with pinW := sat16 w, overpowerSince := some s.mod.time } } 1) 0x0809 none
        (pwrPayload { s.mod with pwr := { s.mod.pwr with pinW := sat16 w, overpowerSince := some s.mod.time } } 0x3F 0x1F 0 0 0 w 0))))
  ∧ (∀ (w t : Nat) (s : State), s.mod.pwr.overpowerSince = some t →
    (let m1 := { s.mod with pwr := { s.mod.pwr with pinW := sat16 w } }
     (30000 < w → exec (.overpowerGuardStep w) s = .next (s.withMod (
       forAll { m1 with pwr := { m1.pwr with overpowerSince := some s.mod.time } } (List.range 64) (fun m r =>
         retargetGuard (updPower m r (fun y => { y with overPct := min 100 (y.overPct + 5) })) r))))
     ∧ (28500 ≤ w → w ≤ 30000 → exec (.overpowerGuardStep w) s = .next (s.withMod (
         { m1 with pwr := { m1.pwr with overpowerSince := some s.mod.time } })))
     ∧ (w < 28500 → s.mod.time < t + 100000000 → exec (.overpowerGuardStep w) s = .next (s.withMod m1))
     ∧ (w < 28500 → t + 100000000 ≤ s.mod.time → exec (.overpowerGuardStep w) s = .next (s.withMod (
         forAll { m1 with pwr := { m1.pwr with overpowerSince := none } } (List.range 64) (fun m r =>
           retargetGuard (updPower m r (fun y => { y with overPct := 0 })) r))))))

/-- Cells, supplies, feeds, cracks, droop sensors and VIN. The fifth failed cell of a region is a supply loss of cause
4, the third and fourth post 0x0802, each posts 0x0801. A region loss takes the core domain with its cause. A lost
feed posts 0x0804. A window whose mean droop is above 25 mV and 15 mV beyond its low one makes the site a suspected
cracked connection, once; so does the eighth suspect sensor. VIN 30 to 32 V or 40 to 42 V posts 0x0808; beyond,
everything is switched off with FAULT_N asserted. (13_power_delivery.md R411, R415, R416, R417, R421, R422, R423,
R427) -/
def Obligations.PowerFaults : Prop :=
  (∀ (r : RegionId) (k : Fin 24) (s : State), coreUp s.mod r.val = true → bit (regionAt s.mod r.val).power.cellsFailed k.val = false →
    (let m1 := updPower s.mod r.val (fun y => { y with cellsFailed := setBit y.cellsFailed k.val true })
     let n := cellsFailed (regionAt m1 r.val).power
     let pl (m : Mod) : BitVec 192 := pwrPayload m r.val k.val 0 0 (cellsShown m r.val) (ilimDa (regionAt m r.val).power) 0
     let m2 := postLedger m1 0x0801 none 0 0 (pl m1)
     ((n < 3) → exec (.pwrCellFail r k) s = .next (s.withMod m2))
     ∧ ((n = 3 ∨ n = 4) → exec (.pwrCellFail r k) s = .next (s.withMod (post m2 0x0802 none (pl m2))))
     ∧ (5 ≤ n → exec (.pwrCellFail r k) s = .next (s.withMod (supplyLoss s.fuses m2 r.val 4)))))
  ∧ (∀ (r : RegionId) (k : SupplyCause) (s : State), s.mod.startup.step ≠ 0 → (regionAt s.mod r.val).power.core ≠ .lost →
    exec (.pwrRegionLoss r k) s = .next (s.withMod (
      startNext (reportSupply s.fuses (dropSupply (liftCap s.mod r.val) r.val (causeCode k)) r.val) (quadrantOf r.val))))
  ∧ (∀ (r : RegionId) (b : Bool) (s : State),
    (if b then (regionAt s.mod r.val).power.feedB else (regionAt s.mod r.val).power.feedA) = true →
    (if b then (regionAt s.mod r.val).power.feedA else (regionAt s.mod r.val).power.feedB) = true →
    exec (.pwrFeedLoss r b) s = .next (s.withMod (
      let m1 := updPower s.mod r.val (fun z => if b then { z with feedB := false } else { z with feedA := false })
      post (pwrFlag m1 3) 0x0804 none (pwrPayload m1 r.val 0x1F 0 (1 + b2n b) (cellsShown m1 r.val) 0 0))))
  ∧ (∀ (i : SiteId) (hi lo : Int) (s : State), liveClass s.fuses s.mod i.val = .active → evaluates s.mod (regionOf i.val) = true →
    (siteOf s.mod i.val).env.crack = false →
    exec (.crackWindowEnd i (some (hi, lo))) s = .next (s.withMod (
      if 250 < hi ∧ 150 ≤ hi - lo then
        let m1 := updEnv s.mod i.val (fun e => { e with crack := true, limitDa := 192 })
        postLedger m1 0x0805 none 0 4 (pwrPayload m1 (regionOf i.val) (localOf i.val) 0 0 (cellsShown m1 (regionOf i.val)) 192 hi.toNat)
      else s.mod)))
  ∧ (∀ (i : SiteId) (k : Fin 8) (s : State), evaluates s.mod (regionOf i.val) = true →
    bit (siteOf s.mod i.val).env.droopSuspect k.val = false →
    exec (.pwrSensorSuspect i k) s = .next (s.withMod (
      let r := regionOf i.val
      let m1 := updEnv s.mod i.val (fun e => { e with droopSuspect := setBit e.droopSuspect k.val true })
      let m2 := post m1 0x0806 none (pwrPayload m1 r (localOf i.val) k.val 0 (cellsShown m1 r) 0 0)
      let y := (regionAt m2 r).power
      let m3 := if y.minSite = localOf i.val ∧ y.minSensor = k.val then steer m2 r else m2
      if (siteOf m3 i.val).env.droopSuspect = 0xFF then crackSuspect m3 i.val 0 else m3)))
  ∧ (∀ (mv : Nat) (s : State), s.mod.startup.step ≠ 0 →
    ((30000 ≤ mv ∧ mv < 32000) ∨ (40000 < mv ∧ mv ≤ 42000) →
      exec (.pwrVinWarn mv) s = .next (s.withMod (
        let m1 := { s.mod with pwr := { s.mod.pwr with vinMv := sat16 mv, vinOk := false } }
        post (pwrFlag m1 0) 0x0808 none (pwrPayload m1 0x3F 0x1F 0 0 0 mv 0))))
    ∧ ((mv < 30000 ∨ 42000 < mv) →
      exec (.vinTrip mv) s = .next (s.withMod (
        let m1 := allOff (lastGasp 1 s.mod)
        { m1 with pins := { m1.pins with fault := true }, startup := { m1.startup with tripped := true } }))))

/-- Reference loss and return, PLL locks, the fabric clock. The loss of the reference in use moves every PLL to the
other, with 0x090A, where that one is present, else they hold over; where they hold over already nothing changes. A
reference that returns ends the hold-over, lets a start-up that waits for it go on, and is seen by a start-up still to
come. A fabric PLL out of lock takes its half's seam links down, the seam's PLL every crossing; lock returns the clock
at the rate the half then has. A half with a site at 96 °C runs at 750 MHz, and at 1,500 MHz again after 1 s below
90 °C outside minimum clock. (14_clocks_temperature_cooling.md R430, R431, R433; 17_startup_and_shutdown.md R484) -/
def Obligations.Clocks : Prop :=
  (∀ (s : State), refPresent s.mod.clk = true →
    exec .clkRefLoss s = .next (s.withMod (
      let c := s.mod.clk
      let m1 := { s.mod with clk := (if c.sel1 then { c with ref1 := false } else { c with ref0 := false }) }
      if (if c.sel1 then c.ref0 else c.ref1) then
        post { m1 with clk := { m1.clk with sel1 := !c.sel1, refLoss := sat32 (c.refLoss + 1) } } 0x090A none
          (thmPayload { m1 with clk := { m1.clk with sel1 := !c.sel1, refLoss := sat32 (c.refLoss + 1) } } 0xFFFF 0x3F 0 (b2n !c.sel1) 0 0 0)
      else m1)))
  ∧ (∀ (s : State), refPresent s.mod.clk = false → exec .clkRefLoss s = .next s)
  ∧ (∀ (k : Fin 4) (s : State),
    (let c := s.mod.clk
     (k.val = 0 → exec (.pllLockLoss k) s = .next (s.withMod (
        doSeamDown true { s.mod with clk := { c with fclkWLock := false, wMhz := 0 } })))
     ∧ (k.val = 1 → exec (.pllLockLoss k) s = .next (s.withMod (
        doSeamDown false { s.mod with clk := { c with fclkELock := false, eMhz := 0 } })))
     ∧ (k.val = 2 → exec (.pllLockLoss k) s = .next (s.withMod (
        seamFalls (fun _ => true) { s.mod with clk := { c with sclkLock := false } })))
     ∧ (k.val = 3 → exec (.pllLockLoss k) s = .next (s.withMod { s.mod with clk := { c with mgmtLock := false } }))
     ∧ (k.val = 0 → exec (.pllRelock k) s = .next (s.withMod
        { s.mod with clk := { c with fclkWLock := true, wMhz := if s.mod.thm.fabricW then 750 else 1500 } }))
     ∧ (k.val = 1 → exec (.pllRelock k) s = .next (s.withMod
        { s.mod with clk := { c with fclkELock := true, eMhz := if s.mod.thm.fabricE then 750 else 1500 } }))
     ∧ (k.val = 2 → exec (.pllRelock k) s = .next (s.withMod { s.mod with clk := { c with sclkLock := true } }))
     ∧ (k.val = 3 → exec (.pllRelock k) s = .next (s.withMod { s.mod with clk := { c with mgmtLock := true } }))))
  ∧ (∀ (east : Bool) (s : State),
    (let red : Bool := if east then s.mod.thm.fabricE else s.mod.thm.fabricW
     (red = false → exec (.fabricClockChange east) s = .next (s.withMod (
       if halfAt s.mod east 384 then setFabric s.mod east true else s.mod)))
     ∧ (red = true → exec (.fabricClockChange east) s = .next (s.withMod (
       if s.mod.thm.minclk = false ∧ halfAt s.mod east 360 = false ∧ coolFor s.mod (if east then 1 else 0) = true then
         setFabric s.mod east false
       else s.mod)))))
  ∧ (∀ (ref1 : Bool) (s : State),
    (let back (m : Mod) : Mod := { m with clk := (if ref1 then { m.clk with ref1 := true } else { m.clk with ref0 := true }) }
     (s.mod.pwr.mgmtOn ≠ 0 → waitingAt s.mod 2 = none → exec (.referenceReturn ref1) s = .next (s.withMod (smbWatch (fun m =>
       if m.clk.ref0 = false ∧ m.clk.ref1 = false ∧ m.clk.sel1 ≠ ref1 then otherRef (back m) else back m) s.mod)))
     ∧ (∀ env, s.mod.pwr.mgmtOn ≠ 0 → waitingAt s.mod 2 = some env → exec (.referenceReturn ref1) s = .next (s.withMod (
       smbWatch (fun m => startRefs s.fuses env (setCode (setFault (back m) false) 0x11)) s.mod)))
     ∧ (s.mod.pwr.mgmtOn = 0 → exec (.referenceReturn ref1) s = .next (s.withMod { s.mod with startup := { s.mod.startup with
       env := s.mod.startup.env.map (fun e => if ref1 then { e with ref1 := true } else { e with ref0 := true }) } }))))

/-- Thermal throttle, minimum clock, the hot trip and suspect sensors. At 92 °C a region that does not throttle yet
falls by 100 MHz with 0x0903; each step takes 100 MHz more down to 400 while a site stands there, below 89 °C the
throttle ends, then the ceiling rises by 100 MHz a step. At 100 °C minimum clock sets every ceiling to 400 and both
fabric halves to the reduced clock; 1 s below 95 °C ends it. Two hot samples at 108 °C switch everything off with
HOT_TRIP. A sensor that fails its self-check is suspect; of two that differ the one further from the neighbours' mean
is. (14_clocks_temperature_cooling.md R434, R435, R437, R438, R446; 15_faults_and_live_service.md R465) -/
def Obligations.Throttle : Prop :=
  (∀ (i : SiteId) (d o : Nat) (s : State), 4 ≤ s.mod.startup.step →
    (let r := regionOf i.val
     let m1 := forceSlow (sampleSite s.mod i.val d o) r
     let y := regionAt m1 r
     ((siteTemp m1 i.val < 368 ∨ y.clock.throttle = true ∨ y.fwRestart = true) →
       exec (.thmThrottle i d o) s = .next (s.withMod m1))
     ∧ (368 ≤ siteTemp m1 i.val → y.clock.throttle = false → y.fwRestart = false →
       exec (.thmThrottle i d o) s = .next (s.withMod (
         let m2 := lowerCeiling (updClock m1 r (fun c => { c with throttle := true })) r
         post m2 0x0903 none (throttlePayload m2 r 1))))))
  ∧ (∀ (r : RegionId) (s : State), (regionAt s.mod r.val).fwRestart = false →
    (let c := (regionAt s.mod r.val).clock
     let top := peak s.mod (sitesOf r.val)
     (c.throttle = true → 368 ≤ top → exec (.throttleStep r) s = .next (s.withMod (
       lowerCeiling s.mod r.val)))
     ∧ (c.throttle = true → 356 ≤ top → top < 368 → exec (.throttleStep r) s = .next s)
     ∧ (c.throttle = true → top < 356 → exec (.throttleStep r) s = .next (s.withMod (
       let m1 := updClock s.mod r.val (fun c => { c with throttle := false })
       post m1 0x0903 none (throttlePayload m1 r.val 0))))
     ∧ (c.throttle = false → c.ceilingMhz < 1200 → top < 356 → s.mod.thm.minclk = false →
       exec (.throttleStep r) s = .next (s.withMod (
         setCeiling s.mod r.val (min 1200 (c.ceilingMhz + 100)))))
     ∧ (c.throttle = false → (1200 ≤ c.ceilingMhz ∨ 356 ≤ top ∨ s.mod.thm.minclk = true) →
       exec (.throttleStep r) s = .next s)))
  ∧ (∀ (s : State),
    (s.mod.thm.minclk = false → moduleAt s.mod 400 = true → exec .thmMinclk s = .next (s.withMod (smbWatch (fun m =>
      let m1 := thmFlag { m with thm := { m.thm with minclk := true, minclkCount := sat32 (m.thm.minclkCount + 1) } } 5
      let m2 := forAll m1 (List.range 64) (fun m r => forceSlow (setCeiling m r 400) r)
      let m3 := setFabric (setFabric m2 false true) true true
      post m3 0x0904 none (minclkPayload m3 1)) s.mod)))
    ∧ (s.mod.thm.minclk = true → moduleAt s.mod 380 = false → coolFor s.mod 2 = true →
      exec .thmMinclk s = .next (s.withMod (smbWatch (fun m =>
        let m2 := forAll { m with thm := { m.thm with minclk := false } } (List.range 64) (fun m r =>
          updClock m r (fun y => { y with forced := false }))
        post m2 0x0904 none (minclkPayload m2 0)) s.mod))))
  ∧ (∀ (i : SiteId) (s : State),
    (2 ≤ (siteOf s.mod i.val).env.hotSamples → s.mod.startup.step ≠ 0 → exec (.hotTrip i) s = .next (s.withMod (
      let m1 := allOff (lastGasp 2 s.mod)
      { m1 with pins := { m1.pins with hotTrip := true }, startup := { m1.startup with tripped := true } })))
    ∧ ((siteOf s.mod i.val).env.hotSamples < 2 → exec (.hotTrip i) s = .next s))
  ∧ (∀ (i : SiteId) (o : Bool) (s : State), (regionAt s.mod (regionOf i.val)).fwRestart = false →
    (let e := (siteOf s.mod i.val).env
     let ns := goodNeighbours s.mod i.val
     let total := (ns.map (siteTemp s.mod)).sum
     ((if o then e.oSuspect else e.dSuspect) = false →
       exec (.thmSensorSuspect i o true) s = .next (s.withMod (markSensor s.mod i.val o)))
     ∧ (e.dSuspect = false → e.oSuspect = false → 24 < Machine.dist e.dQ e.oQ → ns ≠ [] →
         (Machine.dist (ns.length * e.dQ) total < Machine.dist (ns.length * e.oQ) total →
           exec (.thmSensorSuspect i o false) s = .next (s.withMod (markSensor s.mod i.val true)))
         ∧ (Machine.dist (ns.length * e.oQ) total < Machine.dist (ns.length * e.dQ) total →
           exec (.thmSensorSuspect i o false) s = .next (s.withMod (markSensor s.mod i.val false))))))

/-- The Carousel rotates a group, lowers a cell, swaps routes; entries are checked. Where the temperatures of a set
spread by more than 8 °C and its rate limit allows, a port group's injection rotation is asked for, the hottest site's
good cell of a region is lowered, or the swap of a valid entry's two frames is staged. Below 5 °C the cell is
released. A write of VALID takes the entry where it is sound and marks it rejected where it is not.
(14_clocks_temperature_cooling.md R439, R440; 05_vertical_memory.md R164) -/
def Obligations.Carousel : Prop :=
  (∀ (k : Fin 592) (s : State), rmAlive s.mod = true →
    (k.val < 16 → exec (.carousel k) s = .next (s.withMod (
      if 32 + coolest s.mod (groupSites k.val) < peak s.mod (groupSites k.val)
          ∧ rateOk s.mod (groupOf s.mod k.val).rotateTime 100000000 = true then
        updGroup s.mod k.val (fun z => { z with rotateDue := true, rotateTime := some s.mod.time })
      else s.mod)))
    ∧ (∀ h, 16 ≤ k.val → k.val < 80 → evaluates s.mod (k.val - 16) = true →
      32 + coolest s.mod (goodCells s.mod (k.val - 16)) < peak s.mod (goodCells s.mod (k.val - 16)) →
      rateOk s.mod (regionAt s.mod (k.val - 16)).clock.carouselTime 10000000 = true →
      hottest s.mod (goodCells s.mod (k.val - 16)) = some h →
      exec (.carousel k) s = .next (s.withMod (updClock s.mod (k.val - 16) (fun c =>
        { c with loweredCell := some (localOf h), carouselTime := some s.mod.time }))))
    ∧ (∀ x, 80 ≤ k.val → partOf? s.mod ((k.val - 80) / 32) = some x →
      (let p := (k.val - 80) / 32
       let j := (k.val - 80) % 32
       let c := mget x.cars j carNone
       c.valid = true → 32 < Machine.dist (peak s.mod (frameSites x c.frameA)) (peak s.mod (frameSites x c.frameB)) →
       rateOk s.mod c.lastSwap 1000000000 = true → x.draining = [] → swapStaged x = false →
       exec (.carousel k) s = .next (s.withMod (stageWork (stageChange (updPart s.mod p (fun y =>
         { y with cars := mset y.cars j { c with lastSwap := some s.mod.time } })) p (.swap j) none) p)))))
  ∧ (∀ (r : RegionId) (s : State), (regionAt s.mod r.val).fwRestart = false →
    exec (.carouselRelease r) s = .next (s.withMod (
      if peak s.mod (goodCells s.mod r.val) < coolest s.mod (goodCells s.mod r.val) + 20 then
        updClock s.mod r.val (fun c => { c with loweredCell := none })
      else s.mod)))
  ∧ (∀ (p : PartId) (k : Fin 32) (s : State) (x : Part), partOf? s.mod p.val = some x →
    (let c := mget x.cars k.val carNone
     exec (.carouselEntryValid p k false) s = .next (s.withMod (updPart s.mod p.val (fun y =>
       { y with cars := mset y.cars k.val { mget y.cars k.val carNone with valid := false } })))
     ∧ (c.valid = false → carRejected x c = true → ∃ t, exec (.carouselEntryValid p k true) s = .next (s.withMod t)
         ∧ (partOf? t p.val).map (fun y => mget y.cars k.val carNone) = some { c with rejected := true })
     ∧ (c.valid = false → carRejected x c = false → ∃ t, exec (.carouselEntryValid p k true) s = .next (s.withMod t)
         ∧ (partOf? t p.val).map (fun y => mget y.cars k.val carNone) = some { c with valid := true, rejected := false })))

/-- Coolant measurements warn of flow, inlet temperature and disagreement. Each coolant row takes the measurements,
the flow being the lower estimate; below 40 L/min it posts 0x0906, below 20 L/min 0x0907, with an inlet above 40 °C
0x0908, with estimates more than 30 % of the larger apart 0x0909, each with its flag.
(14_clocks_temperature_cooling.md R442, R444, R446) -/
def Obligations.CoolantWarnings : Prop :=
  ∀ (c : Coolant) (s : State), 2 ≤ s.mod.startup.step →
    (let m1 := { s.mod with thm := { s.mod.thm with
       inletDc := sat16 c.inletDc, outletDc := sat16 c.outletDc, dpDkpa := sat16 c.dpDkpa,
       flowDl := sat16 (flowOf c), heatDl := sat16 c.heatDl } }
     let warn (k v : Nat) : Mod := post (thmFlag m1 k) (0x0906 + k) none (thmPayload m1 0xFFFF 0x3F 0 0 0 v 0)
     exec (.thmFlowWarn c) s = .next (s.withMod (if flowOf c < 400 then warn 0 (sat16 (flowOf c)) else m1))
     ∧ exec (.thmFlowLow c) s = .next (s.withMod (if flowOf c < 200 then warn 1 (sat16 (flowOf c)) else m1))
     ∧ exec (.thmInletWarn c) s = .next (s.withMod (if 400 < c.inletDc then warn 2 (sat16 c.inletDc) else m1))
     ∧ exec (.thmFlowDisagree c) s = .next (s.withMod (
         if c.heatDl ≠ 0 ∧ 30 * max c.dpDl c.heatDl < 100 * Machine.dist c.dpDl c.heatDl then warn 3 (sat16 (flowOf c)) else m1)))

/-- Ringmaster fails over to its standby, resynchronises, or loses a member. Four missed heartbeats with a standby
make it active, the failover is counted, the tables taken up and 0x0A07 posted with cause 1; without one the member
restarts. A member back with the other active becomes its standby; the active one back after both failed starts with
empty tables, cause 4. A member that is not back within 3 s is FAILED, cause 2 where the other serves. A standby whose
new image does not start goes back to the image in force and the activation ends ABORTED.
(15_faults_and_live_service.md R462, R464, R470) -/
def Obligations.Members : Prop :=
  (∀ (s : State), rmAlive s.mod = true →
    (let m1 := { s.mod with rm := { s.mod.rm with misses := sat32 (s.mod.rm.misses + 4), failedAt := some s.mod.time } }
     ((rmOther s.mod).state = .standby → exec .rmHeartbeatTimeout s = .next (s.withMod (
       let m2 := switchMember m1
       let m3 := { m2 with rm := { m2.rm with failovers := sat32 (m2.rm.failovers + 1) } }
       postFailover (takeUp s.fuses (abortActivation m3)) 1)))
     ∧ ((rmOther s.mod).state ≠ .standby → exec .rmHeartbeatTimeout s = .next (s.withMod (bootMember m1 s.mod.rm.activeEast)))))
  ∧ (∀ (s : State), (rmActive s.mod).state = .boot →
    exec .rmResyncDone s = .next (s.withMod (
      postFailover (forAll (showImage (loseAll (runMember s.mod s.mod.rm.activeEast .active))) (List.range 64) retargetRegion) 4)))
  ∧ (∀ (s : State), (rmActive s.mod).state ≠ .boot → rmAlive s.mod = true → (rmOther s.mod).state = .boot →
    s.mod.rm.activation = none →
    exec .rmResyncDone s = .next (s.withMod (
      let m1 := runMember s.mod (!s.mod.rm.activeEast) .standby
      { m1 with rm := { m1.rm with failedAt := none } })))
  ∧ (∀ (s : State) (t : Nat), s.mod.rm.failedAt = some t →
    ((rmActive s.mod).state = .boot → exec .rmStandbyTimeout s = .next (s.withMod (
      updMember s.mod s.mod.rm.activeEast (fun x => { x with state := .failed }))))
    ∧ ((rmActive s.mod).state ≠ .boot → (rmOther s.mod).state = .boot → exec .rmStandbyTimeout s = .next (s.withMod (
      let m1 := updMember s.mod (!s.mod.rm.activeEast) (fun x => { x with state := .failed })
      postFailover { m1 with rm := { m1.rm with failedAt := none } } 2))))
  ∧ (∀ (s : State) (a : Activation), s.mod.rm.activation = some a → a.kind = 1 → a.region = 0 → (rmOther s.mod).state = .boot →
    exec .fwResyncTimeout s = .next (s.withMod (
      let east := !s.mod.rm.activeEast
      let b := (rmActive s.mod).slotB
      let m1 := updSlot s.mod 1 (!b) (fun z => { z with valid := false })
      abortActivation (runMember (updMember m1 east (fun x => { x with slotB := b })) east .standby))))

/-- Images are staged and activated, region controllers restart, the configuration is written and read. A staged image
is refused with the number of the first test of R400 it fails, NOT_PERMITTED where it is not newer, else it fills the
slot not in force. FW_ACTIVATE needs a standby and a newer valid image: the standby restarts on it, or the region
controllers one by one. A restart done moves the region to the better slot; one that times out keeps the old slot and
stops the activation. CONFIG_WRITE takes a sound newer record and applies it. (15_faults_and_live_service.md R463,
R464, R465, R466, R467; 12_partitions_modes_protection.md R399, R400) -/
def Obligations.FirmwareAndConfiguration : Prop :=
  (∀ (hs : HostId) (e : SqEntry) (h : HostSide) (s : State) (m : Mod) (c : Cmd), Taken (.admin hs) e h 0x48 s m c →
    entryClean e false true false [(0, 8)] = true → (argN e 0 1 = 1 ∨ argN e 0 1 = 2) →
    rejected (hostOf m hs.val) e.addr0.toNat e.len0.toNat = false →
    exec (.fwStage (.admin hs) e h) s = .next (s.withMod (
      let kind := argN e 0 1
      let bs := hostRead (hostOf m hs.val) e.addr0.toNat e.len0.toNat
      let b := !inForceB m kind
      if imageTest s.fuses bs ≠ 0 then complete m (.admin hs) { compl e.cid .badDescriptor with detail := imageTest s.fuses bs }
      else if leAt bs 16 4 ≠ kind then completeS m (.admin hs) e.cid .badDescriptor
      else if leAt bs 8 8 ≤ (slotAt m kind (!b)).sequence ∨ activating m kind = true then
        completeS m (.admin hs) e.cid .notPermitted
      else complete (updSlot m kind b (fun _ => slotOf bs)) (.admin hs) { compl e.cid .ok with result0 := b2n b })))
  ∧ (∀ (hs : HostId) (e : SqEntry) (h : HostSide) (s : State) (m : Mod) (c : Cmd), Taken (.admin hs) e h 0x49 s m c →
    entryClean e false false false [(0, 8)] = true → (argN e 0 1 = 1 ∨ argN e 0 1 = 2) →
    exec (.fwActivate (.admin hs) e h) s = .next (s.withMod (
      let kind := argN e 0 1
      let b := !inForceB m kind
      let m1 := runningCmd m (.admin hs) c
      let a : Activation := { ring := .admin hs, cid := e.cid, kind := kind, region := 0, updated := 0 }
      let m2 := { m1 with rm := { m1.rm with activation := some a } }
      if (rmOther m).state ≠ .standby ∨ m.rm.activation.isSome = true ∨ (slotAt m kind b).valid = false
          ∨ (slotAt m kind b).sequence ≤ (slotAt m kind (!b)).sequence then completeS m (.admin hs) e.cid .notPermitted
      else if kind = 1 then
        bootMember (updMember m2 (!m.rm.activeEast) (fun x => { x with slotB := b })) (!m.rm.activeEast)
      else nextRestart s.fuses m2)))
  ∧ (∀ (r : RegionId) (s : State), (regionAt s.mod r.val).fwRestart = true →
    (let b := bestRcB s.mod
     let m1 := { s.mod with rm := { s.mod.rm with rcSlotB := s.mod.rm.rcSlotB.set r.val b } }
     let m3 := endRestart s.fuses (rgFlag (updRegion m1 r.val (fun y => { y with fwSeq := (slotAt s.mod 2 b).sequence })) r.val 4) r.val
     (m3.rm.activation = none → exec (.rcRestartDone r) s = .next (s.withMod m3))
     ∧ (∀ a, m3.rm.activation = some a → a.kind = 2 → a.region = r.val → exec (.rcRestartDone r) s = .next (s.withMod (
         nextRestart s.fuses { m3 with rm := { m3.rm with activation := some { a with region := r.val + 1, updated := a.updated + 1 } } })))
     ∧ exec (.rcRestartTimeout r) s = .next (s.withMod (
         let m1 := updSlot s.mod 2 (!(s.mod.rm.rcSlotB.getD r.val false)) (fun z => { z with valid := false })
         let m2 := endRestart s.fuses m1 r.val
         if activating m2 2 then abortActivation m2 else m2))))
  ∧ (∀ (hs : HostId) (e : SqEntry) (h : HostSide) (s : State) (m : Mod) (c : Cmd), Taken (.admin hs) e h 0x4A s m c →
    entryClean e false true false [] = true → e.len0.toNat = 4096 →
    rejected (hostOf m hs.val) e.addr0.toNat 4096 = false →
    exec (.configWrite (.admin hs) e h) s = .next (s.withMod (
      let bs := hostRead (hostOf m hs.val) e.addr0.toNat 4096
      let x := configOf bs
      if configGood bs = false then completeS m (.admin hs) e.cid .badDescriptor
      else if x.sequence ≤ (configNow m).sequence then completeS m (.admin hs) e.cid .notPermitted
      else if m.limits.isSome = true then waitCmd m (.admin hs) c
      else if modesFit m x.modes = false then completeS m (.admin hs) e.cid .notPermitted
      else beginLimits (putConfig (runningCmd m (.admin hs) c) x) (.admin hs) e.cid 0 x.modes x.cclkCap x.powerCap true)))
  ∧ (∀ (hs : HostId) (e : SqEntry) (h : HostSide) (s : State) (m : Mod) (c : Cmd), Taken (.admin hs) e h 0x4B s m c →
    entryClean e false true false [] = true →
    exec (.configRead (.admin hs) e h) s = .next (s.withMod (
      if e.len0.toNat < 4096 then complete m (.admin hs) { compl e.cid .refusedResources with result1 := 4096 }
      else complete (bufWrite m (.admin hs) e.cid e.addr0.toNat (configBytes (configNow m))) (.admin hs)
        { compl e.cid .ok with result1 := (configNow m).sequence })))

/-- The ledger is committed every minute, read by selector, and calendar time is set. The timer begins a commit into
the copy not in force, which does not count until LEDGER_COMMIT_DONE puts it in force, begins the next where one is
due, and counts the wear. LEDGER_READ answers NOT_FOUND for an unknown selector, else as many whole records as the
buffer takes with the number that continues. TIME_SET notes the offset, the first one for good, in a ledger entry.
(16_tally_ledger_and_time.md R472, R474, R477, R478, R479, R480) -/
def Obligations.Ledger : Prop :=
  (∀ (s : State), 3 ≤ s.mod.startup.step → rmAlive s.mod = true → s.mod.ledger.committing = false →
    exec .ledgerCommitTimer s = .next (s.withMod (
      let l := s.mod.ledger
      { s.mod with ledger := { (putOther l
          { valid := false, commitSeq := (copyNow l).commitSeq + 1, time := s.mod.time, next := l.next, entries := l.entries,
            store := storeNow s.mod, counters := countersNow s.mod }) with committing := true, again := false } })))
  ∧ (∀ (s : State), s.mod.ledger.committing = true →
    (let l := s.mod.ledger
     let c := if l.useB then l.copyA else l.copyB
     let m1 := { s.mod with ledger := { (putOther l { c with valid := true }) with
       committing := false, useB := !l.useB, committedNext := c.next, wear := l.wear + 1 } }
     exec .ledgerCommitDone s = .next (s.withMod (if l.again = true then beginCommit m1 else m1))))
  ∧ (∀ (hs : HostId) (e : SqEntry) (h : HostSide) (s : State) (m : Mod) (c : Cmd), Taken (.admin hs) e h 0x50 s m c →
    entryClean e false true false [(0, 8), (64, 64)] = true →
    exec (.ledgerRead (.admin hs) e h) s = .next (s.withMod (
      if 5 ≤ argN e 0 1 then completeS m (.admin hs) e.cid .notFound
      else
        let x := (ledgerRecords m (argN e 0 1) (argN e 8 8) e.len0.toNat).getD ([], 0)
        complete (if x.1.isEmpty then m else bufWrite m (.admin hs) e.cid e.addr0.toNat x.1.flatten) (.admin hs)
          { compl e.cid .ok with result0 := x.1.length, result1 := x.2 })))
  ∧ (∀ (hs : HostId) (e : SqEntry) (h : HostSide) (s : State) (m : Mod) (c : Cmd), Taken (.admin hs) e h 0x51 s m c →
    entryClean e false false false [(64, 64)] = true →
    exec (.timeSet (.admin hs) e h) s = .next (s.withMod (
      let utc := argN e 8 8
      let l := m.ledger
      let off : Int := (utc : Int) - (c.decodeTime : Int)
      if utc < 1577836800000000000 then completeS m (.admin hs) e.cid .badDescriptor
      else complete (ledgerAdd { m with ledger := { l with
          utcValid := true, utcOffset := off,
          counters := if l.counters.firstUtc = 0 then { l.counters with firstUtc := utc, firstUtcTime := c.decodeTime } else l.counters } }
          0 0 0 (payload [(0, 64, ldgOffset l), (64, 64, (BitVec.ofInt 64 off).toNat)])) (.admin hs)
        { compl e.cid .ok with result1 := c.decodeTime })))

/-- Start-up begins with PWR_EN, and waits for VIN, a reference and coolant. PWR_EN starts the module from the off
state: with VIN in range it goes on to the management step, else it waits there; VIN back in range goes on. With a
reference it goes on to the images, configuration and ledger, else it waits; 1 s without one shows code 0x03 with
FAULT_N, and a returning reference goes on with code 0x11. Coolant outside its range waits with code 0x10; in range
the domains and slices start and PWR_GOOD follows. (17_startup_and_shutdown.md R481, R482, R483, R485;
19_electrical_and_mechanical.md R514) -/
def Obligations.StartUp : Prop :=
  (∀ (env : StartEnv) (s : State), s.mod.pins.pwrEn = false →
    exec (.pwrEnAssert env) s = .next (s.withMod (smbWatch (fun _ =>
      let m := measureVin (allOff { s.mod with pins := { s.mod.pins with pwrEn := true, ctlVdd := true } }) env.vinMv
      let m1 := { m with startup := { m.startup with env := some env } }
      if 32000 ≤ env.vinMv ∧ env.vinMv ≤ 40000 then startManagement s.fuses env m1
      else { m1 with startup := { m1.startup with step := 1, waitSince := some m1.time } }) s.mod)))
  ∧ (∀ (mv : Nat) (env : StartEnv) (s : State), waitingAt s.mod 1 = some env →
    exec (.vinRangeWait mv) s = .next (s.withMod (smbWatch (fun m =>
      let m1 := { m with pwr := { m.pwr with vinMv := sat16 mv, vinOk := vinInRange mv } }
      if 32000 ≤ mv ∧ mv ≤ 40000 then startManagement s.fuses env m1 else m1) s.mod)))
  ∧ (∀ (env : StartEnv) (s : State), waitingAt s.mod 2 = some env →
    exec .refClockWait s = .next (s.withMod (smbWatch (fun m =>
        { m with startup := { m.startup with code := 3 }, pins := { m.pins with fault := true } }) s.mod))
    ∧ (s.mod.pwr.mgmtOn ≠ 0 → ∀ ref1 : Bool, exec (.referenceReturn ref1) s = .next (s.withMod (smbWatch (fun m =>
        let m1 := { m with
          clk := (if ref1 then { m.clk with ref1 := true } else { m.clk with ref0 := true }),
          pins := { m.pins with fault := false }, startup := { m.startup with code := 0x11 } }
        startImages s.fuses env { m1 with clk := { m1.clk with sel1 := !m1.clk.ref0, mgmtLock := true } }) s.mod))))
  ∧ (∀ (inlet flow : Nat) (env : StartEnv) (s : State), waitingAt s.mod 4 = some env →
    exec (.coolantWaitCheck inlet flow) s = .next (s.withMod (smbWatch (fun m0 =>
      let m := { m0 with thm := { m0.thm with inletDc := sat16 inlet, flowDl := sat16 flow } }
      if 400 < inlet ∨ flow < 400 then
        { m with startup := { m.startup with step := 4, waitSince := some m.time, code := 0x10 } }
      else
        finishStart env (forAll (startCores s.fuses env (setStep (setCode m 0x11) 5)) (List.range 16) startGroup)) s.mod)))

/-- SHUTDOWN stops every partition, parks, commits and powers down; pins do so at once. SHUTDOWN ends an activation,
holds every partition and ends its sequence commands, then parks until the deadline where PARK is set, and powers down
when nothing parks. The park timeout puts back the sequences that were parking. PWR_EN withdrawn, MOD_RST_N and the
loss of CTL_VDD commit the ledger and switch everything off; MOD_RST_N keeps a latched trip, released it starts the
module unless one is latched. (17_startup_and_shutdown.md R487, R488, R489, R490; 19_electrical_and_mechanical.md
R515, R516) -/
def Obligations.ShutDown : Prop :=
  (∀ (hs : HostId) (e : SqEntry) (h : HostSide) (s : State) (m : Mod) (c : Cmd), Taken (.admin hs) e h 0x5C s m c →
    entryClean e false false false [(0, 1), (32, 32)] = true →
    exec (.shutdown (.admin hs) e h) s = .next (s.withMod (
      smbWatch (fun _ =>
        let ms := argN e 4 4
        let dl := if bit e.args 0 then some (m.time + 1000000 * (if ms = 0 then 60000 else ms)) else none
        let m1 := abortActivation (runningCmd m (.admin hs) c)
        let m2 := { m1 with startup := { m1.startup with
          shutdown := true, shutCmd := some (.admin hs, e.cid), parkedCount := 0, parkPart := 0, parkDeadline := dl } }
        shutWork (forAll m2 (partIds m2) stopPart)) s.mod)))
  ∧ (∀ (s : State), s.mod.startup.shutCmd.isSome = true → s.mod.startup.parkDeadline.isSome = true →
    exec .shutdownParkTimeout s = .next (s.withMod (smbWatch (fun m =>
      shutWork { m with
        parts := m.parts.map (fun px => (px.1, { px.2 with seqs := px.2.seqs.map (fun q =>
          if q.state = .parking then { q with state := beforePark q } else q) })),
        startup := { m.startup with parkPart := 16 } }) s.mod)))
  ∧ (∀ (s : State), s.mod.pins.pwrEn = true →
    (let off := stopAll s.mod
     exec .pwrEnWithdraw s = .next (s.withMod (smbWatch (fun _ =>
       { off with pins := { off.pins with pwrEn := false, modRst := false, fault := false, hotTrip := false } }) s.mod))
     ∧ (s.mod.pins.modRst = false → exec .modRstN s = .next (s.withMod (smbWatch (fun _ =>
         { off with pins := { off.pins with
             modRst := true, fault := s.mod.pins.fault && s.mod.startup.step == 0 } }) s.mod)))
     ∧ exec .ctlVddLoss s = .next (s.withMod (smbWatch (fun _ =>
         { off with pins := { off.pins with
             pwrEn := false, modRst := false, fault := false, hotTrip := false, ctlVdd := false } }) s.mod))))
  ∧ (∀ (env : StartEnv) (s : State), s.mod.pins.modRst = true →
    exec (.modRstNRelease env) s = .next (s.withMod (smbWatch (fun m =>
      let m1 := { m with pins := { m.pins with modRst := false } }
      if m.pins.pwrEn = true ∧ m.pins.fault = false ∧ m.pins.hotTrip = false then beginStart s.fuses env m1 else m1) s.mod)))

/-- The module event ring starts and takes head doorbells; the emergency hold needs its keys. EV_ENABLE with a size
outside 6 to 16 puts the ring in ERROR 3, else it starts at index 0 with PHASE 1 and takes the held records. A head
doorbell beyond the ring or past the tail is ERROR 2, else it frees records. 0x48E1 then 0x1E84 within 1 ms opens the
hold; the next write of GLB_EHOLD holds or releases each partition it names, with the ledger entry; without the
sequence, or a release after SHUTDOWN, it is refused. (18_address_map_and_setup_registers.md R503, R505, R508, R509) -/
def Obligations.EventRingAndEmergencyHold : Prop :=
  (∀ (h : HostId) (s : State), (hostOf s.mod h.val).linkUp = true →
    (let m := eholdClose h.val s.mod
     let r := (hostOf m h.val).ring
     (r.enable = false → (r.log2 < 6 ∨ 16 < r.log2) → exec (.evEnable h) s = .next (s.withMod (
       evError (updHost m h.val (fun x => { x with ring := { x.ring with enable := true } })) h.val 3)))
     ∧ (r.enable = false → 6 ≤ r.log2 → r.log2 ≤ 16 → exec (.evEnable h) s = .next (s.withMod (
       evDrain (updHost m h.val (fun x => { x with ring := { x.ring with
         enable := true, state := .active, error := 0, tail := 0, phase := true, head := 0, unannounced := 0, oldest := 0 } })) h.val)))
     ∧ (r.enable = true → exec (.evEnable h) s = .next (s.withMod m))
     ∧ (∀ v : BitVec 16, r.state = .active →
         exec (.evHeadDoorbell h v) s = .next (s.withMod (
           if 2 ^ r.log2 ≤ v.toNat ∨ ringDist (2 ^ r.log2) r.head r.tail < ringDist (2 ^ r.log2) r.head v.toNat then evError m h.val 2
           else evDrain (updHost m h.val (fun x => { x with ring := { x.ring with head := v.toNat } })) h.val)))))
  ∧ (∀ (h : HostId) (v : BitVec 32) (s : State), (hostOf s.mod h.val).linkUp = true → rmAlive s.mod = true →
    exec (.eholdKey h v) s = .next (s.withMod (
      let m := eholdClose h.val s.mod
      updHost m h.val (fun x => { x with
        eholdFirst := if fld v 0 16 = 0x48E1 then some s.mod.time else none,
        eholdOpen := fld v 0 16 == 0x1E84 && (hostOf m h.val).eholdFirst.any (fun t => s.mod.time ≤ t + 1000000) }))))
  ∧ (∀ (h : HostId) (ps : BitVec 16) (s : State), (hostOf s.mod h.val).linkUp = true →
    (let m := eholdClose h.val s.mod
     let named := (bitsOf ps).filter (fun p => (partOf? m p).isSome)
     ((hostOf s.mod h.val).eholdOpen = false →
       exec (.emergencyHold h ps) s = .next (s.withMod { m with eholdRefused := true })
       ∧ exec (.emergencyRelease h ps) s = .next (s.withMod { m with eholdRefused := true }))
     ∧ ((hostOf s.mod h.val).eholdOpen = true → rmAlive m = true →
       exec (.emergencyHold h ps) s = .next (s.withMod (
         forAll (postLedger { m with eholdRefused := false } 0x0B02 none 0 0
           (eholdPayload { m with eholdRefused := false } named false h.val)) named adminHold))
       ∧ (m.startup.shutdown = false → exec (.emergencyRelease h ps) s = .next (s.withMod (
         forAll (postLedger { m with eholdRefused := false } 0x0B02 none 0 0
           (eholdPayload { m with eholdRefused := false } named true h.val)) named adminRelease))))))

/-- Register writes reach their block, reads answer and latch, other accesses are counted. Through a trained link an
aligned 4-byte write reaches function 0, or the partition function of its owner, and is discarded elsewhere; a read
answers the register's value, and one of a _LO register latches its _HI for that site. A misaligned access, and any
access not of 4 or 8 naturally aligned bytes, is counted; a read of that kind is aborted. Beyond the function's BAR0 a
write does nothing and a read is aborted. (18_address_map_and_setup_registers.md R492, R495, R496, R498; 09_host_rings_and_commands.md R290, R291; 02_core.md R79) -/
def Obligations.RegisterAccesses : Prop :=
  (∀ (h : HostId) (fn : Fin 17) (off : Nat) (v : BitVec 32) (s : State), (hostOf s.mod h.val).linkUp = true →
    (inBar fn.val off = false → exec (.registerWrite h fn off v) s = .next s)
    ∧ (inBar fn.val off = true → off % 4 ≠ 0 → exec (.registerWrite h fn off v) s = .next (s.withMod (countBad s.mod)))
    ∧ (inBar fn.val off = true → off % 4 = 0 → fn.val = 0 → exec (.registerWrite h fn off v) s = .next (s.withMod (writeFn0 s.fuses h off v s.mod)))
    ∧ (inBar fn.val off = true → off % 4 = 0 → fn.val ≠ 0 →
        (∃ x, partOf? s.mod (fn.val - 1) = some x ∧ partHost x = h.val) →
        exec (.registerWrite h fn off v) s = .next (s.withMod (writePfn h.val (fn.val - 1) off v s.mod)))
    ∧ (off % 4 = 0 → fn.val ≠ 0 → (∀ x, partOf? s.mod (fn.val - 1) = some x → partHost x ≠ h.val) →
        exec (.registerWrite h fn off v) s = .next s))
  ∧ (∀ (h : HostId) (fn : Fin 17) (off : Nat) (s : State), (hostOf s.mod h.val).linkUp = true →
    (inBar fn.val off = true → off % 4 ≠ 0 → exec (.loReadLatch h fn off) s = .next (s.withMod
        { (countBad s.mod) with resp := 0, aborted := true }))
    ∧ (inBar fn.val off = false → exec (.loReadLatch h fn off) s = .next (s.withMod { s.mod with resp := 0, aborted := true }))
    ∧ (off % 4 = 0 → readReg s.fuses s.mod h.val fn.val off = none →
        exec (.loReadLatch h fn off) s = .next (s.withMod { s.mod with resp := 0, aborted := true }))
    ∧ (∀ v, off % 4 = 0 → readReg s.fuses s.mod h.val fn.val off = some v →
        exec (.loReadLatch h fn off) s = .next (s.withMod (
          let m1 := { s.mod with resp := BitVec.ofNat 64 v, aborted := false }
          if fn.val = 0 ∧ isHi (off + 4) = true then
            updHost m1 h.val (fun x => { x with
              hiLatch := mput 0 x.hiLatch (off + 4) (BitVec.ofNat 32 (fn0Reg s.fuses s.mod h.val (off + 4))) })
          else m1))))
  ∧ (∀ (h : HostId) (a : Access) (s : State), (hostOf s.mod h.val).linkUp = true →
    (plainAccess a = true → exec (.badAccess h a) s = .next s)
    ∧ (plainAccess a = false → a.write = true → exec (.badAccess h a) s = .next (s.withMod (countBad s.mod)))
    ∧ (plainAccess a = false → a.write = false → exec (.badAccess h a) s = .next (s.withMod
        { (countBad s.mod) with resp := 0, aborted := true })))

/-- The SMBus and JTAG ports answer while the management domains are up. With the management domains up each read
command answers its value; the debug console only at debug level 0, what it answers being a free value; the alert
response answers the module's address and releases SMB_ALERT_N, where it is asserted. With them down no command is
acknowledged. A read changes nothing but the answer. With the management domains up BYPASS puts one 0 bit before TDI,
IDCODE shows 0x1A52_C0F3 with the stepping in its version field, SAMPLE/PRELOAD shows the pins and takes the preloaded
values, EXTEST drives them. A private instruction is accepted with JTAG_LOCK unblown at debug level 0, at level 1
without partitions, its register being a free value; else BYPASS is selected and it is not answered (a model choice,
see the log). (19_electrical_and_mechanical.md R518, R519; 12_partitions_modes_protection.md R404;
17_startup_and_shutdown.md R485) -/
def Obligations.ManagementPorts : Prop :=
  (∀ (s : State),
    (let ans (v : Nat) : State := s.withMod { s.mod with resp := BitVec.ofNat 64 v, aborted := false }
     let nack : State := s.withMod { s.mod with resp := 0, aborted := true }
     (s.mod.pwr.mgmtOn ≠ 0 →
       exec .smbStartCode s = .next (ans s.mod.startup.code)
       ∧ exec .smbStatus s = .next (ans (b2n s.mod.pins.pwrGood + 2 * b2n s.mod.pins.fault + 4 * b2n s.mod.thm.minclk
           + 8 * b2n s.mod.startup.shutdown + 16 * b2n s.mod.startup.lastTrip))
       ∧ exec .smbVin s = .next (ans s.mod.pwr.vinMv)
       ∧ exec .smbInputPower s = .next (ans s.mod.pwr.pinW)
       ∧ (s.mod.startup.step < 4 → exec .smbHottestSite s = .next (ans 0xFFFF))
       ∧ (4 ≤ s.mod.startup.step → ∀ i, hottest s.mod (s.mod.sites.map Prod.fst) = some i →
           exec .smbHottestSite s = .next (ans (siteTemp s.mod i)))
       ∧ exec .smbCoolantInlet s = .next (ans s.mod.thm.inletDc)
       ∧ exec .smbCoolantOutlet s = .next (ans s.mod.thm.outletDc)
       ∧ exec .smbFlow s = .next (ans s.mod.thm.flowDl)
       ∧ exec .smbModuleId s = .next (ans s.fuses.moduleId.toNat)
       ∧ exec .smbGrade s = .next (ans s.fuses.grade)
       ∧ (s.fuses.debugLevel = 0 → ∀ bs, exec (.smbDebugConsole true bs) s = .next (s.withMod
           { s.mod with pins := { s.mod.pins with console := bs }, resp := 0, aborted := false })
         ∧ exec (.smbDebugConsole false bs) s = .next (s.withMod
             (bumpFree { s.mod with resp := BitVec.ofNat 64 (Config.freeWord s.mod.freeCount).toNat, aborted := false })))
       ∧ (s.fuses.debugLevel ≠ 0 → ∀ w bs, exec (.smbDebugConsole w bs) s = .next nack)
       ∧ (s.mod.pins.smbAlert = true → exec .smbAlertResponse s = .next (s.withMod
           { s.mod with resp := BitVec.ofNat 64 (0x58 + s.mod.pins.straps), aborted := false,
                        pins := { s.mod.pins with smbAlert := false } }))
       ∧ (s.mod.pins.smbAlert = false → exec .smbAlertResponse s = .next nack))
     ∧ (s.mod.pwr.mgmtOn = 0 → ∀ c w bs,
         c ∈ [Instr.smbStartCode, .smbStatus, .smbVin, .smbInputPower, .smbHottestSite, .smbCoolantInlet, .smbCoolantOutlet,
              .smbFlow, .smbModuleId, .smbGrade, .smbDebugConsole w bs, .smbAlertResponse] →
         exec c s = .next nack)))
  ∧ (∀ (s : State), s.mod.pwr.mgmtOn ≠ 0 →
    (let shown (k : JtagInstr) (dr : List Bool) (p : Pins) : Mod :=
       { s.mod with resp := BitVec.ofNat 64 (bitsVal (dr.take 64)), aborted := false,
                    pins := { p with jtagIr := k, dr := dr } }
     let p0 : Pins := { s.mod.pins with driven := none }
     (∀ tdi, exec (.bypass tdi) s = .next (s.withMod (shown .bypass (false :: tdi) p0)))
     ∧ (∀ pins, exec (.samplePreload pins none) s = .next (s.withMod (shown .samplePreload pins p0)))
     ∧ (∀ pins tdi, exec (.samplePreload pins (some tdi)) s = .next (s.withMod (shown .samplePreload pins { p0 with scan := tdi })))
     ∧ (∀ pins, exec (.extest pins) s = .next (s.withMod (shown .extest pins { p0 with driven := some s.mod.pins.scan })))
     ∧ exec .idcode s = .next (s.withMod (shown .idcode
         (bitList (putFld (0x1A52C0F3#32) 28 4 (1 + s.fuses.stepping.toNat))) p0))
     ∧ (∀ code, jtagAllowed s.fuses s.mod = true → exec (.privateJtagInstruction code) s = .next (s.withMod
         (bumpFree (shown (.own code) (bitList (Config.freeWord s.mod.freeCount)) p0))))
     ∧ (∀ code, jtagAllowed s.fuses s.mod = false → exec (.privateJtagInstruction code) s = .next (s.withMod
         { (shown .bypass [false] p0) with resp := 0, aborted := true }))))

/-- Sites, regions and local indices are numbered by the formulas of R15, in both directions. For x 0 to 31 and y 0 to
47 the site id 32 y + x lies in 0 to 1535, its region is 8 (y div 6) + x div 4 in 0 to 63, its local index 4 (y mod 6)
+ x mod 4 in 0 to 23; a region and a local index give back the site by the converse formulas.
(01_wafer_organisation.md R15) -/
def Obligations.GridNumbering : Prop :=
  (∀ x y : Nat, x < 32 → y < 48 →
    xOf (32 * y + x) = x ∧ yOf (32 * y + x) = y ∧ 32 * y + x < 1536
    ∧ regionOf (32 * y + x) = 8 * (y / 6) + x / 4 ∧ x / 4 < 8 ∧ y / 6 < 8 ∧ regionOf (32 * y + x) < 64
    ∧ localOf (32 * y + x) = 4 * (y % 6) + x % 4 ∧ x % 4 < 4 ∧ y % 6 < 6 ∧ localOf (32 * y + x) < 24)
  ∧ (∀ r l : Nat, r < 64 → l < 24 →
    xOf (siteAt r l) = 4 * (r % 8) + l % 4 ∧ yOf (siteAt r l) = 6 * (r / 8) + l / 4
    ∧ siteAt r l = 32 * yOf (siteAt r l) + xOf (siteAt r l) ∧ regionOf (siteAt r l) = r ∧ localOf (siteAt r l) = l)
  ∧ (∀ s : Nat, s < 1536 → siteAt (regionOf s) (localOf s) = s)

/-- E8M0 scale codes and the E2M1, E2M3 and E3M2 element codes decode to their values. In a format with E8M0 scales
the code c up to 254 scales by 2^(c - 127) and 0xFF makes every element of its block NaN. The positive E2M1, E2M3 and
E3M2 codes decode to the values of the tables, in units of the element grid 2^-1, 2^-3, 2^-4; E2M1 codes 0x8 to 0xF
are the same values negated, 0x8 being zero. (03_narrow_arithmetic.md R83; 03_narrow_arithmetic.md R85;
03_narrow_arithmetic.md R86; 03_narrow_arithmetic.md R87) -/
def Obligations.ElementValues : Prop :=
  (∀ (code : Nat) (f : Packed), packedOf code = some f → code ≠ 0x08 →
    (∀ c, c ≤ 254 → scaleExp f c = some ((c : Int) - 127))
    ∧ scaleExp f 0xFF = none
    ∧ (∀ el v e, el = Elem.num v → scaled f el (some e) = .fin (decide (v < 0)) v.natAbs (f.g + e))
    ∧ (∀ el, scaled f el (scaleExp f 0xFF) = .nan))
  ∧ (∀ f, packedOf 0x01 = some f → f.g = -1
    ∧ (List.range 16).map (elemOf f) = [0, 1, 2, 3, 4, 6, 8, 12, 0, -1, -2, -3, -4, -6, -8, -12].map Elem.num)
  ∧ (∀ f, packedOf 0x02 = some f → f.g = -3
    ∧ (List.range 32).map (elemOf f) = [0, 1, 2, 3, 4, 5, 6, 7, 8, 9, 10, 11, 12, 13, 14, 15,
        16, 18, 20, 22, 24, 26, 28, 30, 32, 36, 40, 44, 48, 52, 56, 60].map Elem.num)
  ∧ (∀ f, packedOf 0x03 = some f → f.g = -4
    ∧ (List.range 32).map (elemOf f) = [0, 1, 2, 3, 4, 5, 6, 7, 8, 10, 12, 14, 16, 20, 24, 28,
        32, 40, 48, 56, 64, 80, 96, 112, 128, 160, 192, 224, 256, 320, 384, 448].map Elem.num)

/-- A step runs the command at the front of the queue on the rest; an empty queue lets a clock cycle pass (model
choice, log entry 1). For every command and every state whose queue has it in front, a step is that command's effect
on the state with the queue's rest; on an empty queue a step is one TCLK cycle, and changes nothing while the
management domains are off. The queue and the cycle are the model's own choice. (18_address_map_and_setup_registers.md
R495; 02_core.md R46) -/
def Obligations.FrontOfTheQueue : Prop :=
  (∀ (c : Instr) (rest : List Instr) (s : State), s.pending = c :: rest → step s = exec c { s with pending := rest })
  ∧ (∀ (s : State), s.pending = [] → step s = tick s ∧ (s.mod.pwr.mgmtOn = 0 → step s = .next s))

/-- An instruction of the matrix engine, the delta lane or the vector engine changes its own core only. Whatever the
state, such an instruction answers a next state in which the fuses, the queue, and every part of the module but its
site's core, its region's first-fault record and the fault reports stand as before; of its site only the core may
change, and at most one report is added, which names that site and a partition. So one partition's compute can neither
write nor stop another's. (02_core.md R45, R46, R53, R78) -/
def Obligations.EngineInstructionsAreLocal : Prop :=
  ∀ (i : Issue) (s : State) (c : Instr),
    c ∈ [Instr.mmul i, .dapply i, .nop i, .copy i, .quant i, .dequant i, .add i, .mul i, .scale i,
         .rmsnorm i, .layernorm i, .softmax i, .act i, .gate i, .rope i, .accClear i, .setp i] →
    ∃ t, exec c s = .next (s.withMod t) ∧ CoreOnly s.mod t i.site.val

/-- A queue of well-formed commands never stops the block, and each step takes exactly the front command. In every
state whose queue holds only commands that can reach the block, a step answers a next state whose queue is the rest of
the one before; so the queue stays well formed. A step stops only at a message whose lines are not those its header
counts, with the fault of that name. (09_host_rings_and_commands.md R301; 18_address_map_and_setup_registers.md R495) -/
def Obligations.EveryStepAnswers : Prop :=
  (∀ s : State, QueueOk s → ∃ t, step s = .next t ∧ t.pending = s.pending.tail ∧ QueueOk t)
  ∧ (∀ (s : State) (f : Fault), step s = .fault f →
      f = .illFormed ∧ ∃ c rest, s.pending = c :: rest ∧ c.wellFormed = false)
  ∧ (∀ (s : State) (r : Refusal), step s ≠ .refused r)

/-- Every step keeps what the fuses have blown: protection never falls, the manufacture fields never change. Take any
fuses, and say of a state that its fuses have grown from them: every revoked key, the rollback counter, the debug
level and both locks stand at least where they stood, and the fields of manufacture are the same. If a state has that
property and a step answers a next state, the next state has it; only FUSE_PROGRAM_DONE with an operation in progress
changes the fuses at all. (12_partitions_modes_protection.md R396, R397, R404) -/
def Obligations.FusesOnlyGrow : Prop :=
  ∀ (f : Fuses) (s t : State), FusesGrow f s.fuses → step s = .next t →
    FusesGrow f t.fuses
    ∧ (t.fuses ≠ s.fuses → ∃ rest o, s.pending = .fuseProgramDone :: rest ∧ s.mod.sec.busy = some o ∧ t.fuses = blow s.fuses o)

/-- Reset leaves the module off with an empty queue, and what the steps keep holds there. At reset (the module off, a
model choice, log entries 3 to 7) nothing waits, no domain is on and no partition exists, the four host sites and 16
port groups stand at their reset values, the queue is well formed and the fuses have grown from themselves; time does
not pass until the module is started. (17_startup_and_shutdown.md R481, R487; 12_partitions_modes_protection.md R396;
15_faults_and_live_service.md R466) -/
def Obligations.ResetState : Prop :=
  State.reset.pending = [] ∧ QueueOk State.reset ∧ FusesGrow State.reset.fuses State.reset.fuses
  ∧ State.reset.mod.pwr.mgmtOn = 0 ∧ State.reset.mod.parts = [] ∧ State.reset.mod.startup.step = 0
  ∧ State.reset.mod.pins.pwrGood = false ∧ State.reset.mod.nodeId = 0xFF
  ∧ State.reset.mod.hosts = List.replicate 4 HostSite.reset ∧ State.reset.mod.groups.length = 16
  ∧ step State.reset = .next State.reset

/-- Stored pages, plan loads, domains, headroom and clocks complete. Each of the rows of these thirteen kinds answers a
next state with its own effect wherever the state and the operands meet the spec's conditions: a verified record fills
the page it was read for; a load that passes every check begins, a verified chunk is written and an unload that may
happen now takes the plan away; a free domain is switched, a ramp that does not trip turns its region ON or WARM, a
region that waited caps the others, a measured quadrant starts the next; a lost reference gives way to the present one,
a returned one counts as present, an unlocked PLL stops its clock, a locked one gives it back, a half at 96 °C runs at
750 MHz and a cooled one at 1,500 MHz. (08_sequences_and_kv_cache.md R277; 07_plans_and_compiler_contract.md R241, R245;
09_host_rings_and_commands.md R303; 13_power_delivery.md R408, R409, R424, R425; 14_clocks_temperature_cooling.md R430, R433; 06_fabric_beats_frames.md R202) -/
def Obligations.LoadsPowerAndClocksComplete : Prop :=
  ((∀ (p : PartId) (bs : List Byte) (s : State) (x : Part) (pl : Plan) (t : StoreRead) (rest : List StoreRead) (f : Packed)
      (r : RingRef) (c : Cmd),
    partOf? s.mod p.val = some x → s.mod.requests.any (fun q => q.part = p.val && !q.write && q.cls = 2) = false →
    x.storeReads = t :: rest → x.plan = some pl → recordVerifies pl bs = true → recordFits pl t.copy bs = true →
    packedOf pl.cacheFormat = some f → runningOf p.val x 7 t.handle = some (r, c) →
    ∃ m y g pg, exec (.storeReadData p false bs) s = .next (s.withMod (
        storeWork (updCmd (fillPage m pl f g bs) r c.entry.cid (fun d => { d with done := d.done + 1 })) p.val))
      ∧ partOf? m p.val = some y ∧ y.storeReads = rest ∧ mget? y.pages g = some pg ∧ pg.copy = some t.copy
      ∧ pg.positions = t.copy.positions)
  ∧ (∀ (r : RingRef) (e : SqEntry) (h : HostSide) (s : State) (m : Mod) (c : Cmd) (p : Nat) (x : Part),
    Taken r e h 0x20 s m c → OnPart m r p x →
    entryClean e false true true [(0, 64), (64, 64), (128, 64), (192, 8), (200, 8)] = true → argN e 24 1 ≤ 64 →
    argN e 25 1 = 0 → argN e 16 8 % 8 = 0 → argN e 0 8 % 8 = 0 → 64 ≤ e.len1.toNat → x.plan = none → x.load = none →
    planBuffers (hostOf m (ringHost m r)) e = true →
    (let img := hostRead (hostOf m (ringHost m r)) e.addr0.toNat e.len0.toNat
     let vals := (List.range (argN e 24 1)).map (fun i => leNat (hostRead (hostOf m (ringHost m r)) (argN e 16 8 + 8 * i) 8))
     planChecks s.fuses m p x img e.len0.toNat vals = .ok () →
     exec (.planLoad r e h) s = .next (s.withMod (
       beginLoad m r c p x (buildPlan s.fuses m p x img vals 0 (argN e 0 8) (argN e 8 8)) (secIdx img 0x0033 0xFFFFFFFF))))))
  ∧ ((∀ (p : PartId) (bs : List Byte) (s : State) (x : Part) (l : Load) (k : Chunk) (site : Nat) (vc : VCore),
    partOf? s.mod p.val = some x → x.load = some l → l.headerDue = false → l.plan.chunks[l.next]? = some k →
    l.plan.source = 0 → bs.length = 72 * k.lines → crc32c bs = k.crc → l.plan.sites[k.vcore]? = some site →
    l.plan.vcores[k.vcore]? = some vc →
    ∃ m, partOf? m p.val = some { x with load := some (saveSlice s.mod site l) } ∧
      exec (.weightChunkArrive p bs false) s = .next (s.withMod (
        awaitChunk (writeLines m site (vc.vsegBase.getD k.vseg 0 + k.voff) (bytesLines bs) []) p.val (l.next + 1))))
  ∧ (∀ (r : RingRef) (e : SqEntry) (h : HostSide) (s : State) (m : Mod) (c : Cmd) (p : Nat) (x : Part),
    Taken r e h 0x21 s m c → OnPart m r p x → entryClean e false false false [] = true → x.load = none →
    x.plan.isSome = true → unloadNow m x = true →
    exec (.planUnload r e h) s = .next (s.withMod (completeS (unloadPlan m p) r e.cid .ok))))
  ∧ ((∀ (v : BitVec 32) (s : State), 128 ≤ fld v 0 8 → fld v 0 8 < 144 →
      (groupOf s.mod (fld v 0 8 - 128)).enable = false → (groupOf s.mod (fld v 0 8 - 128)).owner = none →
      ∃ t, exec (.domainCmd v) s = .next (s.withMod t) ∧ t.pwr.cmdRefused = false ∧ t.pwr.reason = 0
        ∧ t.groups = (updGroup s.mod (fld v 0 8 - 128) (fun z => { z with domainOn := bit v 8 })).groups)
  ∧ (∀ (r : RegionId) (s : State), (regionAt s.mod r.val).power.core = .ramp → ∃ m,
      exec (.regionRampDone r false) s = .next (s.withMod (startNext m (quadrantOf r.val)))
      ∧ (regionAt m r.val).power.core = if isSpareRegion r.val && !(regionAt s.mod r.val).standin then .warm else .on)
  ∧ (∀ (r : RegionId) (s : State), (regionAt s.mod r.val).power.core = .wait → ∃ t,
      exec (.headroomCapTimeout r) s = .next (s.withMod t)
      ∧ ∀ k ∈ quadRegions (quadrantOf r.val), k ≠ r.val → coreUp s.mod k = true → (regionAt t k).power.capped = true)
  ∧ (∀ (q : Fin 4) (w : Nat) (s : State), ∃ m, exec (.quadrantHeadroomStart q w) s = .next (s.withMod (startNext m q.val))
      ∧ m.pwr.quadW = s.mod.pwr.quadW.set q.val (sat16 w)))
  ∧ ((∀ (s : State), refPresent s.mod.clk = true → (if s.mod.clk.sel1 then s.mod.clk.ref0 else s.mod.clk.ref1) = true →
      ∃ t, exec .clkRefLoss s = .next (s.withMod t) ∧ t.clk.sel1 = !s.mod.clk.sel1
        ∧ t.clk.refLoss = sat32 (s.mod.clk.refLoss + 1) ∧ (if s.mod.clk.sel1 then t.clk.ref1 else t.clk.ref0) = false)
  ∧ (∀ (ref1 : Bool) (s : State), s.mod.pwr.mgmtOn ≠ 0 → waitingAt s.mod 2 = none →
      ∃ t, exec (.referenceReturn ref1) s = .next (s.withMod t) ∧ (if ref1 then t.clk.ref1 else t.clk.ref0) = true)
  ∧ (∀ (k : Fin 4) (s : State), ∃ m,
      exec (.pllLockLoss k) s = .next (s.withMod (
        if k.val = 0 then doSeamDown true m else if k.val = 1 then doSeamDown false m
        else if k.val = 2 then seamFalls (fun _ => true) m else m))
      ∧ (k.val = 0 → m.clk.fclkWLock = false ∧ m.clk.wMhz = 0) ∧ (k.val = 1 → m.clk.fclkELock = false ∧ m.clk.eMhz = 0)
      ∧ (k.val = 2 → m.clk.sclkLock = false) ∧ (k.val = 3 → m.clk.mgmtLock = false))
  ∧ (∀ (k : Fin 4) (s : State), ∃ t, exec (.pllRelock k) s = .next (s.withMod t)
      ∧ (k.val = 0 → t.clk.fclkWLock = true ∧ t.clk.wMhz = if s.mod.thm.fabricW then 750 else 1500)
      ∧ (k.val = 1 → t.clk.fclkELock = true ∧ t.clk.eMhz = if s.mod.thm.fabricE then 750 else 1500)
      ∧ (k.val = 2 → t.clk.sclkLock = true) ∧ (k.val = 3 → t.clk.mgmtLock = true))
  ∧ (∀ (east : Bool) (s : State),
      (let red (m : Mod) : Bool := if east then m.thm.fabricE else m.thm.fabricW
       let mhz (m : Mod) : Nat := if east then m.clk.eMhz else m.clk.wMhz
       (if east then s.mod.clk.fclkELock else s.mod.clk.fclkWLock) = true →
       (red s.mod = false → halfAt s.mod east 384 = true → ∃ t, exec (.fabricClockChange east) s = .next (s.withMod t)
         ∧ red t = true ∧ mhz t = 750)
       ∧ (red s.mod = true → s.mod.thm.minclk = false → halfAt s.mod east 360 = false →
         coolFor s.mod (if east then 1 else 0) = true → ∃ t, exec (.fabricClockChange east) s = .next (s.withMod t)
         ∧ red t = false ∧ mhz t = 1500))))
end

