-- ==== Sys2Proof/Laws/Bits.lean ====
section
/-! SUPPORT. What the bit-field operations do to each bit (R8). -/
namespace Sys2Proof.Machine
open Sys2Proof

theorem putFld_toNat {n : Nat} (w : BitVec n) (lo len v : Nat) :
    w.toNat - at_ lo len (fld w lo len) + at_ lo len v
      = 2 ^ (lo + len) * (w.toNat / 2 ^ (lo + len)) + (2 ^ lo * (v % 2 ^ len) + w.toNat % 2 ^ lo) := by
  have a := Nat.div_add_mod w.toNat (2 ^ lo)
  have b := Nat.div_add_mod (w.toNat / 2 ^ lo) (2 ^ len)
  have c : w.toNat / 2 ^ (lo + len) = w.toNat / 2 ^ lo / 2 ^ len := by rw [pow_add, Nat.div_div_eq_div_mul]
  simp only [at_, fld, Nat.shiftLeft_eq, Nat.shiftRight_eq_div_pow, Nat.mod_mod, c]
  have d : w.toNat = 2 ^ lo * (2 ^ len * (w.toNat / 2 ^ lo / 2 ^ len) + w.toNat / 2 ^ lo % 2 ^ len) + w.toNat % 2 ^ lo := by
    rw [b, a]
  have e : w.toNat - w.toNat / 2 ^ lo % 2 ^ len * 2 ^ lo
      = 2 ^ (lo + len) * (w.toNat / 2 ^ lo / 2 ^ len) + w.toNat % 2 ^ lo := by
    rw [pow_add]
    generalize w.toNat / 2 ^ lo / 2 ^ len = h at *
    generalize w.toNat / 2 ^ lo % 2 ^ len = mid at *
    generalize w.toNat % 2 ^ lo = low at *
    rw [d]
    have : 2 ^ lo * (2 ^ len * h + mid) + low = mid * 2 ^ lo + (2 ^ lo * 2 ^ len * h + low) := by ring
    rw [this, Nat.add_sub_cancel_left]
  rw [e]; ring

/-- A field after a replacement, bit by bit. -/
theorem testBit_putFld {n : Nat} (w : BitVec n) (lo len v j : Nat) :
    (putFld w lo len v).toNat.testBit j
      = (decide (j < n) && if lo ≤ j ∧ j < lo + len then v.testBit (j - lo) else w.toNat.testBit j) := by
  have hl : w.toNat % 2 ^ lo < 2 ^ lo := Nat.mod_lt _ (by positivity)
  have hv : v % 2 ^ len < 2 ^ len := Nat.mod_lt _ (by positivity)
  have hb : 2 ^ lo * (v % 2 ^ len) + w.toNat % 2 ^ lo < 2 ^ (lo + len) := by
    rw [pow_add]
    calc 2 ^ lo * (v % 2 ^ len) + w.toNat % 2 ^ lo < 2 ^ lo * (v % 2 ^ len) + 2 ^ lo := by omega
      _ = 2 ^ lo * (v % 2 ^ len + 1) := by ring
      _ ≤ 2 ^ lo * 2 ^ len := Nat.mul_le_mul_left _ hv
  rw [putFld, putFld_toNat, BitVec.toNat_ofNat, Nat.testBit_mod_two_pow, Nat.testBit_two_pow_mul_add _ hb,
    Nat.testBit_two_pow_mul_add _ hl]
  congr 1
  by_cases h1 : j < lo + len <;> by_cases h2 : j < lo
  · have h3 : ¬ lo ≤ j := by omega
    simp [h1, h2, h3, Nat.testBit_mod_two_pow]
  · have h3 : lo ≤ j := by omega
    have h4 : j - lo < len := by omega
    simp [h1, h2, h3, h4, Nat.testBit_mod_two_pow]
  · omega
  · have h3 : j - (lo + len) + (lo + len) = j := by omega
    simp [h1, Nat.testBit_div_two_pow, h3]

/-- A bit after another is set. -/
@[simp] theorem bit_setBit {n : Nat} (w : BitVec n) (k : Nat) (b : Bool) (j : Nat) :
    bit (setBit w k b) j = (decide (j < n) && if j = k then b else bit w j) := by
  simp only [bit, setBit, testBit_putFld]
  congr 1
  by_cases h : j = k
  · subst h; cases b <;> simp [b2n]
  · have : ¬ (k ≤ j ∧ j < k + 1) := by omega
    rw [if_neg this, if_neg h]

/-- The field just replaced reads as the value, cut to its width. -/
@[simp] theorem fld_putFld {n : Nat} (w : BitVec n) (lo len v : Nat) (h : lo + len ≤ n) :
    fld (putFld w lo len v) lo len = v % 2 ^ len := by
  apply Nat.eq_of_testBit_eq
  intro j
  rw [fld, Nat.testBit_mod_two_pow, Nat.testBit_mod_two_pow, Nat.testBit_shiftRight, testBit_putFld]
  by_cases hj : j < len
  · have h1 : lo + j < n := by omega
    simp [hj, h1]
  · simp [hj]

/-- A field of `len` bits is below `2 ^ len`. -/
theorem fld_lt {n : Nat} (w : BitVec n) (lo len : Nat) : fld w lo len < 2 ^ len := Nat.mod_lt _ (by positivity)

end Sys2Proof.Machine
end

