-- ==== Sys2Proof/Laws/Maps.lean ====
section
/-! SUPPORT. Sparse maps: a read after a write, and that every memory operation keeps the canonical form. -/
namespace Sys2Proof.Machine
open Sys2Proof

/-- A key just set reads as its value. -/
@[simp] theorem mget?_mset_same {α : Type} (m : SMap α) (k : Nat) (v : α) : mget? (mset m k v) k = some v := by
  induction m with
  | nil => simp [mset, mget?]
  | cons e t ih =>
    obtain ⟨j, w⟩ := e
    simp only [mset]
    split
    · simp [mget?]
    · split
      · simp [mget?]
      · rename_i h
        have : j ≠ k := fun e => h e.symm
        simp [mget?, this, ih]

/-- Every other key reads as before. -/
theorem mget?_mset_ne {α : Type} (m : SMap α) (k : Nat) (v : α) (j : Nat) (h : j ≠ k) : mget? (mset m k v) j = mget? m j := by
  induction m with
  | nil => simp [mset, mget?, h.symm]
  | cons e t ih =>
    obtain ⟨i, w⟩ := e
    simp only [mset]
    split
    · simp [mget?, h.symm]
    · split
      · rename_i h2; subst h2; simp [mget?, h.symm]
      · simp [mget?, ih]

/-- A removed key is unlisted. -/
@[simp] theorem mget?_mdel_same {α : Type} (m : SMap α) (k : Nat) : mget? (mdel m k) k = none := by
  induction m with
  | nil => rfl
  | cons e t ih =>
    obtain ⟨j, w⟩ := e
    by_cases h : j = k <;> simp [mdel, h, ih, mget?]

/-- Removing a key leaves the others. -/
theorem mget?_mdel_ne {α : Type} (m : SMap α) (k j : Nat) (h : j ≠ k) : mget? (mdel m k) j = mget? m j := by
  induction m with
  | nil => rfl
  | cons e t ih =>
    obtain ⟨i, w⟩ := e
    by_cases hi : i = k
    · subst hi; simp [mdel, mget?, h.symm, ih]
    · simp [mdel, hi, mget?, ih]

/-- A cell just written reads as what was written. -/
@[simp] theorem mget_mput_same {α : Type} [DecidableEq α] (d : α) (m : SMap α) (k : Nat) (v : α) : mget (mput d m k v) k d = v := by
  by_cases h : v = d <;> simp [mput, mget, h]

/-- A write leaves every other cell. -/
theorem mget_mput_ne {α : Type} [DecidableEq α] (d : α) (m : SMap α) (k : Nat) (v : α) (j : Nat) (h : j ≠ k) :
    mget (mput d m k v) j d = mget m j d := by
  by_cases hv : v = d <;> simp [mput, mget, hv, mget?_mset_ne, mget?_mdel_ne, h]

/-- Keys that rise strictly from above `b`, with no entry at the default. -/
def Above {α : Type} [DecidableEq α] (d : α) (b : Option Nat) : SMap α → Prop
  | [] => True
  | (k, v) :: t => (∀ j, b = some j → j < k) ∧ v ≠ d ∧ Above d (some k) t

/-- The canonical form is `Above` nothing. -/
theorem wf_iff_above {α : Type} [DecidableEq α] (d : α) (m : SMap α) : Memory.wf d m = true ↔ Above d none m := by
  have key : ∀ (t : SMap α) (k : Nat) (v : α), Memory.wf d ((k, v) :: t) = true ↔ v ≠ d ∧ Above d (some k) t := by
    intro t
    induction t with
    | nil => intro k v; simp [Memory.wf, Above]
    | cons e t ih =>
      obtain ⟨j, w⟩ := e
      intro k v
      rw [Memory.wf, Bool.and_eq_true, ih]
      simp [Above, and_assoc]
  cases m with
  | nil => simp [Memory.wf, Above]
  | cons e t => obtain ⟨k, v⟩ := e; rw [key]; simp [Above]

/-- A lower bound may fall. -/
theorem Above.weaken {α : Type} [DecidableEq α] {d : α} {b c : Option Nat} {m : SMap α} (h : Above d b m)
    (hc : ∀ j, c = some j → ∃ i, b = some i ∧ j ≤ i) : Above d c m := by
  cases m with
  | nil => trivial
  | cons e t =>
    obtain ⟨k, v⟩ := e
    refine ⟨fun j hj => ?_, h.2⟩
    obtain ⟨i, hi, hle⟩ := hc j hj
    have := h.1 i hi
    omega

/-- Setting a key to another value than the default keeps the form. -/
theorem Above.mset {α : Type} [DecidableEq α] {d : α} {b : Option Nat} {m : SMap α} (h : Above d b m) {k : Nat} {v : α}
    (hk : ∀ j, b = some j → j < k) (hv : v ≠ d) : Above d b (mset m k v) := by
  induction m generalizing b with
  | nil => exact ⟨hk, hv, trivial⟩
  | cons e t ih =>
    obtain ⟨j, w⟩ := e
    obtain ⟨h1, h2, h3⟩ := h
    simp only [Sys2Proof.Machine.mset]
    split
    · rename_i hlt
      exact ⟨hk, hv, fun i hi => by cases hi; exact hlt, h2, h3⟩
    · split
      · rename_i he; subst he; exact ⟨h1, hv, h3⟩
      · rename_i hn he
        exact ⟨h1, h2, ih h3 (fun i hi => by cases hi; omega)⟩

/-- Removing entries keeps the form. -/
theorem Above.filter {α : Type} [DecidableEq α] {d : α} {b : Option Nat} {m : SMap α} (h : Above d b m) (q : Nat × α → Bool) :
    Above d b (m.filter q) := by
  induction m generalizing b with
  | nil => trivial
  | cons e t ih =>
    obtain ⟨j, w⟩ := e
    obtain ⟨h1, h2, h3⟩ := h
    rw [List.filter_cons]
    split
    · exact ⟨h1, h2, ih h3⟩
    · exact (ih h3).weaken (fun i hi => ⟨j, rfl, by have := h1 i hi; omega⟩)

/-- Removing a key is a filter. -/
theorem mdel_eq_filter {α : Type} (m : SMap α) (k : Nat) : mdel m k = m.filter (fun e => e.1 != k) := by
  induction m with
  | nil => rfl
  | cons e t ih =>
    obtain ⟨j, w⟩ := e
    by_cases h : j = k <;> simp [mdel, h, ih]

/-- A write keeps the canonical form. -/
theorem wf_mput {α : Type} [DecidableEq α] (d : α) (m : SMap α) (k : Nat) (v : α) (h : Memory.wf d m = true) :
    Memory.wf d (mput d m k v) = true := by
  rw [wf_iff_above] at h ⊢
  rw [mput]
  split
  · rw [mdel_eq_filter]; exact h.filter _
  · rename_i hv; exact h.mset (fun j hj => by cases hj) hv

/-- A run of writes keeps the canonical form. -/
theorem wf_mputs {α : Type} [DecidableEq α] (d : α) (vs : List α) (m : SMap α) (a : Nat) (h : Memory.wf d m = true) :
    Memory.wf d (mputs d m a vs) = true := by
  induction vs generalizing m a with
  | nil => exact h
  | cons v vs ih => exact ih _ _ (wf_mput d m a v h)

/-- Removing a key keeps the canonical form. -/
theorem wf_mdel {α : Type} [DecidableEq α] (d : α) (m : SMap α) (k : Nat) (h : Memory.wf d m = true) :
    Memory.wf d (mdel m k) = true := by
  rw [mdel_eq_filter]; rw [wf_iff_above] at h ⊢; exact h.filter _

/-- Removing a range keeps the canonical form. -/
theorem wf_mdelRange {α : Type} [DecidableEq α] (d : α) (m : SMap α) (a b : Nat) (h : Memory.wf d m = true) :
    Memory.wf d (mdelRange m a b) = true := by
  rw [mdelRange]; rw [wf_iff_above] at h ⊢; exact h.filter _

end Sys2Proof.Machine
end

