-- ==== Sys2Proof/Laws/State.lean ====
section
/-! SUPPORT. What each update of the state changes, and that it changes nothing else: one lemma per field and update. -/
namespace Sys2Proof.Machine
open Sys2Proof

section Frame
variable (m : Mod)

@[simp] theorem updSite_regions (s : Nat) (f : Site → Site) : (updSite m s f).regions = m.regions := rfl
@[simp] theorem updSite_parts (s : Nat) (f : Site → Site) : (updSite m s f).parts = m.parts := rfl
@[simp] theorem updSite_hosts (s : Nat) (f : Site → Site) : (updSite m s f).hosts = m.hosts := rfl
@[simp] theorem updSite_groups (s : Nat) (f : Site → Site) : (updSite m s f).groups = m.groups := rfl
@[simp] theorem updSite_partners (s : Nat) (f : Site → Site) : (updSite m s f).partners = m.partners := rfl
@[simp] theorem updSite_requests (s : Nat) (f : Site → Site) : (updSite m s f).requests = m.requests := rfl
@[simp] theorem updSite_outMsgs (s : Nat) (f : Site → Site) : (updSite m s f).outMsgs = m.outMsgs := rfl
@[simp] theorem updSite_inMsgs (s : Nat) (f : Site → Site) : (updSite m s f).inMsgs = m.inMsgs := rfl
@[simp] theorem updSite_nextTag (s : Nat) (f : Site → Site) : (updSite m s f).nextTag = m.nextTag := rfl
@[simp] theorem updSite_partnerOrder (s : Nat) (f : Site → Site) : (updSite m s f).partnerOrder = m.partnerOrder := rfl
@[simp] theorem updSite_fabric (s : Nat) (f : Site → Site) : (updSite m s f).fabric = m.fabric := rfl
@[simp] theorem updSite_ledger (s : Nat) (f : Site → Site) : (updSite m s f).ledger = m.ledger := rfl
@[simp] theorem updSite_rm (s : Nat) (f : Site → Site) : (updSite m s f).rm = m.rm := rfl
@[simp] theorem updSite_limits (s : Nat) (f : Site → Site) : (updSite m s f).limits = m.limits := rfl
@[simp] theorem updSite_pwr (s : Nat) (f : Site → Site) : (updSite m s f).pwr = m.pwr := rfl
@[simp] theorem updSite_thm (s : Nat) (f : Site → Site) : (updSite m s f).thm = m.thm := rfl
@[simp] theorem updSite_clk (s : Nat) (f : Site → Site) : (updSite m s f).clk = m.clk := rfl
@[simp] theorem updSite_pins (s : Nat) (f : Site → Site) : (updSite m s f).pins = m.pins := rfl
@[simp] theorem updSite_startup (s : Nat) (f : Site → Site) : (updSite m s f).startup = m.startup := rfl
@[simp] theorem updSite_sec (s : Nat) (f : Site → Site) : (updSite m s f).sec = m.sec := rfl
@[simp] theorem updSite_grade (s : Nat) (f : Site → Site) : (updSite m s f).grade = m.grade := rfl
@[simp] theorem updSite_nodeId (s : Nat) (f : Site → Site) : (updSite m s f).nodeId = m.nodeId := rfl
@[simp] theorem updSite_limitModes (s : Nat) (f : Site → Site) : (updSite m s f).limitModes = m.limitModes := rfl
@[simp] theorem updSite_limitCclk (s : Nat) (f : Site → Site) : (updSite m s f).limitCclk = m.limitCclk := rfl
@[simp] theorem updSite_limitPower (s : Nat) (f : Site → Site) : (updSite m s f).limitPower = m.limitPower := rfl
@[simp] theorem updSite_time (s : Nat) (f : Site → Site) : (updSite m s f).time = m.time := rfl
@[simp] theorem updSite_eventSeq (s : Nat) (f : Site → Site) : (updSite m s f).eventSeq = m.eventSeq := rfl
@[simp] theorem updSite_badAccess (s : Nat) (f : Site → Site) : (updSite m s f).badAccess = m.badAccess := rfl
@[simp] theorem updSite_eholdRefused (s : Nat) (f : Site → Site) : (updSite m s f).eholdRefused = m.eholdRefused := rfl
@[simp] theorem updSite_fetchNo (s : Nat) (f : Site → Site) : (updSite m s f).fetchNo = m.fetchNo := rfl
@[simp] theorem updSite_freeCount (s : Nat) (f : Site → Site) : (updSite m s f).freeCount = m.freeCount := rfl
@[simp] theorem updSite_resp (s : Nat) (f : Site → Site) : (updSite m s f).resp = m.resp := rfl
@[simp] theorem updSite_aborted (s : Nat) (f : Site → Site) : (updSite m s f).aborted = m.aborted := rfl

@[simp] theorem updCore_regions (s : Nat) (f : Core → Core) : (updCore m s f).regions = m.regions := rfl
@[simp] theorem updCore_parts (s : Nat) (f : Core → Core) : (updCore m s f).parts = m.parts := rfl
@[simp] theorem updCore_hosts (s : Nat) (f : Core → Core) : (updCore m s f).hosts = m.hosts := rfl
@[simp] theorem updCore_groups (s : Nat) (f : Core → Core) : (updCore m s f).groups = m.groups := rfl
@[simp] theorem updCore_partners (s : Nat) (f : Core → Core) : (updCore m s f).partners = m.partners := rfl
@[simp] theorem updCore_requests (s : Nat) (f : Core → Core) : (updCore m s f).requests = m.requests := rfl
@[simp] theorem updCore_outMsgs (s : Nat) (f : Core → Core) : (updCore m s f).outMsgs = m.outMsgs := rfl
@[simp] theorem updCore_inMsgs (s : Nat) (f : Core → Core) : (updCore m s f).inMsgs = m.inMsgs := rfl
@[simp] theorem updCore_nextTag (s : Nat) (f : Core → Core) : (updCore m s f).nextTag = m.nextTag := rfl
@[simp] theorem updCore_partnerOrder (s : Nat) (f : Core → Core) : (updCore m s f).partnerOrder = m.partnerOrder := rfl
@[simp] theorem updCore_fabric (s : Nat) (f : Core → Core) : (updCore m s f).fabric = m.fabric := rfl
@[simp] theorem updCore_ledger (s : Nat) (f : Core → Core) : (updCore m s f).ledger = m.ledger := rfl
@[simp] theorem updCore_rm (s : Nat) (f : Core → Core) : (updCore m s f).rm = m.rm := rfl
@[simp] theorem updCore_limits (s : Nat) (f : Core → Core) : (updCore m s f).limits = m.limits := rfl
@[simp] theorem updCore_pwr (s : Nat) (f : Core → Core) : (updCore m s f).pwr = m.pwr := rfl
@[simp] theorem updCore_thm (s : Nat) (f : Core → Core) : (updCore m s f).thm = m.thm := rfl
@[simp] theorem updCore_clk (s : Nat) (f : Core → Core) : (updCore m s f).clk = m.clk := rfl
@[simp] theorem updCore_pins (s : Nat) (f : Core → Core) : (updCore m s f).pins = m.pins := rfl
@[simp] theorem updCore_startup (s : Nat) (f : Core → Core) : (updCore m s f).startup = m.startup := rfl
@[simp] theorem updCore_sec (s : Nat) (f : Core → Core) : (updCore m s f).sec = m.sec := rfl
@[simp] theorem updCore_grade (s : Nat) (f : Core → Core) : (updCore m s f).grade = m.grade := rfl
@[simp] theorem updCore_nodeId (s : Nat) (f : Core → Core) : (updCore m s f).nodeId = m.nodeId := rfl
@[simp] theorem updCore_limitModes (s : Nat) (f : Core → Core) : (updCore m s f).limitModes = m.limitModes := rfl
@[simp] theorem updCore_limitCclk (s : Nat) (f : Core → Core) : (updCore m s f).limitCclk = m.limitCclk := rfl
@[simp] theorem updCore_limitPower (s : Nat) (f : Core → Core) : (updCore m s f).limitPower = m.limitPower := rfl
@[simp] theorem updCore_time (s : Nat) (f : Core → Core) : (updCore m s f).time = m.time := rfl
@[simp] theorem updCore_eventSeq (s : Nat) (f : Core → Core) : (updCore m s f).eventSeq = m.eventSeq := rfl
@[simp] theorem updCore_badAccess (s : Nat) (f : Core → Core) : (updCore m s f).badAccess = m.badAccess := rfl
@[simp] theorem updCore_eholdRefused (s : Nat) (f : Core → Core) : (updCore m s f).eholdRefused = m.eholdRefused := rfl
@[simp] theorem updCore_fetchNo (s : Nat) (f : Core → Core) : (updCore m s f).fetchNo = m.fetchNo := rfl
@[simp] theorem updCore_freeCount (s : Nat) (f : Core → Core) : (updCore m s f).freeCount = m.freeCount := rfl
@[simp] theorem updCore_resp (s : Nat) (f : Core → Core) : (updCore m s f).resp = m.resp := rfl
@[simp] theorem updCore_aborted (s : Nat) (f : Core → Core) : (updCore m s f).aborted = m.aborted := rfl

@[simp] theorem updSlice_regions (s : Nat) (f : Slice → Slice) : (updSlice m s f).regions = m.regions := rfl
@[simp] theorem updSlice_parts (s : Nat) (f : Slice → Slice) : (updSlice m s f).parts = m.parts := rfl
@[simp] theorem updSlice_hosts (s : Nat) (f : Slice → Slice) : (updSlice m s f).hosts = m.hosts := rfl
@[simp] theorem updSlice_groups (s : Nat) (f : Slice → Slice) : (updSlice m s f).groups = m.groups := rfl
@[simp] theorem updSlice_partners (s : Nat) (f : Slice → Slice) : (updSlice m s f).partners = m.partners := rfl
@[simp] theorem updSlice_requests (s : Nat) (f : Slice → Slice) : (updSlice m s f).requests = m.requests := rfl
@[simp] theorem updSlice_outMsgs (s : Nat) (f : Slice → Slice) : (updSlice m s f).outMsgs = m.outMsgs := rfl
@[simp] theorem updSlice_inMsgs (s : Nat) (f : Slice → Slice) : (updSlice m s f).inMsgs = m.inMsgs := rfl
@[simp] theorem updSlice_nextTag (s : Nat) (f : Slice → Slice) : (updSlice m s f).nextTag = m.nextTag := rfl
@[simp] theorem updSlice_partnerOrder (s : Nat) (f : Slice → Slice) : (updSlice m s f).partnerOrder = m.partnerOrder := rfl
@[simp] theorem updSlice_fabric (s : Nat) (f : Slice → Slice) : (updSlice m s f).fabric = m.fabric := rfl
@[simp] theorem updSlice_ledger (s : Nat) (f : Slice → Slice) : (updSlice m s f).ledger = m.ledger := rfl
@[simp] theorem updSlice_rm (s : Nat) (f : Slice → Slice) : (updSlice m s f).rm = m.rm := rfl
@[simp] theorem updSlice_limits (s : Nat) (f : Slice → Slice) : (updSlice m s f).limits = m.limits := rfl
@[simp] theorem updSlice_pwr (s : Nat) (f : Slice → Slice) : (updSlice m s f).pwr = m.pwr := rfl
@[simp] theorem updSlice_thm (s : Nat) (f : Slice → Slice) : (updSlice m s f).thm = m.thm := rfl
@[simp] theorem updSlice_clk (s : Nat) (f : Slice → Slice) : (updSlice m s f).clk = m.clk := rfl
@[simp] theorem updSlice_pins (s : Nat) (f : Slice → Slice) : (updSlice m s f).pins = m.pins := rfl
@[simp] theorem updSlice_startup (s : Nat) (f : Slice → Slice) : (updSlice m s f).startup = m.startup := rfl
@[simp] theorem updSlice_sec (s : Nat) (f : Slice → Slice) : (updSlice m s f).sec = m.sec := rfl
@[simp] theorem updSlice_grade (s : Nat) (f : Slice → Slice) : (updSlice m s f).grade = m.grade := rfl
@[simp] theorem updSlice_nodeId (s : Nat) (f : Slice → Slice) : (updSlice m s f).nodeId = m.nodeId := rfl
@[simp] theorem updSlice_limitModes (s : Nat) (f : Slice → Slice) : (updSlice m s f).limitModes = m.limitModes := rfl
@[simp] theorem updSlice_limitCclk (s : Nat) (f : Slice → Slice) : (updSlice m s f).limitCclk = m.limitCclk := rfl
@[simp] theorem updSlice_limitPower (s : Nat) (f : Slice → Slice) : (updSlice m s f).limitPower = m.limitPower := rfl
@[simp] theorem updSlice_time (s : Nat) (f : Slice → Slice) : (updSlice m s f).time = m.time := rfl
@[simp] theorem updSlice_eventSeq (s : Nat) (f : Slice → Slice) : (updSlice m s f).eventSeq = m.eventSeq := rfl
@[simp] theorem updSlice_badAccess (s : Nat) (f : Slice → Slice) : (updSlice m s f).badAccess = m.badAccess := rfl
@[simp] theorem updSlice_eholdRefused (s : Nat) (f : Slice → Slice) : (updSlice m s f).eholdRefused = m.eholdRefused := rfl
@[simp] theorem updSlice_fetchNo (s : Nat) (f : Slice → Slice) : (updSlice m s f).fetchNo = m.fetchNo := rfl
@[simp] theorem updSlice_freeCount (s : Nat) (f : Slice → Slice) : (updSlice m s f).freeCount = m.freeCount := rfl
@[simp] theorem updSlice_resp (s : Nat) (f : Slice → Slice) : (updSlice m s f).resp = m.resp := rfl
@[simp] theorem updSlice_aborted (s : Nat) (f : Slice → Slice) : (updSlice m s f).aborted = m.aborted := rfl

@[simp] theorem updRouter_regions (s : Nat) (f : Router → Router) : (updRouter m s f).regions = m.regions := rfl
@[simp] theorem updRouter_parts (s : Nat) (f : Router → Router) : (updRouter m s f).parts = m.parts := rfl
@[simp] theorem updRouter_hosts (s : Nat) (f : Router → Router) : (updRouter m s f).hosts = m.hosts := rfl
@[simp] theorem updRouter_groups (s : Nat) (f : Router → Router) : (updRouter m s f).groups = m.groups := rfl
@[simp] theorem updRouter_partners (s : Nat) (f : Router → Router) : (updRouter m s f).partners = m.partners := rfl
@[simp] theorem updRouter_requests (s : Nat) (f : Router → Router) : (updRouter m s f).requests = m.requests := rfl
@[simp] theorem updRouter_outMsgs (s : Nat) (f : Router → Router) : (updRouter m s f).outMsgs = m.outMsgs := rfl
@[simp] theorem updRouter_inMsgs (s : Nat) (f : Router → Router) : (updRouter m s f).inMsgs = m.inMsgs := rfl
@[simp] theorem updRouter_nextTag (s : Nat) (f : Router → Router) : (updRouter m s f).nextTag = m.nextTag := rfl
@[simp] theorem updRouter_partnerOrder (s : Nat) (f : Router → Router) : (updRouter m s f).partnerOrder = m.partnerOrder := rfl
@[simp] theorem updRouter_fabric (s : Nat) (f : Router → Router) : (updRouter m s f).fabric = m.fabric := rfl
@[simp] theorem updRouter_ledger (s : Nat) (f : Router → Router) : (updRouter m s f).ledger = m.ledger := rfl
@[simp] theorem updRouter_rm (s : Nat) (f : Router → Router) : (updRouter m s f).rm = m.rm := rfl
@[simp] theorem updRouter_limits (s : Nat) (f : Router → Router) : (updRouter m s f).limits = m.limits := rfl
@[simp] theorem updRouter_pwr (s : Nat) (f : Router → Router) : (updRouter m s f).pwr = m.pwr := rfl
@[simp] theorem updRouter_thm (s : Nat) (f : Router → Router) : (updRouter m s f).thm = m.thm := rfl
@[simp] theorem updRouter_clk (s : Nat) (f : Router → Router) : (updRouter m s f).clk = m.clk := rfl
@[simp] theorem updRouter_pins (s : Nat) (f : Router → Router) : (updRouter m s f).pins = m.pins := rfl
@[simp] theorem updRouter_startup (s : Nat) (f : Router → Router) : (updRouter m s f).startup = m.startup := rfl
@[simp] theorem updRouter_sec (s : Nat) (f : Router → Router) : (updRouter m s f).sec = m.sec := rfl
@[simp] theorem updRouter_grade (s : Nat) (f : Router → Router) : (updRouter m s f).grade = m.grade := rfl
@[simp] theorem updRouter_nodeId (s : Nat) (f : Router → Router) : (updRouter m s f).nodeId = m.nodeId := rfl
@[simp] theorem updRouter_limitModes (s : Nat) (f : Router → Router) : (updRouter m s f).limitModes = m.limitModes := rfl
@[simp] theorem updRouter_limitCclk (s : Nat) (f : Router → Router) : (updRouter m s f).limitCclk = m.limitCclk := rfl
@[simp] theorem updRouter_limitPower (s : Nat) (f : Router → Router) : (updRouter m s f).limitPower = m.limitPower := rfl
@[simp] theorem updRouter_time (s : Nat) (f : Router → Router) : (updRouter m s f).time = m.time := rfl
@[simp] theorem updRouter_eventSeq (s : Nat) (f : Router → Router) : (updRouter m s f).eventSeq = m.eventSeq := rfl
@[simp] theorem updRouter_badAccess (s : Nat) (f : Router → Router) : (updRouter m s f).badAccess = m.badAccess := rfl
@[simp] theorem updRouter_eholdRefused (s : Nat) (f : Router → Router) : (updRouter m s f).eholdRefused = m.eholdRefused := rfl
@[simp] theorem updRouter_fetchNo (s : Nat) (f : Router → Router) : (updRouter m s f).fetchNo = m.fetchNo := rfl
@[simp] theorem updRouter_freeCount (s : Nat) (f : Router → Router) : (updRouter m s f).freeCount = m.freeCount := rfl
@[simp] theorem updRouter_resp (s : Nat) (f : Router → Router) : (updRouter m s f).resp = m.resp := rfl
@[simp] theorem updRouter_aborted (s : Nat) (f : Router → Router) : (updRouter m s f).aborted = m.aborted := rfl

@[simp] theorem updEnv_regions (s : Nat) (f : SiteEnv → SiteEnv) : (updEnv m s f).regions = m.regions := rfl
@[simp] theorem updEnv_parts (s : Nat) (f : SiteEnv → SiteEnv) : (updEnv m s f).parts = m.parts := rfl
@[simp] theorem updEnv_hosts (s : Nat) (f : SiteEnv → SiteEnv) : (updEnv m s f).hosts = m.hosts := rfl
@[simp] theorem updEnv_groups (s : Nat) (f : SiteEnv → SiteEnv) : (updEnv m s f).groups = m.groups := rfl
@[simp] theorem updEnv_partners (s : Nat) (f : SiteEnv → SiteEnv) : (updEnv m s f).partners = m.partners := rfl
@[simp] theorem updEnv_requests (s : Nat) (f : SiteEnv → SiteEnv) : (updEnv m s f).requests = m.requests := rfl
@[simp] theorem updEnv_outMsgs (s : Nat) (f : SiteEnv → SiteEnv) : (updEnv m s f).outMsgs = m.outMsgs := rfl
@[simp] theorem updEnv_inMsgs (s : Nat) (f : SiteEnv → SiteEnv) : (updEnv m s f).inMsgs = m.inMsgs := rfl
@[simp] theorem updEnv_nextTag (s : Nat) (f : SiteEnv → SiteEnv) : (updEnv m s f).nextTag = m.nextTag := rfl
@[simp] theorem updEnv_partnerOrder (s : Nat) (f : SiteEnv → SiteEnv) : (updEnv m s f).partnerOrder = m.partnerOrder := rfl
@[simp] theorem updEnv_fabric (s : Nat) (f : SiteEnv → SiteEnv) : (updEnv m s f).fabric = m.fabric := rfl
@[simp] theorem updEnv_ledger (s : Nat) (f : SiteEnv → SiteEnv) : (updEnv m s f).ledger = m.ledger := rfl
@[simp] theorem updEnv_rm (s : Nat) (f : SiteEnv → SiteEnv) : (updEnv m s f).rm = m.rm := rfl
@[simp] theorem updEnv_limits (s : Nat) (f : SiteEnv → SiteEnv) : (updEnv m s f).limits = m.limits := rfl
@[simp] theorem updEnv_pwr (s : Nat) (f : SiteEnv → SiteEnv) : (updEnv m s f).pwr = m.pwr := rfl
@[simp] theorem updEnv_thm (s : Nat) (f : SiteEnv → SiteEnv) : (updEnv m s f).thm = m.thm := rfl
@[simp] theorem updEnv_clk (s : Nat) (f : SiteEnv → SiteEnv) : (updEnv m s f).clk = m.clk := rfl
@[simp] theorem updEnv_pins (s : Nat) (f : SiteEnv → SiteEnv) : (updEnv m s f).pins = m.pins := rfl
@[simp] theorem updEnv_startup (s : Nat) (f : SiteEnv → SiteEnv) : (updEnv m s f).startup = m.startup := rfl
@[simp] theorem updEnv_sec (s : Nat) (f : SiteEnv → SiteEnv) : (updEnv m s f).sec = m.sec := rfl
@[simp] theorem updEnv_grade (s : Nat) (f : SiteEnv → SiteEnv) : (updEnv m s f).grade = m.grade := rfl
@[simp] theorem updEnv_nodeId (s : Nat) (f : SiteEnv → SiteEnv) : (updEnv m s f).nodeId = m.nodeId := rfl
@[simp] theorem updEnv_limitModes (s : Nat) (f : SiteEnv → SiteEnv) : (updEnv m s f).limitModes = m.limitModes := rfl
@[simp] theorem updEnv_limitCclk (s : Nat) (f : SiteEnv → SiteEnv) : (updEnv m s f).limitCclk = m.limitCclk := rfl
@[simp] theorem updEnv_limitPower (s : Nat) (f : SiteEnv → SiteEnv) : (updEnv m s f).limitPower = m.limitPower := rfl
@[simp] theorem updEnv_time (s : Nat) (f : SiteEnv → SiteEnv) : (updEnv m s f).time = m.time := rfl
@[simp] theorem updEnv_eventSeq (s : Nat) (f : SiteEnv → SiteEnv) : (updEnv m s f).eventSeq = m.eventSeq := rfl
@[simp] theorem updEnv_badAccess (s : Nat) (f : SiteEnv → SiteEnv) : (updEnv m s f).badAccess = m.badAccess := rfl
@[simp] theorem updEnv_eholdRefused (s : Nat) (f : SiteEnv → SiteEnv) : (updEnv m s f).eholdRefused = m.eholdRefused := rfl
@[simp] theorem updEnv_fetchNo (s : Nat) (f : SiteEnv → SiteEnv) : (updEnv m s f).fetchNo = m.fetchNo := rfl
@[simp] theorem updEnv_freeCount (s : Nat) (f : SiteEnv → SiteEnv) : (updEnv m s f).freeCount = m.freeCount := rfl
@[simp] theorem updEnv_resp (s : Nat) (f : SiteEnv → SiteEnv) : (updEnv m s f).resp = m.resp := rfl
@[simp] theorem updEnv_aborted (s : Nat) (f : SiteEnv → SiteEnv) : (updEnv m s f).aborted = m.aborted := rfl

@[simp] theorem updRegion_sites (r : Nat) (f : Region → Region) : (updRegion m r f).sites = m.sites := rfl
@[simp] theorem updRegion_parts (r : Nat) (f : Region → Region) : (updRegion m r f).parts = m.parts := rfl
@[simp] theorem updRegion_hosts (r : Nat) (f : Region → Region) : (updRegion m r f).hosts = m.hosts := rfl
@[simp] theorem updRegion_groups (r : Nat) (f : Region → Region) : (updRegion m r f).groups = m.groups := rfl
@[simp] theorem updRegion_partners (r : Nat) (f : Region → Region) : (updRegion m r f).partners = m.partners := rfl
@[simp] theorem updRegion_requests (r : Nat) (f : Region → Region) : (updRegion m r f).requests = m.requests := rfl
@[simp] theorem updRegion_outMsgs (r : Nat) (f : Region → Region) : (updRegion m r f).outMsgs = m.outMsgs := rfl
@[simp] theorem updRegion_inMsgs (r : Nat) (f : Region → Region) : (updRegion m r f).inMsgs = m.inMsgs := rfl
@[simp] theorem updRegion_nextTag (r : Nat) (f : Region → Region) : (updRegion m r f).nextTag = m.nextTag := rfl
@[simp] theorem updRegion_partnerOrder (r : Nat) (f : Region → Region) : (updRegion m r f).partnerOrder = m.partnerOrder := rfl
@[simp] theorem updRegion_fabric (r : Nat) (f : Region → Region) : (updRegion m r f).fabric = m.fabric := rfl
@[simp] theorem updRegion_ledger (r : Nat) (f : Region → Region) : (updRegion m r f).ledger = m.ledger := rfl
@[simp] theorem updRegion_rm (r : Nat) (f : Region → Region) : (updRegion m r f).rm = m.rm := rfl
@[simp] theorem updRegion_limits (r : Nat) (f : Region → Region) : (updRegion m r f).limits = m.limits := rfl
@[simp] theorem updRegion_pwr (r : Nat) (f : Region → Region) : (updRegion m r f).pwr = m.pwr := rfl
@[simp] theorem updRegion_thm (r : Nat) (f : Region → Region) : (updRegion m r f).thm = m.thm := rfl
@[simp] theorem updRegion_clk (r : Nat) (f : Region → Region) : (updRegion m r f).clk = m.clk := rfl
@[simp] theorem updRegion_pins (r : Nat) (f : Region → Region) : (updRegion m r f).pins = m.pins := rfl
@[simp] theorem updRegion_startup (r : Nat) (f : Region → Region) : (updRegion m r f).startup = m.startup := rfl
@[simp] theorem updRegion_sec (r : Nat) (f : Region → Region) : (updRegion m r f).sec = m.sec := rfl
@[simp] theorem updRegion_grade (r : Nat) (f : Region → Region) : (updRegion m r f).grade = m.grade := rfl
@[simp] theorem updRegion_nodeId (r : Nat) (f : Region → Region) : (updRegion m r f).nodeId = m.nodeId := rfl
@[simp] theorem updRegion_limitModes (r : Nat) (f : Region → Region) : (updRegion m r f).limitModes = m.limitModes := rfl
@[simp] theorem updRegion_limitCclk (r : Nat) (f : Region → Region) : (updRegion m r f).limitCclk = m.limitCclk := rfl
@[simp] theorem updRegion_limitPower (r : Nat) (f : Region → Region) : (updRegion m r f).limitPower = m.limitPower := rfl
@[simp] theorem updRegion_time (r : Nat) (f : Region → Region) : (updRegion m r f).time = m.time := rfl
@[simp] theorem updRegion_eventSeq (r : Nat) (f : Region → Region) : (updRegion m r f).eventSeq = m.eventSeq := rfl
@[simp] theorem updRegion_badAccess (r : Nat) (f : Region → Region) : (updRegion m r f).badAccess = m.badAccess := rfl
@[simp] theorem updRegion_eholdRefused (r : Nat) (f : Region → Region) : (updRegion m r f).eholdRefused = m.eholdRefused := rfl
@[simp] theorem updRegion_fetchNo (r : Nat) (f : Region → Region) : (updRegion m r f).fetchNo = m.fetchNo := rfl
@[simp] theorem updRegion_freeCount (r : Nat) (f : Region → Region) : (updRegion m r f).freeCount = m.freeCount := rfl
@[simp] theorem updRegion_resp (r : Nat) (f : Region → Region) : (updRegion m r f).resp = m.resp := rfl
@[simp] theorem updRegion_aborted (r : Nat) (f : Region → Region) : (updRegion m r f).aborted = m.aborted := rfl

@[simp] theorem updPower_sites (r : Nat) (f : RegPower → RegPower) : (updPower m r f).sites = m.sites := rfl
@[simp] theorem updPower_parts (r : Nat) (f : RegPower → RegPower) : (updPower m r f).parts = m.parts := rfl
@[simp] theorem updPower_hosts (r : Nat) (f : RegPower → RegPower) : (updPower m r f).hosts = m.hosts := rfl
@[simp] theorem updPower_groups (r : Nat) (f : RegPower → RegPower) : (updPower m r f).groups = m.groups := rfl
@[simp] theorem updPower_partners (r : Nat) (f : RegPower → RegPower) : (updPower m r f).partners = m.partners := rfl
@[simp] theorem updPower_requests (r : Nat) (f : RegPower → RegPower) : (updPower m r f).requests = m.requests := rfl
@[simp] theorem updPower_outMsgs (r : Nat) (f : RegPower → RegPower) : (updPower m r f).outMsgs = m.outMsgs := rfl
@[simp] theorem updPower_inMsgs (r : Nat) (f : RegPower → RegPower) : (updPower m r f).inMsgs = m.inMsgs := rfl
@[simp] theorem updPower_nextTag (r : Nat) (f : RegPower → RegPower) : (updPower m r f).nextTag = m.nextTag := rfl
@[simp] theorem updPower_partnerOrder (r : Nat) (f : RegPower → RegPower) : (updPower m r f).partnerOrder = m.partnerOrder := rfl
@[simp] theorem updPower_fabric (r : Nat) (f : RegPower → RegPower) : (updPower m r f).fabric = m.fabric := rfl
@[simp] theorem updPower_ledger (r : Nat) (f : RegPower → RegPower) : (updPower m r f).ledger = m.ledger := rfl
@[simp] theorem updPower_rm (r : Nat) (f : RegPower → RegPower) : (updPower m r f).rm = m.rm := rfl
@[simp] theorem updPower_limits (r : Nat) (f : RegPower → RegPower) : (updPower m r f).limits = m.limits := rfl
@[simp] theorem updPower_pwr (r : Nat) (f : RegPower → RegPower) : (updPower m r f).pwr = m.pwr := rfl
@[simp] theorem updPower_thm (r : Nat) (f : RegPower → RegPower) : (updPower m r f).thm = m.thm := rfl
@[simp] theorem updPower_clk (r : Nat) (f : RegPower → RegPower) : (updPower m r f).clk = m.clk := rfl
@[simp] theorem updPower_pins (r : Nat) (f : RegPower → RegPower) : (updPower m r f).pins = m.pins := rfl
@[simp] theorem updPower_startup (r : Nat) (f : RegPower → RegPower) : (updPower m r f).startup = m.startup := rfl
@[simp] theorem updPower_sec (r : Nat) (f : RegPower → RegPower) : (updPower m r f).sec = m.sec := rfl
@[simp] theorem updPower_grade (r : Nat) (f : RegPower → RegPower) : (updPower m r f).grade = m.grade := rfl
@[simp] theorem updPower_nodeId (r : Nat) (f : RegPower → RegPower) : (updPower m r f).nodeId = m.nodeId := rfl
@[simp] theorem updPower_limitModes (r : Nat) (f : RegPower → RegPower) : (updPower m r f).limitModes = m.limitModes := rfl
@[simp] theorem updPower_limitCclk (r : Nat) (f : RegPower → RegPower) : (updPower m r f).limitCclk = m.limitCclk := rfl
@[simp] theorem updPower_limitPower (r : Nat) (f : RegPower → RegPower) : (updPower m r f).limitPower = m.limitPower := rfl
@[simp] theorem updPower_time (r : Nat) (f : RegPower → RegPower) : (updPower m r f).time = m.time := rfl
@[simp] theorem updPower_eventSeq (r : Nat) (f : RegPower → RegPower) : (updPower m r f).eventSeq = m.eventSeq := rfl
@[simp] theorem updPower_badAccess (r : Nat) (f : RegPower → RegPower) : (updPower m r f).badAccess = m.badAccess := rfl
@[simp] theorem updPower_eholdRefused (r : Nat) (f : RegPower → RegPower) : (updPower m r f).eholdRefused = m.eholdRefused := rfl
@[simp] theorem updPower_fetchNo (r : Nat) (f : RegPower → RegPower) : (updPower m r f).fetchNo = m.fetchNo := rfl
@[simp] theorem updPower_freeCount (r : Nat) (f : RegPower → RegPower) : (updPower m r f).freeCount = m.freeCount := rfl
@[simp] theorem updPower_resp (r : Nat) (f : RegPower → RegPower) : (updPower m r f).resp = m.resp := rfl
@[simp] theorem updPower_aborted (r : Nat) (f : RegPower → RegPower) : (updPower m r f).aborted = m.aborted := rfl

@[simp] theorem updClock_sites (r : Nat) (f : RegClock → RegClock) : (updClock m r f).sites = m.sites := rfl
@[simp] theorem updClock_parts (r : Nat) (f : RegClock → RegClock) : (updClock m r f).parts = m.parts := rfl
@[simp] theorem updClock_hosts (r : Nat) (f : RegClock → RegClock) : (updClock m r f).hosts = m.hosts := rfl
@[simp] theorem updClock_groups (r : Nat) (f : RegClock → RegClock) : (updClock m r f).groups = m.groups := rfl
@[simp] theorem updClock_partners (r : Nat) (f : RegClock → RegClock) : (updClock m r f).partners = m.partners := rfl
@[simp] theorem updClock_requests (r : Nat) (f : RegClock → RegClock) : (updClock m r f).requests = m.requests := rfl
@[simp] theorem updClock_outMsgs (r : Nat) (f : RegClock → RegClock) : (updClock m r f).outMsgs = m.outMsgs := rfl
@[simp] theorem updClock_inMsgs (r : Nat) (f : RegClock → RegClock) : (updClock m r f).inMsgs = m.inMsgs := rfl
@[simp] theorem updClock_nextTag (r : Nat) (f : RegClock → RegClock) : (updClock m r f).nextTag = m.nextTag := rfl
@[simp] theorem updClock_partnerOrder (r : Nat) (f : RegClock → RegClock) : (updClock m r f).partnerOrder = m.partnerOrder := rfl
@[simp] theorem updClock_fabric (r : Nat) (f : RegClock → RegClock) : (updClock m r f).fabric = m.fabric := rfl
@[simp] theorem updClock_ledger (r : Nat) (f : RegClock → RegClock) : (updClock m r f).ledger = m.ledger := rfl
@[simp] theorem updClock_rm (r : Nat) (f : RegClock → RegClock) : (updClock m r f).rm = m.rm := rfl
@[simp] theorem updClock_limits (r : Nat) (f : RegClock → RegClock) : (updClock m r f).limits = m.limits := rfl
@[simp] theorem updClock_pwr (r : Nat) (f : RegClock → RegClock) : (updClock m r f).pwr = m.pwr := rfl
@[simp] theorem updClock_thm (r : Nat) (f : RegClock → RegClock) : (updClock m r f).thm = m.thm := rfl
@[simp] theorem updClock_clk (r : Nat) (f : RegClock → RegClock) : (updClock m r f).clk = m.clk := rfl
@[simp] theorem updClock_pins (r : Nat) (f : RegClock → RegClock) : (updClock m r f).pins = m.pins := rfl
@[simp] theorem updClock_startup (r : Nat) (f : RegClock → RegClock) : (updClock m r f).startup = m.startup := rfl
@[simp] theorem updClock_sec (r : Nat) (f : RegClock → RegClock) : (updClock m r f).sec = m.sec := rfl
@[simp] theorem updClock_grade (r : Nat) (f : RegClock → RegClock) : (updClock m r f).grade = m.grade := rfl
@[simp] theorem updClock_nodeId (r : Nat) (f : RegClock → RegClock) : (updClock m r f).nodeId = m.nodeId := rfl
@[simp] theorem updClock_limitModes (r : Nat) (f : RegClock → RegClock) : (updClock m r f).limitModes = m.limitModes := rfl
@[simp] theorem updClock_limitCclk (r : Nat) (f : RegClock → RegClock) : (updClock m r f).limitCclk = m.limitCclk := rfl
@[simp] theorem updClock_limitPower (r : Nat) (f : RegClock → RegClock) : (updClock m r f).limitPower = m.limitPower := rfl
@[simp] theorem updClock_time (r : Nat) (f : RegClock → RegClock) : (updClock m r f).time = m.time := rfl
@[simp] theorem updClock_eventSeq (r : Nat) (f : RegClock → RegClock) : (updClock m r f).eventSeq = m.eventSeq := rfl
@[simp] theorem updClock_badAccess (r : Nat) (f : RegClock → RegClock) : (updClock m r f).badAccess = m.badAccess := rfl
@[simp] theorem updClock_eholdRefused (r : Nat) (f : RegClock → RegClock) : (updClock m r f).eholdRefused = m.eholdRefused := rfl
@[simp] theorem updClock_fetchNo (r : Nat) (f : RegClock → RegClock) : (updClock m r f).fetchNo = m.fetchNo := rfl
@[simp] theorem updClock_freeCount (r : Nat) (f : RegClock → RegClock) : (updClock m r f).freeCount = m.freeCount := rfl
@[simp] theorem updClock_resp (r : Nat) (f : RegClock → RegClock) : (updClock m r f).resp = m.resp := rfl
@[simp] theorem updClock_aborted (r : Nat) (f : RegClock → RegClock) : (updClock m r f).aborted = m.aborted := rfl

@[simp] theorem updHost_sites (h : Nat) (f : HostSite → HostSite) : (updHost m h f).sites = m.sites := rfl
@[simp] theorem updHost_regions (h : Nat) (f : HostSite → HostSite) : (updHost m h f).regions = m.regions := rfl
@[simp] theorem updHost_parts (h : Nat) (f : HostSite → HostSite) : (updHost m h f).parts = m.parts := rfl
@[simp] theorem updHost_groups (h : Nat) (f : HostSite → HostSite) : (updHost m h f).groups = m.groups := rfl
@[simp] theorem updHost_partners (h : Nat) (f : HostSite → HostSite) : (updHost m h f).partners = m.partners := rfl
@[simp] theorem updHost_requests (h : Nat) (f : HostSite → HostSite) : (updHost m h f).requests = m.requests := rfl
@[simp] theorem updHost_outMsgs (h : Nat) (f : HostSite → HostSite) : (updHost m h f).outMsgs = m.outMsgs := rfl
@[simp] theorem updHost_inMsgs (h : Nat) (f : HostSite → HostSite) : (updHost m h f).inMsgs = m.inMsgs := rfl
@[simp] theorem updHost_nextTag (h : Nat) (f : HostSite → HostSite) : (updHost m h f).nextTag = m.nextTag := rfl
@[simp] theorem updHost_partnerOrder (h : Nat) (f : HostSite → HostSite) : (updHost m h f).partnerOrder = m.partnerOrder := rfl
@[simp] theorem updHost_fabric (h : Nat) (f : HostSite → HostSite) : (updHost m h f).fabric = m.fabric := rfl
@[simp] theorem updHost_ledger (h : Nat) (f : HostSite → HostSite) : (updHost m h f).ledger = m.ledger := rfl
@[simp] theorem updHost_rm (h : Nat) (f : HostSite → HostSite) : (updHost m h f).rm = m.rm := rfl
@[simp] theorem updHost_limits (h : Nat) (f : HostSite → HostSite) : (updHost m h f).limits = m.limits := rfl
@[simp] theorem updHost_pwr (h : Nat) (f : HostSite → HostSite) : (updHost m h f).pwr = m.pwr := rfl
@[simp] theorem updHost_thm (h : Nat) (f : HostSite → HostSite) : (updHost m h f).thm = m.thm := rfl
@[simp] theorem updHost_clk (h : Nat) (f : HostSite → HostSite) : (updHost m h f).clk = m.clk := rfl
@[simp] theorem updHost_pins (h : Nat) (f : HostSite → HostSite) : (updHost m h f).pins = m.pins := rfl
@[simp] theorem updHost_startup (h : Nat) (f : HostSite → HostSite) : (updHost m h f).startup = m.startup := rfl
@[simp] theorem updHost_sec (h : Nat) (f : HostSite → HostSite) : (updHost m h f).sec = m.sec := rfl
@[simp] theorem updHost_grade (h : Nat) (f : HostSite → HostSite) : (updHost m h f).grade = m.grade := rfl
@[simp] theorem updHost_nodeId (h : Nat) (f : HostSite → HostSite) : (updHost m h f).nodeId = m.nodeId := rfl
@[simp] theorem updHost_limitModes (h : Nat) (f : HostSite → HostSite) : (updHost m h f).limitModes = m.limitModes := rfl
@[simp] theorem updHost_limitCclk (h : Nat) (f : HostSite → HostSite) : (updHost m h f).limitCclk = m.limitCclk := rfl
@[simp] theorem updHost_limitPower (h : Nat) (f : HostSite → HostSite) : (updHost m h f).limitPower = m.limitPower := rfl
@[simp] theorem updHost_time (h : Nat) (f : HostSite → HostSite) : (updHost m h f).time = m.time := rfl
@[simp] theorem updHost_eventSeq (h : Nat) (f : HostSite → HostSite) : (updHost m h f).eventSeq = m.eventSeq := rfl
@[simp] theorem updHost_badAccess (h : Nat) (f : HostSite → HostSite) : (updHost m h f).badAccess = m.badAccess := rfl
@[simp] theorem updHost_eholdRefused (h : Nat) (f : HostSite → HostSite) : (updHost m h f).eholdRefused = m.eholdRefused := rfl
@[simp] theorem updHost_fetchNo (h : Nat) (f : HostSite → HostSite) : (updHost m h f).fetchNo = m.fetchNo := rfl
@[simp] theorem updHost_freeCount (h : Nat) (f : HostSite → HostSite) : (updHost m h f).freeCount = m.freeCount := rfl
@[simp] theorem updHost_resp (h : Nat) (f : HostSite → HostSite) : (updHost m h f).resp = m.resp := rfl
@[simp] theorem updHost_aborted (h : Nat) (f : HostSite → HostSite) : (updHost m h f).aborted = m.aborted := rfl

@[simp] theorem updGroup_sites (g : Nat) (f : PortGroup → PortGroup) : (updGroup m g f).sites = m.sites := rfl
@[simp] theorem updGroup_regions (g : Nat) (f : PortGroup → PortGroup) : (updGroup m g f).regions = m.regions := rfl
@[simp] theorem updGroup_parts (g : Nat) (f : PortGroup → PortGroup) : (updGroup m g f).parts = m.parts := rfl
@[simp] theorem updGroup_hosts (g : Nat) (f : PortGroup → PortGroup) : (updGroup m g f).hosts = m.hosts := rfl
@[simp] theorem updGroup_partners (g : Nat) (f : PortGroup → PortGroup) : (updGroup m g f).partners = m.partners := rfl
@[simp] theorem updGroup_requests (g : Nat) (f : PortGroup → PortGroup) : (updGroup m g f).requests = m.requests := rfl
@[simp] theorem updGroup_outMsgs (g : Nat) (f : PortGroup → PortGroup) : (updGroup m g f).outMsgs = m.outMsgs := rfl
@[simp] theorem updGroup_inMsgs (g : Nat) (f : PortGroup → PortGroup) : (updGroup m g f).inMsgs = m.inMsgs := rfl
@[simp] theorem updGroup_nextTag (g : Nat) (f : PortGroup → PortGroup) : (updGroup m g f).nextTag = m.nextTag := rfl
@[simp] theorem updGroup_partnerOrder (g : Nat) (f : PortGroup → PortGroup) : (updGroup m g f).partnerOrder = m.partnerOrder := rfl
@[simp] theorem updGroup_fabric (g : Nat) (f : PortGroup → PortGroup) : (updGroup m g f).fabric = m.fabric := rfl
@[simp] theorem updGroup_ledger (g : Nat) (f : PortGroup → PortGroup) : (updGroup m g f).ledger = m.ledger := rfl
@[simp] theorem updGroup_rm (g : Nat) (f : PortGroup → PortGroup) : (updGroup m g f).rm = m.rm := rfl
@[simp] theorem updGroup_limits (g : Nat) (f : PortGroup → PortGroup) : (updGroup m g f).limits = m.limits := rfl
@[simp] theorem updGroup_pwr (g : Nat) (f : PortGroup → PortGroup) : (updGroup m g f).pwr = m.pwr := rfl
@[simp] theorem updGroup_thm (g : Nat) (f : PortGroup → PortGroup) : (updGroup m g f).thm = m.thm := rfl
@[simp] theorem updGroup_clk (g : Nat) (f : PortGroup → PortGroup) : (updGroup m g f).clk = m.clk := rfl
@[simp] theorem updGroup_pins (g : Nat) (f : PortGroup → PortGroup) : (updGroup m g f).pins = m.pins := rfl
@[simp] theorem updGroup_startup (g : Nat) (f : PortGroup → PortGroup) : (updGroup m g f).startup = m.startup := rfl
@[simp] theorem updGroup_sec (g : Nat) (f : PortGroup → PortGroup) : (updGroup m g f).sec = m.sec := rfl
@[simp] theorem updGroup_grade (g : Nat) (f : PortGroup → PortGroup) : (updGroup m g f).grade = m.grade := rfl
@[simp] theorem updGroup_nodeId (g : Nat) (f : PortGroup → PortGroup) : (updGroup m g f).nodeId = m.nodeId := rfl
@[simp] theorem updGroup_limitModes (g : Nat) (f : PortGroup → PortGroup) : (updGroup m g f).limitModes = m.limitModes := rfl
@[simp] theorem updGroup_limitCclk (g : Nat) (f : PortGroup → PortGroup) : (updGroup m g f).limitCclk = m.limitCclk := rfl
@[simp] theorem updGroup_limitPower (g : Nat) (f : PortGroup → PortGroup) : (updGroup m g f).limitPower = m.limitPower := rfl
@[simp] theorem updGroup_time (g : Nat) (f : PortGroup → PortGroup) : (updGroup m g f).time = m.time := rfl
@[simp] theorem updGroup_eventSeq (g : Nat) (f : PortGroup → PortGroup) : (updGroup m g f).eventSeq = m.eventSeq := rfl
@[simp] theorem updGroup_badAccess (g : Nat) (f : PortGroup → PortGroup) : (updGroup m g f).badAccess = m.badAccess := rfl
@[simp] theorem updGroup_eholdRefused (g : Nat) (f : PortGroup → PortGroup) : (updGroup m g f).eholdRefused = m.eholdRefused := rfl
@[simp] theorem updGroup_fetchNo (g : Nat) (f : PortGroup → PortGroup) : (updGroup m g f).fetchNo = m.fetchNo := rfl
@[simp] theorem updGroup_freeCount (g : Nat) (f : PortGroup → PortGroup) : (updGroup m g f).freeCount = m.freeCount := rfl
@[simp] theorem updGroup_resp (g : Nat) (f : PortGroup → PortGroup) : (updGroup m g f).resp = m.resp := rfl
@[simp] theorem updGroup_aborted (g : Nat) (f : PortGroup → PortGroup) : (updGroup m g f).aborted = m.aborted := rfl

@[simp] theorem updLink_sites (g k : Nat) (f : Link → Link) : (updLink m g k f).sites = m.sites := rfl
@[simp] theorem updLink_regions (g k : Nat) (f : Link → Link) : (updLink m g k f).regions = m.regions := rfl
@[simp] theorem updLink_parts (g k : Nat) (f : Link → Link) : (updLink m g k f).parts = m.parts := rfl
@[simp] theorem updLink_hosts (g k : Nat) (f : Link → Link) : (updLink m g k f).hosts = m.hosts := rfl
@[simp] theorem updLink_partners (g k : Nat) (f : Link → Link) : (updLink m g k f).partners = m.partners := rfl
@[simp] theorem updLink_requests (g k : Nat) (f : Link → Link) : (updLink m g k f).requests = m.requests := rfl
@[simp] theorem updLink_outMsgs (g k : Nat) (f : Link → Link) : (updLink m g k f).outMsgs = m.outMsgs := rfl
@[simp] theorem updLink_inMsgs (g k : Nat) (f : Link → Link) : (updLink m g k f).inMsgs = m.inMsgs := rfl
@[simp] theorem updLink_nextTag (g k : Nat) (f : Link → Link) : (updLink m g k f).nextTag = m.nextTag := rfl
@[simp] theorem updLink_partnerOrder (g k : Nat) (f : Link → Link) : (updLink m g k f).partnerOrder = m.partnerOrder := rfl
@[simp] theorem updLink_fabric (g k : Nat) (f : Link → Link) : (updLink m g k f).fabric = m.fabric := rfl
@[simp] theorem updLink_ledger (g k : Nat) (f : Link → Link) : (updLink m g k f).ledger = m.ledger := rfl
@[simp] theorem updLink_rm (g k : Nat) (f : Link → Link) : (updLink m g k f).rm = m.rm := rfl
@[simp] theorem updLink_limits (g k : Nat) (f : Link → Link) : (updLink m g k f).limits = m.limits := rfl
@[simp] theorem updLink_pwr (g k : Nat) (f : Link → Link) : (updLink m g k f).pwr = m.pwr := rfl
@[simp] theorem updLink_thm (g k : Nat) (f : Link → Link) : (updLink m g k f).thm = m.thm := rfl
@[simp] theorem updLink_clk (g k : Nat) (f : Link → Link) : (updLink m g k f).clk = m.clk := rfl
@[simp] theorem updLink_pins (g k : Nat) (f : Link → Link) : (updLink m g k f).pins = m.pins := rfl
@[simp] theorem updLink_startup (g k : Nat) (f : Link → Link) : (updLink m g k f).startup = m.startup := rfl
@[simp] theorem updLink_sec (g k : Nat) (f : Link → Link) : (updLink m g k f).sec = m.sec := rfl
@[simp] theorem updLink_grade (g k : Nat) (f : Link → Link) : (updLink m g k f).grade = m.grade := rfl
@[simp] theorem updLink_nodeId (g k : Nat) (f : Link → Link) : (updLink m g k f).nodeId = m.nodeId := rfl
@[simp] theorem updLink_limitModes (g k : Nat) (f : Link → Link) : (updLink m g k f).limitModes = m.limitModes := rfl
@[simp] theorem updLink_limitCclk (g k : Nat) (f : Link → Link) : (updLink m g k f).limitCclk = m.limitCclk := rfl
@[simp] theorem updLink_limitPower (g k : Nat) (f : Link → Link) : (updLink m g k f).limitPower = m.limitPower := rfl
@[simp] theorem updLink_time (g k : Nat) (f : Link → Link) : (updLink m g k f).time = m.time := rfl
@[simp] theorem updLink_eventSeq (g k : Nat) (f : Link → Link) : (updLink m g k f).eventSeq = m.eventSeq := rfl
@[simp] theorem updLink_badAccess (g k : Nat) (f : Link → Link) : (updLink m g k f).badAccess = m.badAccess := rfl
@[simp] theorem updLink_eholdRefused (g k : Nat) (f : Link → Link) : (updLink m g k f).eholdRefused = m.eholdRefused := rfl
@[simp] theorem updLink_fetchNo (g k : Nat) (f : Link → Link) : (updLink m g k f).fetchNo = m.fetchNo := rfl
@[simp] theorem updLink_freeCount (g k : Nat) (f : Link → Link) : (updLink m g k f).freeCount = m.freeCount := rfl
@[simp] theorem updLink_resp (g k : Nat) (f : Link → Link) : (updLink m g k f).resp = m.resp := rfl
@[simp] theorem updLink_aborted (g k : Nat) (f : Link → Link) : (updLink m g k f).aborted = m.aborted := rfl

@[simp] theorem updPart_sites (p : Nat) (f : Part → Part) : (updPart m p f).sites = m.sites := by unfold updPart; split <;> rfl
@[simp] theorem updPart_regions (p : Nat) (f : Part → Part) : (updPart m p f).regions = m.regions := by unfold updPart; split <;> rfl
@[simp] theorem updPart_hosts (p : Nat) (f : Part → Part) : (updPart m p f).hosts = m.hosts := by unfold updPart; split <;> rfl
@[simp] theorem updPart_groups (p : Nat) (f : Part → Part) : (updPart m p f).groups = m.groups := by unfold updPart; split <;> rfl
@[simp] theorem updPart_partners (p : Nat) (f : Part → Part) : (updPart m p f).partners = m.partners := by unfold updPart; split <;> rfl
@[simp] theorem updPart_requests (p : Nat) (f : Part → Part) : (updPart m p f).requests = m.requests := by unfold updPart; split <;> rfl
@[simp] theorem updPart_outMsgs (p : Nat) (f : Part → Part) : (updPart m p f).outMsgs = m.outMsgs := by unfold updPart; split <;> rfl
@[simp] theorem updPart_inMsgs (p : Nat) (f : Part → Part) : (updPart m p f).inMsgs = m.inMsgs := by unfold updPart; split <;> rfl
@[simp] theorem updPart_nextTag (p : Nat) (f : Part → Part) : (updPart m p f).nextTag = m.nextTag := by unfold updPart; split <;> rfl
@[simp] theorem updPart_partnerOrder (p : Nat) (f : Part → Part) : (updPart m p f).partnerOrder = m.partnerOrder := by unfold updPart; split <;> rfl
@[simp] theorem updPart_fabric (p : Nat) (f : Part → Part) : (updPart m p f).fabric = m.fabric := by unfold updPart; split <;> rfl
@[simp] theorem updPart_ledger (p : Nat) (f : Part → Part) : (updPart m p f).ledger = m.ledger := by unfold updPart; split <;> rfl
@[simp] theorem updPart_rm (p : Nat) (f : Part → Part) : (updPart m p f).rm = m.rm := by unfold updPart; split <;> rfl
@[simp] theorem updPart_limits (p : Nat) (f : Part → Part) : (updPart m p f).limits = m.limits := by unfold updPart; split <;> rfl
@[simp] theorem updPart_pwr (p : Nat) (f : Part → Part) : (updPart m p f).pwr = m.pwr := by unfold updPart; split <;> rfl
@[simp] theorem updPart_thm (p : Nat) (f : Part → Part) : (updPart m p f).thm = m.thm := by unfold updPart; split <;> rfl
@[simp] theorem updPart_clk (p : Nat) (f : Part → Part) : (updPart m p f).clk = m.clk := by unfold updPart; split <;> rfl
@[simp] theorem updPart_pins (p : Nat) (f : Part → Part) : (updPart m p f).pins = m.pins := by unfold updPart; split <;> rfl
@[simp] theorem updPart_startup (p : Nat) (f : Part → Part) : (updPart m p f).startup = m.startup := by unfold updPart; split <;> rfl
@[simp] theorem updPart_sec (p : Nat) (f : Part → Part) : (updPart m p f).sec = m.sec := by unfold updPart; split <;> rfl
@[simp] theorem updPart_grade (p : Nat) (f : Part → Part) : (updPart m p f).grade = m.grade := by unfold updPart; split <;> rfl
@[simp] theorem updPart_nodeId (p : Nat) (f : Part → Part) : (updPart m p f).nodeId = m.nodeId := by unfold updPart; split <;> rfl
@[simp] theorem updPart_limitModes (p : Nat) (f : Part → Part) : (updPart m p f).limitModes = m.limitModes := by unfold updPart; split <;> rfl
@[simp] theorem updPart_limitCclk (p : Nat) (f : Part → Part) : (updPart m p f).limitCclk = m.limitCclk := by unfold updPart; split <;> rfl
@[simp] theorem updPart_limitPower (p : Nat) (f : Part → Part) : (updPart m p f).limitPower = m.limitPower := by unfold updPart; split <;> rfl
@[simp] theorem updPart_time (p : Nat) (f : Part → Part) : (updPart m p f).time = m.time := by unfold updPart; split <;> rfl
@[simp] theorem updPart_eventSeq (p : Nat) (f : Part → Part) : (updPart m p f).eventSeq = m.eventSeq := by unfold updPart; split <;> rfl
@[simp] theorem updPart_badAccess (p : Nat) (f : Part → Part) : (updPart m p f).badAccess = m.badAccess := by unfold updPart; split <;> rfl
@[simp] theorem updPart_eholdRefused (p : Nat) (f : Part → Part) : (updPart m p f).eholdRefused = m.eholdRefused := by unfold updPart; split <;> rfl
@[simp] theorem updPart_fetchNo (p : Nat) (f : Part → Part) : (updPart m p f).fetchNo = m.fetchNo := by unfold updPart; split <;> rfl
@[simp] theorem updPart_freeCount (p : Nat) (f : Part → Part) : (updPart m p f).freeCount = m.freeCount := by unfold updPart; split <;> rfl
@[simp] theorem updPart_resp (p : Nat) (f : Part → Part) : (updPart m p f).resp = m.resp := by unfold updPart; split <;> rfl
@[simp] theorem updPart_aborted (p : Nat) (f : Part → Part) : (updPart m p f).aborted = m.aborted := by unfold updPart; split <;> rfl

@[simp] theorem updPair_sites (r : RingRef) (f : Pair → Pair) : (updPair m r f).sites = m.sites := by cases r <;> simp [updPair]
@[simp] theorem updPair_regions (r : RingRef) (f : Pair → Pair) : (updPair m r f).regions = m.regions := by cases r <;> simp [updPair]
@[simp] theorem updPair_groups (r : RingRef) (f : Pair → Pair) : (updPair m r f).groups = m.groups := by cases r <;> simp [updPair]
@[simp] theorem updPair_partners (r : RingRef) (f : Pair → Pair) : (updPair m r f).partners = m.partners := by cases r <;> simp [updPair]
@[simp] theorem updPair_requests (r : RingRef) (f : Pair → Pair) : (updPair m r f).requests = m.requests := by cases r <;> simp [updPair]
@[simp] theorem updPair_outMsgs (r : RingRef) (f : Pair → Pair) : (updPair m r f).outMsgs = m.outMsgs := by cases r <;> simp [updPair]
@[simp] theorem updPair_inMsgs (r : RingRef) (f : Pair → Pair) : (updPair m r f).inMsgs = m.inMsgs := by cases r <;> simp [updPair]
@[simp] theorem updPair_nextTag (r : RingRef) (f : Pair → Pair) : (updPair m r f).nextTag = m.nextTag := by cases r <;> simp [updPair]
@[simp] theorem updPair_partnerOrder (r : RingRef) (f : Pair → Pair) : (updPair m r f).partnerOrder = m.partnerOrder := by cases r <;> simp [updPair]
@[simp] theorem updPair_fabric (r : RingRef) (f : Pair → Pair) : (updPair m r f).fabric = m.fabric := by cases r <;> simp [updPair]
@[simp] theorem updPair_ledger (r : RingRef) (f : Pair → Pair) : (updPair m r f).ledger = m.ledger := by cases r <;> simp [updPair]
@[simp] theorem updPair_rm (r : RingRef) (f : Pair → Pair) : (updPair m r f).rm = m.rm := by cases r <;> simp [updPair]
@[simp] theorem updPair_limits (r : RingRef) (f : Pair → Pair) : (updPair m r f).limits = m.limits := by cases r <;> simp [updPair]
@[simp] theorem updPair_pwr (r : RingRef) (f : Pair → Pair) : (updPair m r f).pwr = m.pwr := by cases r <;> simp [updPair]
@[simp] theorem updPair_thm (r : RingRef) (f : Pair → Pair) : (updPair m r f).thm = m.thm := by cases r <;> simp [updPair]
@[simp] theorem updPair_clk (r : RingRef) (f : Pair → Pair) : (updPair m r f).clk = m.clk := by cases r <;> simp [updPair]
@[simp] theorem updPair_pins (r : RingRef) (f : Pair → Pair) : (updPair m r f).pins = m.pins := by cases r <;> simp [updPair]
@[simp] theorem updPair_startup (r : RingRef) (f : Pair → Pair) : (updPair m r f).startup = m.startup := by cases r <;> simp [updPair]
@[simp] theorem updPair_sec (r : RingRef) (f : Pair → Pair) : (updPair m r f).sec = m.sec := by cases r <;> simp [updPair]
@[simp] theorem updPair_grade (r : RingRef) (f : Pair → Pair) : (updPair m r f).grade = m.grade := by cases r <;> simp [updPair]
@[simp] theorem updPair_nodeId (r : RingRef) (f : Pair → Pair) : (updPair m r f).nodeId = m.nodeId := by cases r <;> simp [updPair]
@[simp] theorem updPair_limitModes (r : RingRef) (f : Pair → Pair) : (updPair m r f).limitModes = m.limitModes := by cases r <;> simp [updPair]
@[simp] theorem updPair_limitCclk (r : RingRef) (f : Pair → Pair) : (updPair m r f).limitCclk = m.limitCclk := by cases r <;> simp [updPair]
@[simp] theorem updPair_limitPower (r : RingRef) (f : Pair → Pair) : (updPair m r f).limitPower = m.limitPower := by cases r <;> simp [updPair]
@[simp] theorem updPair_time (r : RingRef) (f : Pair → Pair) : (updPair m r f).time = m.time := by cases r <;> simp [updPair]
@[simp] theorem updPair_eventSeq (r : RingRef) (f : Pair → Pair) : (updPair m r f).eventSeq = m.eventSeq := by cases r <;> simp [updPair]
@[simp] theorem updPair_badAccess (r : RingRef) (f : Pair → Pair) : (updPair m r f).badAccess = m.badAccess := by cases r <;> simp [updPair]
@[simp] theorem updPair_eholdRefused (r : RingRef) (f : Pair → Pair) : (updPair m r f).eholdRefused = m.eholdRefused := by cases r <;> simp [updPair]
@[simp] theorem updPair_fetchNo (r : RingRef) (f : Pair → Pair) : (updPair m r f).fetchNo = m.fetchNo := by cases r <;> simp [updPair]
@[simp] theorem updPair_freeCount (r : RingRef) (f : Pair → Pair) : (updPair m r f).freeCount = m.freeCount := by cases r <;> simp [updPair]
@[simp] theorem updPair_resp (r : RingRef) (f : Pair → Pair) : (updPair m r f).resp = m.resp := by cases r <;> simp [updPair]
@[simp] theorem updPair_aborted (r : RingRef) (f : Pair → Pair) : (updPair m r f).aborted = m.aborted := by cases r <;> simp [updPair]

@[simp] theorem updCmd_sites (r : RingRef) (cid : BitVec 16) (f : Cmd → Cmd) : (updCmd m r cid f).sites = m.sites := by simp [updCmd]
@[simp] theorem updCmd_regions (r : RingRef) (cid : BitVec 16) (f : Cmd → Cmd) : (updCmd m r cid f).regions = m.regions := by simp [updCmd]
@[simp] theorem updCmd_groups (r : RingRef) (cid : BitVec 16) (f : Cmd → Cmd) : (updCmd m r cid f).groups = m.groups := by simp [updCmd]
@[simp] theorem updCmd_partners (r : RingRef) (cid : BitVec 16) (f : Cmd → Cmd) : (updCmd m r cid f).partners = m.partners := by simp [updCmd]
@[simp] theorem updCmd_requests (r : RingRef) (cid : BitVec 16) (f : Cmd → Cmd) : (updCmd m r cid f).requests = m.requests := by simp [updCmd]
@[simp] theorem updCmd_outMsgs (r : RingRef) (cid : BitVec 16) (f : Cmd → Cmd) : (updCmd m r cid f).outMsgs = m.outMsgs := by simp [updCmd]
@[simp] theorem updCmd_inMsgs (r : RingRef) (cid : BitVec 16) (f : Cmd → Cmd) : (updCmd m r cid f).inMsgs = m.inMsgs := by simp [updCmd]
@[simp] theorem updCmd_nextTag (r : RingRef) (cid : BitVec 16) (f : Cmd → Cmd) : (updCmd m r cid f).nextTag = m.nextTag := by simp [updCmd]
@[simp] theorem updCmd_partnerOrder (r : RingRef) (cid : BitVec 16) (f : Cmd → Cmd) : (updCmd m r cid f).partnerOrder = m.partnerOrder := by simp [updCmd]
@[simp] theorem updCmd_fabric (r : RingRef) (cid : BitVec 16) (f : Cmd → Cmd) : (updCmd m r cid f).fabric = m.fabric := by simp [updCmd]
@[simp] theorem updCmd_ledger (r : RingRef) (cid : BitVec 16) (f : Cmd → Cmd) : (updCmd m r cid f).ledger = m.ledger := by simp [updCmd]
@[simp] theorem updCmd_rm (r : RingRef) (cid : BitVec 16) (f : Cmd → Cmd) : (updCmd m r cid f).rm = m.rm := by simp [updCmd]
@[simp] theorem updCmd_limits (r : RingRef) (cid : BitVec 16) (f : Cmd → Cmd) : (updCmd m r cid f).limits = m.limits := by simp [updCmd]
@[simp] theorem updCmd_pwr (r : RingRef) (cid : BitVec 16) (f : Cmd → Cmd) : (updCmd m r cid f).pwr = m.pwr := by simp [updCmd]
@[simp] theorem updCmd_thm (r : RingRef) (cid : BitVec 16) (f : Cmd → Cmd) : (updCmd m r cid f).thm = m.thm := by simp [updCmd]
@[simp] theorem updCmd_clk (r : RingRef) (cid : BitVec 16) (f : Cmd → Cmd) : (updCmd m r cid f).clk = m.clk := by simp [updCmd]
@[simp] theorem updCmd_pins (r : RingRef) (cid : BitVec 16) (f : Cmd → Cmd) : (updCmd m r cid f).pins = m.pins := by simp [updCmd]
@[simp] theorem updCmd_startup (r : RingRef) (cid : BitVec 16) (f : Cmd → Cmd) : (updCmd m r cid f).startup = m.startup := by simp [updCmd]
@[simp] theorem updCmd_sec (r : RingRef) (cid : BitVec 16) (f : Cmd → Cmd) : (updCmd m r cid f).sec = m.sec := by simp [updCmd]
@[simp] theorem updCmd_grade (r : RingRef) (cid : BitVec 16) (f : Cmd → Cmd) : (updCmd m r cid f).grade = m.grade := by simp [updCmd]
@[simp] theorem updCmd_nodeId (r : RingRef) (cid : BitVec 16) (f : Cmd → Cmd) : (updCmd m r cid f).nodeId = m.nodeId := by simp [updCmd]
@[simp] theorem updCmd_limitModes (r : RingRef) (cid : BitVec 16) (f : Cmd → Cmd) : (updCmd m r cid f).limitModes = m.limitModes := by simp [updCmd]
@[simp] theorem updCmd_limitCclk (r : RingRef) (cid : BitVec 16) (f : Cmd → Cmd) : (updCmd m r cid f).limitCclk = m.limitCclk := by simp [updCmd]
@[simp] theorem updCmd_limitPower (r : RingRef) (cid : BitVec 16) (f : Cmd → Cmd) : (updCmd m r cid f).limitPower = m.limitPower := by simp [updCmd]
@[simp] theorem updCmd_time (r : RingRef) (cid : BitVec 16) (f : Cmd → Cmd) : (updCmd m r cid f).time = m.time := by simp [updCmd]
@[simp] theorem updCmd_eventSeq (r : RingRef) (cid : BitVec 16) (f : Cmd → Cmd) : (updCmd m r cid f).eventSeq = m.eventSeq := by simp [updCmd]
@[simp] theorem updCmd_badAccess (r : RingRef) (cid : BitVec 16) (f : Cmd → Cmd) : (updCmd m r cid f).badAccess = m.badAccess := by simp [updCmd]
@[simp] theorem updCmd_eholdRefused (r : RingRef) (cid : BitVec 16) (f : Cmd → Cmd) : (updCmd m r cid f).eholdRefused = m.eholdRefused := by simp [updCmd]
@[simp] theorem updCmd_fetchNo (r : RingRef) (cid : BitVec 16) (f : Cmd → Cmd) : (updCmd m r cid f).fetchNo = m.fetchNo := by simp [updCmd]
@[simp] theorem updCmd_freeCount (r : RingRef) (cid : BitVec 16) (f : Cmd → Cmd) : (updCmd m r cid f).freeCount = m.freeCount := by simp [updCmd]
@[simp] theorem updCmd_resp (r : RingRef) (cid : BitVec 16) (f : Cmd → Cmd) : (updCmd m r cid f).resp = m.resp := by simp [updCmd]
@[simp] theorem updCmd_aborted (r : RingRef) (cid : BitVec 16) (f : Cmd → Cmd) : (updCmd m r cid f).aborted = m.aborted := by simp [updCmd]

end Frame

/-! ### The state as a whole -/

@[simp] theorem withMod_fuses (s : State) (m : Mod) : (s.withMod m).fuses = s.fuses := rfl
@[simp] theorem withMod_mod (s : State) (m : Mod) : (s.withMod m).mod = m := rfl
@[simp] theorem withMod_pending (s : State) (m : Mod) : (s.withMod m).pending = s.pending := rfl
@[simp] theorem withMod_withMod (s : State) (m n : Mod) : (s.withMod m).withMod n = s.withMod n := rfl
@[simp] theorem withMod_same (s : State) : s.withMod s.mod = s := rfl

/-! ### Sites -/

/-- A changed site. -/
@[simp] theorem siteOf_updSite_same (m : Mod) (s : Nat) (f : Site → Site) : siteOf (updSite m s f) s = f (siteOf m s) := by
  simp [siteOf, updSite, mget]
/-- Every other site stands. -/
theorem siteOf_updSite_ne (m : Mod) (s : Nat) (f : Site → Site) (t : Nat) (h : t ≠ s) : siteOf (updSite m s f) t = siteOf m t := by
  simp [siteOf, updSite, mget, mget?_mset_ne, h]
/-- A changed core. -/
@[simp] theorem siteOf_updCore_same (m : Mod) (s : Nat) (f : Core → Core) :
    siteOf (updCore m s f) s = { siteOf m s with core := f (siteOf m s).core } := by simp [updCore]
/-- Every other site stands. -/
theorem siteOf_updCore_ne (m : Mod) (s : Nat) (f : Core → Core) (t : Nat) (h : t ≠ s) :
    siteOf (updCore m s f) t = siteOf m t := siteOf_updSite_ne m s _ t h
/-- A changed slice. -/
@[simp] theorem siteOf_updSlice_same (m : Mod) (s : Nat) (f : Slice → Slice) :
    siteOf (updSlice m s f) s = { siteOf m s with slice := f (siteOf m s).slice } := by simp [updSlice]
/-- A changed router. -/
@[simp] theorem siteOf_updRouter_same (m : Mod) (s : Nat) (f : Router → Router) :
    siteOf (updRouter m s f) s = { siteOf m s with router := f (siteOf m s).router } := by simp [updRouter]
/-- A site's changed sensors. -/
@[simp] theorem siteOf_updEnv_same (m : Mod) (s : Nat) (f : SiteEnv → SiteEnv) :
    siteOf (updEnv m s f) s = { siteOf m s with env := f (siteOf m s).env } := by simp [updEnv]
/-- No site changes with a region. -/
@[simp] theorem siteOf_updRegion (m : Mod) (r : Nat) (f : Region → Region) (t : Nat) : siteOf (updRegion m r f) t = siteOf m t := rfl
/-- No site changes with a partition. -/
@[simp] theorem siteOf_updPart (m : Mod) (p : Nat) (f : Part → Part) (t : Nat) : siteOf (updPart m p f) t = siteOf m t := by
  simp [siteOf]

/-! ### Regions -/

/-- A changed region. -/
@[simp] theorem regionAt_updRegion_same (m : Mod) (r : Nat) (f : Region → Region) :
    regionAt (updRegion m r f) r = f (regionAt m r) := by simp [regionAt, updRegion, mget]
/-- Every other region stands. -/
theorem regionAt_updRegion_ne (m : Mod) (r : Nat) (f : Region → Region) (t : Nat) (h : t ≠ r) :
    regionAt (updRegion m r f) t = regionAt m t := by simp [regionAt, updRegion, mget, mget?_mset_ne, h]
/-- A region's changed power. -/
@[simp] theorem regionAt_updPower_same (m : Mod) (r : Nat) (f : RegPower → RegPower) :
    regionAt (updPower m r f) r = { regionAt m r with power := f (regionAt m r).power } := by simp [updPower]
/-- A region's changed clock. -/
@[simp] theorem regionAt_updClock_same (m : Mod) (r : Nat) (f : RegClock → RegClock) :
    regionAt (updClock m r f) r = { regionAt m r with clock := f (regionAt m r).clock } := by simp [updClock]
/-- No region changes with a site. -/
@[simp] theorem regionAt_updSite (m : Mod) (s : Nat) (f : Site → Site) (t : Nat) : regionAt (updSite m s f) t = regionAt m t := rfl
/-- No region changes with a core. -/
@[simp] theorem regionAt_updCore (m : Mod) (s : Nat) (f : Core → Core) (t : Nat) : regionAt (updCore m s f) t = regionAt m t := rfl

/-! ### Partitions -/

/-- A changed partition. -/
@[simp] theorem partOf?_updPart_same (m : Mod) (p : Nat) (f : Part → Part) :
    partOf? (updPart m p f) p = (partOf? m p).map f := by
  unfold updPart partOf?
  split
  · rename_i h; simp [h]
  · rename_i h; simp [h]
/-- Every other partition stands. -/
theorem partOf?_updPart_ne (m : Mod) (p : Nat) (f : Part → Part) (q : Nat) (h : q ≠ p) :
    partOf? (updPart m p f) q = partOf? m q := by
  unfold updPart partOf?
  split
  · simp [mget?_mset_ne, h]
  · rfl
/-- No partition changes with a site. -/
@[simp] theorem partOf?_updSite (m : Mod) (s : Nat) (f : Site → Site) (p : Nat) : partOf? (updSite m s f) p = partOf? m p := rfl
/-- No partition changes with a core. -/
@[simp] theorem partOf?_updCore (m : Mod) (s : Nat) (f : Core → Core) (p : Nat) : partOf? (updCore m s f) p = partOf? m p := rfl
/-- No partition changes with a region. -/
@[simp] theorem partOf?_updRegion (m : Mod) (r : Nat) (f : Region → Region) (p : Nat) : partOf? (updRegion m r f) p = partOf? m p := rfl
/-- No partition changes with a host site. -/
@[simp] theorem partOf?_updHost (m : Mod) (h : Nat) (f : HostSite → HostSite) (p : Nat) : partOf? (updHost m h f) p = partOf? m p := rfl

/-! ### Host sites and port groups -/

/-- A changed host site. -/
theorem hostOf_updHost_same (m : Mod) (h : Nat) (f : HostSite → HostSite) (hl : h < m.hosts.length) :
    hostOf (updHost m h f) h = f (hostOf m h) := by
  simp [hostOf, updHost, lupd, List.getD_eq_getElem?_getD, hl]
/-- Every other host site stands. -/
theorem hostOf_updHost_ne (m : Mod) (h : Nat) (f : HostSite → HostSite) (k : Nat) (hk : k ≠ h) :
    hostOf (updHost m h f) k = hostOf m k := by
  simp [hostOf, updHost, lupd, List.getD_eq_getElem?_getD, hk.symm]
/-- A changed port group. -/
theorem groupOf_updGroup_same (m : Mod) (g : Nat) (f : PortGroup → PortGroup) (hl : g < m.groups.length) :
    groupOf (updGroup m g f) g = f (groupOf m g) := by
  simp [groupOf, updGroup, lupd, List.getD_eq_getElem?_getD, hl]
/-- Every other port group stands. -/
theorem groupOf_updGroup_ne (m : Mod) (g : Nat) (f : PortGroup → PortGroup) (k : Nat) (hk : k ≠ g) :
    groupOf (updGroup m g f) k = groupOf m k := by
  simp [groupOf, updGroup, lupd, List.getD_eq_getElem?_getD, hk.symm]

end Sys2Proof.Machine
end

