-- ==== Sys2Proof/Laws/Ops.lean ====
section
/-! SUPPORT. What the shared operations do, said once. -/
namespace Sys2Proof.Machine
open Sys2Proof

/-- Every meaning without fuses answers the state with its module. -/
theorem lift_withMod (f : Mod → Mod) (s : State) : lift f s = .next (s.withMod (f s.mod)) := rfl

/-- A command that is taken starts. -/
theorem takeCmd_taken {r : RingRef} {e : SqEntry} {h : HostSide} {op : Nat} {s : State} {m : Mod} {c : Cmd}
    (t : Taken r e h op s m c) (f : Mod → RingRef → Cmd → Mod) : takeCmd r e h op f s.mod = f m r c := by
  obtain ⟨rfl, ho, ha, hc, he, hp, hs, hw⟩ := t
  subst he
  simp [takeCmd, startCmd, ho, ha, hc, hp, hs, hw]

/-- A taken command is the entry's. -/
theorem taken_entry {r : RingRef} {e : SqEntry} {h : HostSide} {op : Nat} {s : State} {m : Mod} {c : Cmd}
    (t : Taken r e h op s m c) : c.entry = e := t.2.2.2.2.1

/-- A command of a partition's ring runs on its partition. -/
theorem onPart_on {m : Mod} {r : RingRef} {p : Nat} {x : Part} (t : OnPart m r p x) (c : Cmd) (f : Nat → Part → Mod) :
    onPart m r c f = f p x := by
  obtain ⟨⟨u, k, rfl, rfl⟩, hx⟩ := t
  simp [onPart, hx]

/-- A sequence command runs on its sequence. -/
theorem onSeq_on {m : Mod} {r : RingRef} {p : Nat} {x : Part} {q : Seq} {c : Cmd} (t : OnSeq m r p x q c) {never : Bool}
    (h : never = true ∨ planStopped x = false) (f : Nat → Part → Seq → Mod) : onSeq m r c never f = f p x q := by
  obtain ⟨t1, t2, t3⟩ := t
  rw [onSeq, onPart_on t1]
  simp only [t2, t3]
  rcases h with h | h <;> simp [h]

/-- A partition whose plan is not stopped is not FAULTED. -/
theorem not_faulted {x : Part} (h : planStopped x = false) : x.frame0 ≠ .faulted := by
  intro hf
  simp [planStopped, hf] at h

/-- Every command that can reach the block answers the state with another module, FUSE_PROGRAM_DONE apart. -/
theorem exec_withMod (c : Instr) (s : State) (hw : c.wellFormed = true) :
    (∃ m, exec c s = .next (s.withMod m)) ∨ c = .fuseProgramDone := by
  cases c
  case fuseProgramDone => exact .inr rfl
  case write g k hd ls h => exact .inl ⟨_, by simp [exec, execWrite, Instr.wellFormed] at *; rw [if_pos hw]; rfl⟩
  case readData g k hd ls => exact .inl ⟨_, by simp [exec, execReadData, Instr.wellFormed] at *; rw [if_pos hw]; rfl⟩
  all_goals exact .inl ⟨_, rfl⟩

/-! ### The compute engines (R45, R46, R78) -/

/-- What an instruction of a compute engine can do: nothing, change its core, or change its core and latch a fault. -/
theorem runCompute_cases (m : Mod) (e op : Nat) (i : Issue) (late : Bool) (bad : InstrWord → Bool)
    (f : Part → Core → Except (Core × Trap) Core) :
    runCompute m e op i late bad f = m
      ∨ (∃ d, runCompute m e op i late bad f = updCore m i.site.val (fun _ => d))
      ∨ ∃ d u t, runCompute m e op i late bad f = latch (updCore m i.site.val (fun _ => d)) i.site.val u 0 i.index.val t := by
  rw [runCompute]
  split
  · exact .inl rfl
  · simp only
    repeat' split
    all_goals first
      | exact .inl rfl
      | exact .inr (.inl ⟨_, rfl⟩)
      | exact .inr (.inr ⟨_, _, _, rfl⟩)

/-- An instruction that issues, acts and completes. -/
theorem runCompute_done {e op : Nat} {i : Issue} {s : State} {x : Part} {c d d' : Core} {bad : InstrWord → Bool}
    {f : Part → Core → Except (Core × Trap) Core} (h : Computes e op i s x c) (hb : bad i.word = false)
    (hf : f x c = .ok d) (hr : resumes e d = false) (hd : completeCore i.word d = .ok d') :
    runCompute s.mod e op i false bad f = updCore s.mod i.site.val (fun _ => bumpDone e d') := by
  obtain ⟨h1, h2, h3, rfl, h4⟩ := h
  obtain ⟨⟨p, y⟩, hp, rfl⟩ := Option.map_eq_some_iff.mp h1
  simp only [runCompute, hp, h2, h3, hb, hf, hd, h4, hr]
  simp

/-- An instruction that issues and acts, and completes later. -/
theorem runCompute_late {e op : Nat} {i : Issue} {s : State} {x : Part} {c d : Core} {bad : InstrWord → Bool}
    {f : Part → Core → Except (Core × Trap) Core} (h : Computes e op i s x c) (hb : bad i.word = false)
    (hf : f x c = .ok d) (hr : resumes e d = false) :
    runCompute s.mod e op i true bad f = updCore s.mod i.site.val (fun _ => bumpDone e d) := by
  obtain ⟨h1, h2, h3, rfl, h4⟩ := h
  obtain ⟨⟨p, y⟩, hp, rfl⟩ := Option.map_eq_some_iff.mp h1
  simp only [runCompute, hp, h2, h3, hb, hf, h4, hr]
  simp

/-- An instruction that issues and acts, and goes on at a further command. -/
theorem runCompute_resumes {e op : Nat} {i : Issue} {s : State} {x : Part} {c d : Core} {late : Bool} {bad : InstrWord → Bool}
    {f : Part → Core → Except (Core × Trap) Core} (h : Computes e op i s x c) (hb : bad i.word = false)
    (hf : f x c = .ok d) (hr : resumes e d = true) :
    runCompute s.mod e op i late bad f = updCore s.mod i.site.val (fun _ => d) := by
  obtain ⟨h1, h2, h3, rfl, h4⟩ := h
  obtain ⟨⟨p, y⟩, hp, rfl⟩ := Option.map_eq_some_iff.mp h1
  simp only [runCompute, hp, h2, h3, hb, hf, h4, hr]
  simp

/-- A transfer that issues, is not held back and completes by acknowledgement (R190). -/
theorem runTransfer_done {op : Nat} {i : Issue} {s : State} {x : Part} {c d : Core} {bad : InstrWord → Bool}
    {f : Part → Core → Except (Core × Trap) Core} (g : Part → Mod → Mod) (h : Computes 4 op i s x c)
    (hf : fenceHolds s.mod i = false) (hb : bad i.word = false) (hd : f x c = .ok d) (hl : d.done = c.done)
    (h4 : 4 < c.done.length) :
    runTransfer s.mod op i bad f g = g x (updCore s.mod i.site.val (fun _ => bumpDone 4 d)) := by
  have hc := runCompute_late h hb hd rfl
  obtain ⟨h1, h2, h3, rfl, -⟩ := h
  rw [show resumes 4 (siteOf s.mod i.site.val).core = false from rfl] at *
  simp only [Bool.false_eq_true, if_false] at *
  obtain ⟨⟨p, y⟩, hp, rfl⟩ := Option.map_eq_some_iff.mp h1
  have hdn : (takeWait i.word (siteOf s.mod i.site.val).core).done = (siteOf s.mod i.site.val).core.done := by
    unfold takeWait; split <;> rfl
  rw [hdn] at hl h4
  simp only [runTransfer, hf, hp, hc, siteOf_updCore_same, bumpDone, hl]
  simp [lupd, List.getD_eq_getElem?_getD, h4]

/-- Reading words changes no issue count. -/
theorem readWords_issues {sf : List ScratchFault} {c c1 : Core} {a n : Nat} {ws : List Word}
    (h : readWords sf c a n = .ok (c1, ws)) : c1.done = c.done := by
  have key : ∀ (l : List ScratchFault) (c : Core), (l.foldl scratchError c).done = c.done := by
    intro l
    induction l with
    | nil => exact fun _ => rfl
    | cons f l ih => intro c; rw [List.foldl_cons, ih]; unfold scratchError setPoison; split <;> rfl
  simp only [readWords] at h
  split at h
  · cases h
  · cases h; exact key _ _

/-- Nothing changes only a core too. -/
theorem coreOnly_refl (m : Mod) (s : Nat) : CoreOnly m m s :=
  ⟨rfl, fun _ _ => rfl, rfl, fun r => by split <;> rfl, .inl rfl⟩

/-- Changing a core changes it only. -/
theorem coreOnly_updCore (m : Mod) (s : Nat) (f : Core → Core) : CoreOnly m (updCore m s f) s :=
  ⟨rfl, fun j h => siteOf_updCore_ne m s f j h, by simp, fun r => by split <;> rfl, .inl rfl⟩

/-- What changes a core only, twice. -/
theorem CoreOnly.trans {m n t : Mod} {s : Nat} (h : CoreOnly m n s) (k : CoreOnly n t s)
    (hr : n.fabric.reports = m.fabric.reports) (hp : partAtSite n s = partAtSite m s) : CoreOnly m t s := by
  refine ⟨?_, fun j hj => (k.others j hj).trans (h.others j hj), ?_, ?_, ?_⟩
  · rw [k.rest, h.rest]
  · rw [k.own, h.own]
  · intro r
    have a := k.region r
    have b := h.region r
    by_cases e : r = regionOf s
    · simp only [e, if_true] at a b ⊢
      rw [a, b]
    · simp only [e, if_false] at a b ⊢
      rw [a, b]
  · rw [← hr, ← hp]; exact k.reports

/-- Noting a region's first fault. -/
theorem coreOnly_note (m : Mod) (s k code : Nat) (cls : FaultClass) :
    CoreOnly m (noteRegionFault m (regionOf s) k code cls) s := by
  refine ⟨rfl, fun _ _ => rfl, rfl, fun r => ?_, .inl rfl⟩
  by_cases e : r = regionOf s
  · subst e
    simp only [noteRegionFault, regionAt_updRegion_same, if_true]
    split <;> rfl
  · simp only [noteRegionFault, regionAt_updRegion_ne _ _ _ _ e, e, if_false]

/-- Reporting a fault of a site for its partition. -/
theorem coreOnly_report (m : Mod) (s p : Nat) (n : FaultNote) (hn : n.site = s) (hp : partAtSite m s = some p) :
    CoreOnly m (report m p n) s :=
  ⟨rfl, fun _ _ => rfl, rfl, fun r => by split <;> rfl, .inr ⟨p, n, rfl, hn, hp⟩⟩

/-- Latching a fault changes its core, its region's first-fault record, and adds at most one report (R78). -/
theorem coreOnly_latch (m : Mod) (s e l k : Nat) (t : Trap) : CoreOnly m (latch m s e l k t) s := by
  rw [latch]
  split
  · exact coreOnly_updCore m s _
  · have h := (coreOnly_updCore m s (fun c => { c with
        state := .faulted, atBarrier := false,
        fault := some { code := t.code, engine := e, list := l, instr := k, info := t.info, addr := t.addr } })).trans
      (coreOnly_note _ s s t.code (coreFaultClass t.code)) rfl rfl
    simp only
    split
    · rename_i p hp
      exact h.trans (coreOnly_report _ s p _ rfl hp) rfl rfl
    · exact h

/-- Every instruction of a compute engine changes its own core only. -/
theorem coreOnly_runCompute (m : Mod) (e op : Nat) (i : Issue) (late : Bool) (bad : InstrWord → Bool)
    (f : Part → Core → Except (Core × Trap) Core) : CoreOnly m (runCompute m e op i late bad f) i.site.val := by
  rcases runCompute_cases m e op i late bad f with h | ⟨d, h⟩ | ⟨d, u, t, h⟩ <;> rw [h]
  · exact coreOnly_refl m _
  · exact coreOnly_updCore m _ _
  · exact (coreOnly_updCore m _ _).trans (coreOnly_latch _ _ _ _ _ _) rfl rfl

/-- An action on each of a list keeps whatever one action keeps. -/
theorem forAll_keeps {β : Type} {f : Mod → Nat → Mod} (g : Mod → β) (h : ∀ m a, g (f m a) = g m) (m : Mod) (l : List Nat) :
    g (forAll m l f) = g m := by
  induction l generalizing m with
  | nil => rfl
  | cons a l ih => exact (ih (f m a)).trans (h m a)

/-- An access instruction that issues and moves its list on. -/
theorem runAccess_done {op : Nat} {begun : Bool} {i : Issue} {s : State} {x : Part} {b pos : Nat} {bad : InstrWord → Bool}
    {f : Part → AccOut} {m : Mod} (h : Accesses op begun i s x b pos) (hb : bad i.word = false) (hf : f x = .done m) :
    runAccess s.mod op i begun bad f = accessed m i.site.val i.list.val b pos i.ahead := by
  obtain ⟨p, st, h1, ⟨h2, h3, h4, h5⟩, h6, h7, h8, h9⟩ := h
  rw [runAccess]
  simp only [h1, h2, h3, h4, h5, h6, h7, h8, h9, hb, hf, accessed]
  simp

end Sys2Proof.Machine
end

