-- ==== Sys2Proof/Tests/Slice0.lean ====
section
/-! SUPPORT. The model's own tests: decoding, operands refused, worked examples of the spec, and for every statement a
state and operands that meet its hypotheses. -/
namespace Sys2Proof.Machine
open Sys2Proof
set_option Elab.async false

/-! ### Helpers -/

/-- A computation answers. -/
def good {ε α : Type} (e : Except ε α) : Bool :=
  match e with
  | .ok _ => true
  | .error _ => false

theorem good_ok {ε α : Type} {e : Except ε α} (h : good e = true) : ∃ a, e = .ok a := by
  cases e with
  | ok a => exact ⟨a, rfl⟩
  | error b => exact absurd h (by simp [good])

theorem good_bind {ε α β : Type} {e : Except ε α} {f : α → Except ε β} (h : good (e >>= f) = true) :
    ∃ a, e = .ok a ∧ good (f a) = true := by
  cases e with
  | ok a => exact ⟨a, rfl, h⟩
  | error b => exact absurd h (by simp [good, bind, Except.bind])

/-- A computation answers a given value. -/
def okIs {ε α : Type} [DecidableEq α] (e : Except ε α) (a : α) : Bool :=
  match e with
  | .ok b => decide (b = a)
  | .error _ => false

theorem of_okIs {ε α : Type} [DecidableEq α] {e : Except ε α} {a : α} (h : okIs e a = true) : e = .ok a := by
  cases e with
  | ok b => exact congrArg _ (of_decide_eq_true h)
  | error b => exact absurd h (by simp [okIs])

/-- An instruction word from fields (place, value). -/
def tWord (op engine : Nat) (fs : List (Nat × Nat)) : InstrWord :=
  BitVec.ofNat 128 (fs.foldl (fun a f => a + f.2 * 2 ^ f.1) (op + 64 * engine))

/-- A plan with one virtual core, at the last site. -/
def tPlan : Plan :=
  { image := 0, planId := 0, weightDigest := 0, buckets := [1], schedules := [(0, [0])], cacheFormat := 1, maxSequences := 2,
    maxAdapters := 1, routeIds := 1, routeBase := [(1535, 0)], layers := [],
    windows := [⟨63, 0, 3, 1535, 0, 0, 0, 16, 0, 0⟩],
    routes := [], service := [], parents := [0], coreFrame := [0], permits := [1],
    vcores := [⟨[], [], [], [0, 0, 0, 0], 0, 0, 0, 0⟩],
    sites := [1535], chunks := [], pairs := [], pageSlots := 1, source := 0, weightAddr := 0, weightLen := 0, detours := [], toolVersion := 0 }

/-- A partition whose step is in progress. -/
def tPart : Part :=
  { (Part.create Mod.reset 0 [] .latency false) with plan := some tPlan, inStep := true, frame0 := .run, digest := 0 }

/-- A core in `RUN` whose every list is the one instruction at index 16. -/
def tCore (w : InstrWord) : Core :=
  { Core.reset with
    state := .run, seg := List.replicate 8 (0, 98304), vseg := List.replicate 4 (0, 1000),
    stage := List.replicate 16 (0, 9000),
    prog := [(0, tWord 0 0 [(32, 20), (64, 1)]), (3, tWord 0 0 [(32, 4)]),
      (4, tWord 0 0 [(0, 65552), (32, 65552), (64, 65552), (96, 65552)]),
      (5, tWord 0 0 [(0, 65552), (32, 65552), (64, 65552), (96, 65552)]),
      (6, tWord 0 0 [(0, 65552), (32, 65552), (64, 65552), (96, 65552)]),
      (7, tWord 0 0 [(0, 65552), (32, 65552), (64, 65552), (96, 65552)]),
      (8, tWord 0 0 [(0, 65552), (32, 65552), (64, 65552), (96, 65552)]), (16, w)] }

/-- A state with a core at the last site and partition 15 there. -/
def tStateOf (c : Core) (x : Part) : State :=
  { State.reset with
    mod := { Mod.reset with
      sites := [(1535, { Site.reset with core := c, slice := { Slice.reset with state := .ready } })],
      parts := [(15, x)] } }

/-- That state for one instruction. -/
def tState (w : InstrWord) : State := tStateOf (tCore w) tPart

/-- The instruction as it issues at the last site. -/
def tIssue (w : InstrWord) (list : Fin 16) : Issue :=
  { site := 1535, list := list, ahead := 0, index := 16, word := w, mem := [], scratch := [], logic := false }

/-- Accesses, as one decidable question. -/
theorem accesses_of {op : Nat} {begun : Bool} {i : Issue} {s : State} {x : Part} {b pos : Nat} (p : Nat) (inStep : Bool)
    (h : issuing s.mod i.site.val = some (p, x)
      ∧ (let c := (siteOf s.mod i.site.val).core
         accessNext x c i.list.val (c.beatCount + 17 - c.accessBeat.getD i.list.val 0) (c.accessBeat.getD i.list.val 0)
            (c.accessPos.getD i.list.val 0) = some (b, pos, i.index.val, inStep)
         ∧ i.ahead = b - c.beatCount ∧ mget c.prog i.index.val 0 = i.word
         ∧ c.xfers.any (fun t => t.opcode = 0x40 && t.list = i.list.val) = false)
      ∧ badHeader 0 i.word = false ∧ wOpcode i.word = op ∧ (begun && !inStep) = false ∧ i.logic = false) :
    Accesses op begun i s x b pos := ⟨p, inStep, h⟩

/-- A source read, written and completed. -/
theorem chain2 {i : Issue} {x : Part} {c : Core} (g : Core → List B32 → List B32)
    (h : good (vSource i.scratch x i.word c >>= fun r => vDest x i.word r.1 (g r.1 r.2) >>= fun d => completeCore i.word d) = true) :
    ∃ c1 vs d e, vSource i.scratch x i.word c = .ok (c1, vs) ∧ vDest x i.word c1 (g c1 vs) = .ok d ∧ completeCore i.word d = .ok e := by
  obtain ⟨⟨c1, vs⟩, h1, h⟩ := good_bind h
  obtain ⟨d, h2, h⟩ := good_bind h
  obtain ⟨e, h3⟩ := good_ok h
  exact ⟨c1, vs, d, e, h1, h2, h3⟩

/-- A source and a parameter operand read, written and completed. -/
theorem chain3 {i : Issue} {x : Part} {c : Core} (n : Nat → Nat) (g : Core → List B32 → List B32 → List B32)
    (h : good (vSource i.scratch x i.word c >>= fun r => vParamVals i.scratch i.word r.1 (n r.2.length) >>= fun t =>
      vDest x i.word t.1 (g r.1 r.2 t.2) >>= fun d => completeCore i.word d) = true) :
    ∃ c1 vs c2 ps d e, vSource i.scratch x i.word c = .ok (c1, vs)
      ∧ vParamVals i.scratch i.word c1 (n vs.length) = .ok (c2, ps)
      ∧ vDest x i.word c2 (g c1 vs ps) = .ok d ∧ completeCore i.word d = .ok e := by
  obtain ⟨⟨c1, vs⟩, h1, h⟩ := good_bind h
  obtain ⟨⟨c2, ps⟩, h2, h⟩ := good_bind h
  obtain ⟨d, h3, h⟩ := good_bind h
  obtain ⟨e, h4⟩ := good_ok h
  exact ⟨c1, vs, c2, ps, d, e, h1, h2, h3, h4⟩

/-- A vector word: binary32 in scratch, one element. -/
def tVec (op : Nat) (fs : List (Nat × Nat)) : InstrWord := tWord op 3 ([(32, 0x11), (38, 0x11), (44, 7), (70, 7), (112, 15)] ++ fs)

/-- A tag of the scaled format 0x01 in the last word of scratch line 0. -/
def tTagged (c : Core) : Core := { c with scratch := [(8, BitVec.ofNat 64 (2 ^ 32))] }

/-- A sequence of a partition. -/
def tSeq : Machine.Seq :=
  newSeq 0x1 0 0 0 0 0 0 { block := 0, counter := 0, table := [], ring := [], fill := 0 } 0

/-- A batch table entry that feeds the positions `fed`. -/
def tMember (valid : Bool) (new : Nat) (fed : List (BitVec 32)) : Member :=
  { handle := 1, length := 0, posOffset := 0, new := new, valid := valid, cow := none, version := 0, newPages := [], fed := fed,
    masked := false, cmdNo := 0 }


/-- The state with another module. -/
def tMod (s : State) (f : Mod → Mod) : State := { s with mod := f s.mod }
/-- A core at the last site, in a step of partition 15. -/
def tBase : State := tStateOf (tCore 0) tPart
/-- That state with its partition changed. -/
def tPartly (f : Part → Part) : State := tStateOf (tCore 0) (f tPart)
/-- That state with its slice changed. -/
def tSlice (f : Slice → Slice) : State := tMod tBase (fun m => updSlice m 1535 f)
/-- A layer. -/
def tLayer : LayerSt :=
  { level := 0, capped := false, pending := false, streak := 0, clean := 0, lastScore := 0, changeStep := 0, calmStep := 0, nonfinite := 0,
    window := ⟨0, 0, 0, 0⟩, cappedStep := none, roseWindow := none, failStep := none, staged := none }
/-- Its entry in the layer table. -/
def tEntry : LayerEntry := ⟨4095, 0, 3, false, false, 2, 4, 4, 0, 0, 24, 0, [0], 0⟩
/-- A partition whose last layer stands at `l` with one score. -/
def tWatch (l : LayerSt) (sc : List Score) (n : Nat) : State :=
  tMod (tPartly (fun x => { x with plan := some { tPlan with layers := [tEntry] }, layers := [(4095, l)], scores := sc, stepCount := n }))
    (fun m => { m with rm := { m.rm with west := ⟨.active, false, 1⟩ } })
/-- A partition of a state. -/
def tPartOf (s : State) : Part := (partOf? s.mod 15).getD tPart

/-- A submission entry on a sequence or on none. -/
def tEnt (op handle args : Nat) : SqEntry :=
  { opcode := BitVec.ofNat 8 op, flags := 0, cid := 65535, handle := BitVec.ofNat 32 handle, addr0 := 0, addr1 := 0, len0 := 0,
    len1 := 0, args := BitVec.ofNat 256 args }
/-- The same with buffer 0. -/
def tBuf (op handle args len : Nat) : SqEntry := { tEnt op handle args with addr0 := 4096, len0 := BitVec.ofNat 32 len }
/-- The command as decoded. -/
def tCmd (e : SqEntry) : Cmd :=
  { entry := e, phase := .decoded, fetchNo := 0, decodeTime := 0, done := 0, toks := [], bad := false, abortBy := none }
/-- A ring pair with it. -/
def tPair (e : SqEntry) : Pair := { Pair.reset with state := .active, enable := true, cmds := [tCmd e] }
/-- The state with Ringmaster member west in control. -/
def tLive (s : State) : State := { s with mod := { s.mod with rm := { s.mod.rm with west := ⟨.active, false, 1⟩ } } }
/-- The last pair of the last partition. -/
def tR : RingRef := .part 15 63
/-- An admin pair. -/
def tA : RingRef := .admin 3
/-- The host does nothing. -/
def tSide : HostSide := ⟨[], []⟩
/-- A partition at a step boundary with the command on its last pair. -/
def tAsk (e : SqEntry) (f : Part → Part) : Part :=
  f { tPart with pairs := [(63, tPair e)], session := .active, inStep := false }
/-- The state in which it asks. -/
def tAskS (e : SqEntry) (f : Part → Part) : State := tLive (tStateOf (tCore 0) (tAsk e f))
/-- The module then. -/
def tAskM (e : SqEntry) (f : Part → Part) : Mod := applySide (tAskS e f).mod (ringHost (tAskS e f).mod tR) tSide
/-- The state in which the command waits on the last host's admin pair. -/
def tAdm (e : SqEntry) (f : Mod → Mod) : State :=
  tLive (tMod tBase (fun m => f (updHost m 3 (fun y => { y with admin := tPair e }))))
/-- The module then. -/
def tAdmM (e : SqEntry) (f : Mod → Mod) : Mod := applySide (tAdm e f).mod (ringHost (tAdm e f).mod tA) tSide

theorem taken_ask {e : SqEntry} {f : Part → Part} {op : Nat}
    (h : e.opcode.toNat = op ∧ rmAlive (tAskM e f) = true ∧ cmdOf? (tAskM e f) tR e.cid = some (tCmd e)
      ∧ shutOut (tAskM e f) (tCmd e) = false ∧ orderedWaits (pairOf (tAskM e f) tR) (tCmd e) = false) :
    Taken tR e tSide op (tAskS e f) (tAskM e f) (tCmd e) :=
  ⟨rfl, h.1, h.2.1, h.2.2.1, rfl, Or.inl rfl, h.2.2.2.1, h.2.2.2.2⟩

theorem taken_adm {e : SqEntry} {f : Mod → Mod} {op : Nat}
    (h : e.opcode.toNat = op ∧ rmAlive (tAdmM e f) = true ∧ cmdOf? (tAdmM e f) tA e.cid = some (tCmd e)
      ∧ shutOut (tAdmM e f) (tCmd e) = false ∧ orderedWaits (pairOf (tAdmM e f) tA) (tCmd e) = false) :
    Taken tA e tSide op (tAdm e f) (tAdmM e f) (tCmd e) :=
  ⟨rfl, h.1, h.2.1, h.2.2.1, rfl, Or.inl rfl, h.2.2.2.1, h.2.2.2.2⟩

theorem onPart_ask {m : Mod} {x : Part} (h : partOf? m 15 = some x) : OnPart m tR 15 x := ⟨⟨15, 63, rfl, rfl⟩, h⟩

theorem onSeq_ask {m : Mod} {x : Part} {q : Machine.Seq} {c : Cmd}
    (h : partOf? m 15 = some x ∧ seqOf? x c.entry.handle = some q ∧ earlierWaits x c = false) : OnSeq m tR 15 x q c :=
  ⟨onPart_ask h.1, h.2⟩

/-- The module after a command's host side. -/
def tSideM (s : State) (r : RingRef) : Mod := applySide s.mod (ringHost s.mod r) tSide

theorem taken_on {r : RingRef} {e : SqEntry} {s : State} {op : Nat}
    (h : e.opcode.toNat = op ∧ rmAlive (tSideM s r) = true ∧ cmdOf? (tSideM s r) r e.cid = some (tCmd e)
      ∧ shutOut (tSideM s r) (tCmd e) = false ∧ orderedWaits (pairOf (tSideM s r) r) (tCmd e) = false) :
    Taken r e tSide op s (tSideM s r) (tCmd e) :=
  ⟨rfl, h.1, h.2.1, h.2.2.1, rfl, Or.inl rfl, h.2.2.2.1, h.2.2.2.2⟩

/-- Bytes in the memory of a host. -/
def tMem (s : State) (h a : Nat) (bs : List Byte) : State := tMod s (fun m => updHost m h (fun y => hostWrite y a bs))
/-- The last host's link up, its admin pair changed. -/
def tLinked (f : Pair → Pair) : State :=
  tLive (tMod tBase (fun m => updHost m 3 (fun y => { y with
    linkUp := true, admin := f { Pair.reset with state := .active, enable := true } })))
/-- A partition of the last host. -/
def tHosted (f : Part → Part) : Part := f { tPart with config := BitVec.ofNat 1024 (3 * 2 ^ 40) }
/-- The state with it. -/
def tHostedS (f : Part → Part) : State := tMod (tLinked id) (fun m => { m with parts := [(15, tHosted f)] })
/-- Bytes of a list of fields (offset, width in bytes, value) over `n` zero bytes. -/
def tBytes (n : Nat) (fs : List (Nat × Nat × Nat)) : List Byte :=
  leBytes n (fs.foldl (fun a f => a + f.2.2 * 2 ^ (8 * f.1)) 0)
/-! ### Operands, table words and the empty queue -/

/-- A message that carries fewer lines than its header counts cannot be sent (R359). -/
theorem test_illFormed_write : Instr.wellFormed (.write 13 1 (BitVec.ofNat 144 (2 ^ 92)) [0] ⟨[], []⟩) = false := by decide
theorem test_illFormed_readData : Instr.wellFormed (.readData 13 1 0 []) = false := by decide
theorem test_wellFormed_readData : Instr.wellFormed (.readData 13 1 (BitVec.ofNat 144 (7 * 2 ^ 92)) (List.replicate 8 0)) = true := by decide
/-- Such a term faults and nothing else happens. -/
theorem test_illFormed_faults : exec (.readData 13 1 0 []) State.reset = .fault .illFormed := by rfl
/-- The table gives no row bits, so no word spells a command. -/
theorem test_no_word : decodeTableWord 128 5 = none ∧ State.reset.withFetchWord 128 5 = State.reset := ⟨rfl, rfl⟩
/-- A module that is off does not tick. -/
theorem test_off_idle : step State.reset = .next State.reset := by rfl
/-- The memories at reset are in canonical form. -/
theorem test_reset_memories : (State.reset.mod.hosts.all (fun y => Memory.wf 0 y.mem)) = true := by decide +kernel

/-! ### The spec's worked examples -/

/-- 01_wafer_organisation.md, locating site 1000. -/
theorem test_site1000 : regionOf 1000 = 42 ∧ localOf 1000 = 4 ∧ siteAt 42 4 = 1000 ∧ xOf 1000 = 8 ∧ yOf 1000 = 31 := by decide

/-- 03_narrow_arithmetic.md, a 64-element dot product: activations. -/
def tActs : List B32 := List.replicate 16 0x41800000 ++ List.replicate 16 0xC1000000 ++ List.replicate 32 0x38000000
/-- Its format, MXFP4. -/
def tFp4 : Packed := (packedOf 0x01).getD ⟨1, 4, 32, 128, 512, 8, 3, -1, 2, 1, 1⟩
/-- The activation column and the weight row as the example prints them. -/
def tColLine : Line := BitVec.ofNat 576 (leNat (List.replicate 8 0x66 ++ List.replicate 8 0xCC ++ List.replicate 16 0x66
  ++ List.replicate 32 0x00 ++ [0x81, 0x6E, 0, 0, 1, 0, 0, 0]))
def tRowLine : Line := BitVec.ofNat 576 (leNat (List.replicate 8 0x33 ++ List.replicate 8 0x11 ++ List.replicate 8 0x33
  ++ [0x11, 0x01] ++ List.replicate 38 0x00 ++ [0x7D, 0x7D, 0, 0, 1, 0, 0, 0]))

theorem test_quant_scales : (quantRun tFp4 none 32 tActs).map (fun b => (b.scale, b.sat, b.zero)) = [(0x81, false, false), (0x6E, false, false)] := by
  decide +kernel
theorem test_quant_line : packRun tFp4 0 (quantRun tFp4 none 32 tActs) = [tColLine] := by decide +kernel
/-- P = 2: 80 + 24 units of 2^-17; P = 1: 80 + 26 units. -/
theorem test_dot_p2 : (laneResult tFp4 tFp4 16 2 2 false [tRowLine] [tColLine] none).entry = some 0x42A00018 := by decide +kernel
theorem test_dot_p1 : (laneResult tFp4 tFp4 16 2 1 false [tRowLine] [tColLine] none).entry = some 0x42A0001A := by decide +kernel
/-- Two cores: partials 80 and 12.75 units of 2^-16 added at a landing. -/
theorem test_dot_split : (lineVals32 (addPartial ((packLines32 0x13 [0x42A00000]).getD 0 0) ((packLines32 0x13 [0x394C0000]).getD 0 0))).head?
    = some 0x42A0001A := by decide +kernel
/-- 04_error_watch_and_widening.md, one output: A = 1536, y_m = 12.3125, y_c = 12.34375 differ by 256 units. -/
theorem test_error_units : unitExp 0x44C00000 = -13 ∧ divergence 0x41450000 0x41458000 (-13) = 0x43800000 := by decide +kernel
/-- 13_power_delivery.md, cells failing in region 42: I_lim in 0.1 A with 2, 3 and 4 cells out. -/
theorem test_ilim : [0x3, 0x7, 0xF].map (fun c => ilimDa { RegPower.reset with cellsFailed := BitVec.ofNat 24 c, pct := 100 })
    = [2250, 2147, 2045] := by decide +kernel
/-- 18_address_map_and_setup_registers.md, confirming the repair of site 1000. -/
def tRepaired : Mod :=
  { Mod.reset with sites := [(1000, { Site.reset with live := some .bad }), (1130, { Site.reset with live := some .active, standin := true })] }
/-- Fuses in which site 1130 (region 42, local 22) is a spare. -/
def tSpareFuse : Fuses := { Fuses.reset with spareMap := List.replicate 64 (BitVec.ofNat 48 (2 ^ (2 * localOf 1130))) }
theorem test_map_sites : siteEntry tSpareFuse tRepaired 1000 = 0x0C ∧ siteEntry tSpareFuse tRepaired 1130 = 0x11 := by decide +kernel
theorem test_map_regions :
    regionEntry (updRegion Mod.reset 42 (fun y => { y with activeSites := 22 })) 42 = 0x12A0
    ∧ regionEntry (updRegion Mod.reset 42 (fun y => { y with evacuated := true, activeSites := 18 })) 42 = 0x02A2
    ∧ regionEntry (updRegion Mod.reset 34 (fun y => { y with standin := true, roleOf := 42, activeSites := 22 })) 34 = 0x12A5 := by
  decide +kernel

/-! ### A plan image that every check passes -/

/-- A configuration record: the last region, one permit a core. -/
def tConfig : BitVec 1024 := BitVec.ofNat 1024 (2 ^ 127)
/-- Program memory of a core: one beat whose vector list is one SAMP_COUNT. -/
def tProgram : List Byte :=
  tBytes 256 [(0, 4, 1), (4, 4, 15), (8, 4, 1), (52, 4, 4), (64 + 72, 4, 65546), (160, 16, (tVec 0x14 []).toNat)]
/-- Its set-up: segment 7 of 100 words, a check reserve, a count table area. -/
def tSetup : List Byte := tBytes 256 [(60, 4, 100), (208, 4, 1000), (212, 4, 512), (220, 4, 5120)]
/-- The module-wide sections: type, size, CRC, body. -/
def tWide : List (Nat × Nat × Nat × List Byte) :=
  [(0x0001, 128, 491514563, leBytes 128 tConfig.toNat),
   (0x0002, 64, 565048381, tBytes 64 [(4, 1, 1), (5, 1, 1), (8, 4, 1), (14, 2, 1), (16, 2, 1)]),
   (0x0020, 4, 1214729159, leBytes 64 0), (0x0030, 44, 3857878678, tBytes 64 [(0, 2, 0xFFFF)]),
   (0x0031, 5, 3626142695, tBytes 64 [(0, 2, 1), (2, 2, 1)]),
   (0x0032, 32, 250917295, tBytes 64 [(18, 10, 2 ^ 80 - 1)])]
/-- A table entry. -/
def tSecEntry (s : ImgSec) : List Byte := tBytes 32 [(0, 2, s.typ), (4, 4, s.vcore), (8, 8, s.off), (16, 8, s.size), (24, 4, s.crc)]
/-- The section table as it reads. -/
def tSecs : List ImgSec :=
  [⟨0, 0x0001, 0xFFFFFFFF, 1728, 128, 491514563⟩, ⟨1, 0x0002, 0xFFFFFFFF, 1856, 64, 565048381⟩,
   ⟨2, 0x0020, 0xFFFFFFFF, 1920, 4, 1214729159⟩, ⟨3, 0x0030, 0xFFFFFFFF, 1984, 44, 3857878678⟩,
   ⟨4, 0x0031, 0xFFFFFFFF, 2048, 5, 3626142695⟩, ⟨5, 0x0032, 0xFFFFFFFF, 2112, 32, 250917295⟩]
  ++ (List.range 20).map (fun v => ⟨6 + v, 0x0010, v, 2176 + 256 * v, 256, 2626528656⟩)
  ++ (List.range 20).map (fun v => ⟨26 + v, 0x0011, v, 7296 + 256 * v, 256, 2233396186⟩)
/-- The configuration digest as a number. -/
def tDigest : Nat :=
  1934192006489510872753820443151336968288928016806156393933172778247753647140_18757514604075090847575212439948751137851855924728980576332234659090139008437
/-- Header, table and module-wide sections. -/
def tImgHead : List Byte :=
  tBytes 256 [(0, 4, 0x4E4C5041), (4, 2, 0x0100), (6, 2, 46), (8, 8, 12416),
    (16, 64, tDigest), (144, 4, 20)] ++ tSecs.flatMap tSecEntry ++ tWide.flatMap (fun s => s.2.2.2)
/-- The image. -/
def tImage : List Byte := tImgHead ++ ((List.replicate 20 tProgram).flatten ++ (List.replicate 20 tSetup).flatten)
/-- PLAN_LOAD of the image with arguments `w`. -/
def tImgE (w : Nat) : SqEntry := { tEnt 0x20 0 w with addr0 := 4096, len0 := 12416, addr1 := 20480, len1 := 64 }
/-- A partition of that configuration with the command and no plan. -/
def tImgX : Part :=
  { tPart with config := tConfig, digest := BitVec.ofNat 512 tDigest, plan := none, load := none,
               pairs := [(63, tPair (tImgE 0))], session := .active, inStep := false }

theorem ok_of_good {e : Check} (h : good e = true) : e = .ok () := by
  cases e with
  | ok a => rfl
  | error b => exact absurd h (by simp [good])

theorem eachOk_ok {α : Type} {f : α → Check} : ∀ {l : List α}, (∀ a ∈ l, f a = .ok ()) → eachOk f l = .ok ()
  | [], _ => rfl
  | a :: l, h => by
    rw [eachOk, h a (List.mem_cons_self ..)]
    exact eachOk_ok (fun b hb => h b (List.mem_cons_of_mem _ hb))

theorem eachOk_range {f : Nat → Check} {n : Nat} (h : ∀ v < n, f v = .ok ()) : eachOk f (List.range n) = .ok () :=
  eachOk_ok (fun v hv => h v (List.mem_range.mp hv))

theorem bind_ok {e : Check} {f : Unit → Check} (h : e = .ok ()) (k : f () = .ok ()) : (e >>= f) = .ok () := by
  rw [h]; exact k

theorem need_ok {b : Bool} {r : Refuse} (h : b = true) : need b r = .ok () := by rw [h]; rfl

theorem leAt_append {a b : List Byte} {o n : Nat} (h : o + n ≤ a.length) : leAt (a ++ b) o n = leAt a o n := by
  unfold leAt
  rw [List.drop_append_of_le_length (by omega), List.take_append_of_le_length (by simp; omega)]

theorem block_at {b : List Byte} {k : Nat} (hb : b.length = k) (v n : Nat) (h : v < n) (t : List Byte) :
    (((List.replicate n b).flatten ++ t).drop (k * v)).take k = b := by
  induction n generalizing v with
  | zero => omega
  | succ n ih =>
    cases v with
    | zero => simp [List.replicate_succ, ← hb]
    | succ v =>
      have e : k * (v + 1) = b.length + k * v := by rw [hb, Nat.mul_add, Nat.mul_one, Nat.add_comm]
      rw [List.replicate_succ, List.flatten_cons, List.append_assoc, e, ← List.drop_drop, List.drop_left]
      exact ih v (by omega)

theorem tImgHead_length : tImgHead.length = 2176 := by decide +kernel
theorem tProgram_length : tProgram.length = 256 := by decide +kernel
theorem tSetup_length : tSetup.length = 256 := by decide +kernel
theorem tImage_length : tImage.length = 12416 := by
  simp [tImage, tImgHead_length, tProgram_length, tSetup_length]

theorem tImage_head {o n : Nat} (h : o + n ≤ 2176) : leAt tImage o n = leAt tImgHead o n := leAt_append (by rw [tImgHead_length]; exact h)

theorem flat_at {α : Type} {f : α → List Byte} {k : Nat} (hk : ∀ a, (f a).length = k) :
    ∀ (l : List α) (i : Nat) (h : i < l.length) (t : List Byte), ((l.flatMap f ++ t).drop (k * i)).take k = f l[i]
  | [], i, h, t => absurd h (Nat.not_lt_zero _)
  | a :: l, 0, _, t => by
    rw [Nat.mul_zero, List.drop_zero, List.flatMap_cons, List.append_assoc, List.take_left' (hk a)]
    rfl
  | a :: l, i + 1, h, t => by
    rw [List.flatMap_cons, List.append_assoc, show k * (i + 1) = k + k * i by rw [Nat.mul_add, Nat.mul_one, Nat.add_comm], ← List.drop_drop,
      List.drop_left' (hk a)]
    exact flat_at hk l i (Nat.lt_of_succ_lt_succ h) t

theorem leAt_within (b : List Byte) (o k j n : Nat) (h : j + n ≤ k) : leAt b (o + j) n = leAt ((b.drop o).take k) j n := by
  unfold leAt
  rw [List.drop_take, List.take_take, List.drop_drop, Nat.min_eq_left (by omega)]

theorem leBytes_length : ∀ n v, (leBytes n v).length = n
  | 0, _ => rfl
  | n + 1, v => by rw [leBytes, List.length_cons, leBytes_length n]

theorem tTable_entry (i : Nat) (h : i < tSecs.length) : (tImage.drop (256 + 32 * i)).take 32 = tSecEntry tSecs[i] := by
  have h0 : (tBytes 256 [(0, 4, 0x4E4C5041), (4, 2, 0x0100), (6, 2, 46), (8, 8, 12416), (16, 64, tDigest), (144, 4, 20)]).length = 256 :=
    leBytes_length _ _
  unfold tImage tImgHead
  rw [← List.drop_drop, List.append_assoc, List.append_assoc, List.drop_left' h0]
  exact flat_at (fun _ => leBytes_length _ _) tSecs i h _

theorem tSecs_length : tSecs.length = 46 := by decide +kernel

theorem tSecs_eq : sections tImage = tSecs := by
  have hr : ∀ z ∈ tSecs, leAt (tSecEntry z) 0 2 = z.typ ∧ leAt (tSecEntry z) 4 4 = z.vcore ∧ leAt (tSecEntry z) 8 8 = z.off
      ∧ leAt (tSecEntry z) 16 8 = z.size ∧ leAt (tSecEntry z) 24 4 = z.crc := by decide +kernel
  have hi : ∀ i : Fin 46, tSecs[i.val]?.map (fun z => z.idx) = some i.val := by decide +kernel
  unfold sections
  rw [tImage_head (by decide), show leAt tImgHead 6 2 = 46 by decide +kernel]
  refine List.ext_getElem (by rw [tSecs_length, List.length_map, List.length_range]) (fun i h1 h2 => ?_)
  have h3 : i < 46 := by rw [← tSecs_length]; exact h2
  have e := hr (tSecs[i]'h2) (List.getElem_mem h2)
  have ht := tTable_entry i h2
  have hx := hi ⟨i, h3⟩
  rw [List.getElem?_eq_getElem h2] at hx
  rw [List.getElem_map, List.getElem_range]
  simp only []
  rw [show leAt tImage (256 + 32 * i) 2 = leAt tImage (256 + 32 * i + 0) 2 from rfl, leAt_within _ _ 32 0 _ (by omega),
    leAt_within _ _ 32 4 _ (by omega), leAt_within _ _ 32 8 _ (by omega), leAt_within _ _ 32 16 _ (by omega),
    leAt_within _ _ 32 24 _ (by omega), ht]
  injection hx with hx
  generalize tSecs[i]'h2 = z at hx e ⊢
  obtain ⟨e0, e4, e8, e16, e24⟩ := e
  rw [e0, e4, e8, e16, e24]
  cases z
  simp only at hx
  rw [hx]

theorem tBody10 (v : Nat) (h : v < 20) : (tImage.drop (2176 + 256 * v)).take 256 = tProgram := by
  rw [tImage, ← tImgHead_length, ← List.drop_drop, List.drop_left]
  exact block_at tProgram_length v 20 h _

theorem tBody11 (v : Nat) (h : v < 20) : (tImage.drop (7296 + 256 * v)).take 256 = tSetup := by
  have e : (List.replicate 20 tProgram).flatten.length = 5120 := by simp [tProgram_length]
  rw [tImage, show 7296 + 256 * v = tImgHead.length + ((List.replicate 20 tProgram).flatten.length + 256 * v) by rw [tImgHead_length, e]; omega,
    ← List.drop_drop, List.drop_left, ← List.drop_drop, List.drop_left]
  simpa using block_at tSetup_length v 20 h []

/-- The words of the program. -/
def tWords : List InstrWord :=
  [18446744138134061057, 0, 0, 17179869184, 0, 0, 0, 0, 1209110287055366270222336, 0,
   77884452878030678569430358058598612, 0, 0, 0, 0, 0]
/-- The words of the set-up. -/
def tSu : List Nat :=
  [0, 0, 0, 0, 0, 0, 0, 0, 0, 0, 0, 0, 0, 0, 0, 100, 0, 0, 0, 0, 0, 0, 0, 0, 0, 0, 0, 0, 0, 0, 0, 0,
   0, 0, 0, 0, 0, 0, 0, 0, 0, 0, 0, 0, 0, 0, 0, 0, 0, 0, 0, 0, 1000, 512, 0, 5120, 0, 0, 0, 0, 0, 0, 0, 0]

theorem tSec10 : ∀ v < 20, secOf tImage 0x0010 v = some ⟨6 + v, 0x0010, v, 2176 + 256 * v, 256, 2626528656⟩ := by
  unfold secOf; rw [tSecs_eq]; decide +kernel
theorem tSec11 : ∀ v < 20, secOf tImage 0x0011 v = some ⟨26 + v, 0x0011, v, 7296 + 256 * v, 256, 2233396186⟩ := by
  unfold secOf; rw [tSecs_eq]; decide +kernel
theorem tCore10 (v : Nat) (h : v < 20) : coreBytes tImage 0x0010 v = tProgram := by
  unfold coreBytes; rw [tSec10 v h]; exact tBody10 v h
theorem tCore11 (v : Nat) (h : v < 20) : coreBytes tImage 0x0011 v = tSetup := by
  unfold coreBytes; rw [tSec11 v h]; exact tBody11 v h
theorem tProg (v : Nat) (h : v < 20) : imgProg tImage v = tWords := by
  unfold imgProg; rw [tCore10 v h]; decide +kernel
theorem tSet (v : Nat) (h : v < 20) : setupOf tImage v = tSu := by
  unfold setupOf; rw [tCore11 v h]; decide +kernel
theorem tVcores : imgVcores tImage = 20 := by
  unfold imgVcores; rw [tImage_head (by decide)]; decide +kernel

theorem take_drop_head {o n : Nat} (h : o + n ≤ 2176) : (tImage.drop o).take n = (tImgHead.drop o).take n := by
  unfold tImage
  rw [List.drop_append_of_le_length (by rw [tImgHead_length]; omega), List.take_append_of_le_length (by simp [tImgHead_length]; omega)]

/-- The body of a section, by its place in the table. -/
def tBody (k : Nat) : List Byte :=
  if k < 6 then ((tWide.getD k (0, 0, 0, [])).2.2.2).take (tWide.getD k (0, 0, 0, [])).2.1 else if k < 26 then tProgram else tSetup

theorem tBodies : ∀ z ∈ tSecs, secBytes tImage z = tBody z.idx := by
  intro z hz
  unfold tSecs at hz
  rw [List.mem_append, List.mem_append] at hz
  rcases hz with (hz | hz) | hz
  · have h : ∀ y ∈ ([⟨0, 0x0001, 0xFFFFFFFF, 1728, 128, 491514563⟩, ⟨1, 0x0002, 0xFFFFFFFF, 1856, 64, 565048381⟩,
       ⟨2, 0x0020, 0xFFFFFFFF, 1920, 4, 1214729159⟩, ⟨3, 0x0030, 0xFFFFFFFF, 1984, 44, 3857878678⟩,
       ⟨4, 0x0031, 0xFFFFFFFF, 2048, 5, 3626142695⟩, ⟨5, 0x0032, 0xFFFFFFFF, 2112, 32, 250917295⟩] : List ImgSec),
       y.off + y.size ≤ 2176 ∧ (tImgHead.drop y.off).take y.size = tBody y.idx := by decide +kernel
    rw [secBytes, take_drop_head (h z hz).1, (h z hz).2]
  · obtain ⟨v, hv, rfl⟩ := List.mem_map.mp hz
    have hv := List.mem_range.mp hv
    simp only [secBytes, tBody]
    rw [if_neg (by omega), if_pos (by omega)]
    exact tBody10 v hv
  · obtain ⟨v, hv, rfl⟩ := List.mem_map.mp hz
    have hv := List.mem_range.mp hv
    simp only [secBytes, tBody]
    rw [if_neg (by omega), if_neg (by omega)]
    exact tBody11 v hv

theorem tMod_bytes (t k : Nat) (o n c : Nat) (h : secOf tImage t 0xFFFFFFFF = some ⟨k, t, 0xFFFFFFFF, o, n, c⟩)
    (hm : (⟨k, t, 0xFFFFFFFF, o, n, c⟩ : ImgSec) ∈ tSecs) : modBytes tImage t = tBody k := by
  unfold modBytes modSec; rw [h]; exact tBodies _ hm

theorem tModSec1 : secOf tImage 0x0001 0xFFFFFFFF = some ⟨0, 0x0001, 0xFFFFFFFF, 1728, 128, 491514563⟩ := by
  unfold secOf; rw [tSecs_eq]; decide +kernel
theorem tModSec2 : secOf tImage 0x0002 0xFFFFFFFF = some ⟨1, 0x0002, 0xFFFFFFFF, 1856, 64, 565048381⟩ := by
  unfold secOf; rw [tSecs_eq]; decide +kernel
theorem tModSec20 : secOf tImage 0x0020 0xFFFFFFFF = some ⟨2, 0x0020, 0xFFFFFFFF, 1920, 4, 1214729159⟩ := by
  unfold secOf; rw [tSecs_eq]; decide +kernel
theorem tModSec30 : secOf tImage 0x0030 0xFFFFFFFF = some ⟨3, 0x0030, 0xFFFFFFFF, 1984, 44, 3857878678⟩ := by
  unfold secOf; rw [tSecs_eq]; decide +kernel
theorem tModSec31 : secOf tImage 0x0031 0xFFFFFFFF = some ⟨4, 0x0031, 0xFFFFFFFF, 2048, 5, 3626142695⟩ := by
  unfold secOf; rw [tSecs_eq]; decide +kernel
theorem tModSec32 : secOf tImage 0x0032 0xFFFFFFFF = some ⟨5, 0x0032, 0xFFFFFFFF, 2112, 32, 250917295⟩ := by
  unfold secOf; rw [tSecs_eq]; decide +kernel
theorem tNone : secOf tImage 0x0021 0xFFFFFFFF = none ∧ secOf tImage 0x0033 0xFFFFFFFF = none ∧ secOf tImage 0x0040 0xFFFFFFFF = none := by
  unfold secOf; rw [tSecs_eq]; decide +kernel

theorem tBytes1 : modBytes tImage 0x0001 = tBody 0 := tMod_bytes _ 0 _ _ _ tModSec1 (by decide +kernel)
theorem tBytes2 : modBytes tImage 0x0002 = tBody 1 := tMod_bytes _ 1 _ _ _ tModSec2 (by decide +kernel)
theorem tBytes20 : modBytes tImage 0x0020 = tBody 2 := tMod_bytes _ 2 _ _ _ tModSec20 (by decide +kernel)
theorem tBytes30 : modBytes tImage 0x0030 = tBody 3 := tMod_bytes _ 3 _ _ _ tModSec30 (by decide +kernel)
theorem tBytes31 : modBytes tImage 0x0031 = tBody 4 := tMod_bytes _ 4 _ _ _ tModSec31 (by decide +kernel)
theorem tBytes32 : modBytes tImage 0x0032 = tBody 5 := tMod_bytes _ 5 _ _ _ tModSec32 (by decide +kernel)
theorem tBytes21 : modBytes tImage 0x0021 = [] := by unfold modBytes modSec; rw [tNone.1]; rfl
theorem tBytes33 : modBytes tImage 0x0033 = [] := by unfold modBytes modSec; rw [tNone.2.1]; rfl
theorem tBytes40 : modBytes tImage 0x0040 = [] := by unfold modBytes modSec; rw [tNone.2.2]; rfl

theorem tRes : resOf tImage = ⟨0, [0], 1, 0, 1, 0, 1, 1, 0⟩ := by
  unfold resOf; rw [tBytes2]; decide +kernel
theorem tLayers : imgLayers tImage = [⟨0, 0, 0, false, false, 0, 0, 0, 0, 0, 0, 0, [0, 65535, 65535, 65535, 65535, 65535], 0⟩] := by
  unfold imgLayers; rw [tBytes32]; decide +kernel
set_option maxRecDepth 1000000 in
theorem tCrcs : ∀ z ∈ tSecs, ((crc32c (tBody z.idx)).toNat == z.crc) = true := by decide +kernel

theorem tCheck1 : check1 tImage 12416 = .ok () := by
  unfold check1
  simp only [tSecs_eq, tVcores]
  have hb : ∀ f : ImgSec → List Byte → Check, (∀ z ∈ tSecs, f z (tBody z.idx) = .ok ()) →
      eachOk (fun z => f z (secBytes tImage z)) tSecs = .ok () :=
    fun f h => eachOk_ok (fun z hz => by rw [tBodies z hz]; exact h z hz)
  refine bind_ok (need_ok (by rw [tImage_length]; decide)) (bind_ok (need_ok (by rw [tImage_head (by decide)]; decide +kernel))
    (bind_ok (need_ok (by rw [tImage_head (by decide)]; decide +kernel)) (bind_ok (need_ok (by rw [tImage_head (by decide)]; decide +kernel))
    (bind_ok (need_ok (by rw [tImage_head (by decide)]; decide +kernel)) (bind_ok (need_ok (by rw [tImage_length]; decide +kernel))
    (bind_ok ?_ (bind_ok ?_ (bind_ok ?_ (bind_ok (need_ok (by rw [tImage_head (by decide)]; decide +kernel)) ?_)))))))))
  · rw [tImage_length]
    have h1 : ∀ z ∈ tSecs, secTypes.contains z.typ = true := by decide +kernel
    have h2 : ∀ z ∈ tSecs, (if perCore z.typ then z.vcore < 20 else z.vcore == 0xFFFFFFFF) = true := by decide +kernel
    have h3 : ∀ z ∈ tSecs, (z.off % 64 == 0 && 256 + 32 * tSecs.length ≤ z.off && z.off + z.size ≤ 12416) = true := by decide +kernel
    have h4 : ∀ z ∈ tSecs, (tSecs.all (fun t => t.idx == z.idx || t.off + t.size ≤ z.off || z.off + z.size ≤ t.off)) = true := by
      decide +kernel
    have h5 : ∀ z ∈ tSecs, sizeOk tImage z (tBody z.idx) = true := by
      unfold sizeOk; simp only [tBytes2, tVcores]; decide +kernel
    refine eachOk_ok (fun z hz => ?_)
    replace h1 := h1 z hz
    replace h2 := h2 z hz
    replace h3 := h3 z hz
    replace h4 := h4 z hz
    replace h5 := h5 z hz
    rw [tBodies z hz]
    exact bind_ok (need_ok h1) (bind_ok (need_ok (by simpa using h2)) (bind_ok (need_ok h3) (bind_ok (need_ok h4) (need_ok h5))))
  · exact ok_of_good (by decide +kernel)
  · exact hb (fun z bs => need ((crc32c bs).toNat == z.crc) { refuse 0x02 0 (crc32c bs).toNat z.crc with section_ := z.idx, vcore := z.vcore })
      (fun z hz => need_ok (tCrcs z hz))
  · refine eachOk_ok (fun z hz => ?_)
    have h : ∀ z ∈ tSecs, 256 + 32 * z.idx + 32 ≤ 2176 ∧ leAt tImgHead (256 + 32 * z.idx + 2) 2 = 0 ∧ leAt tImgHead (256 + 32 * z.idx + 28) 4 = 0 ∧
        ∀ f ∈ reservedOf z (tBody z.idx), ((leAt (tBody z.idx) f.1 (cdiv (f.2.1 + f.2.2) 8) >>> f.2.1) % 2 ^ f.2.2 == 0) = true := by
      decide +kernel
    obtain ⟨h0, h1, h2, h3⟩ := h z hz
    rw [tImage_head (by omega), tImage_head (by omega), tBodies z hz, h1, h2]
    exact bind_ok rfl (bind_ok rfl (eachOk_ok (fun f hf => need_ok (h3 f hf))))

theorem tCheck2 : check2 tImage tImgX = .ok () := by
  unfold check2
  rw [tBytes1, tImage_head (by decide)]
  exact need_ok (by decide +kernel)

theorem tCheck4 : check4 tImage = .ok () := by
  unfold check4
  simp only [tRes, tBytes32, tBytes33]
  exact bind_ok rfl (bind_ok rfl (bind_ok rfl (bind_ok rfl (bind_ok (need_ok (by decide +kernel)) (bind_ok rfl rfl)))))

theorem tCheck5 : eachOk (check5 tImage [0]) (List.range 20) = .ok () := by
  have h : ∀ v < 20, good (check5 tImage [0] v) = true := by
    intro v hv; unfold check5; simp only [tProg v hv]; revert v; decide +kernel
  exact eachOk_range (fun v hv => ok_of_good (h v hv))

theorem tInstrs : allInstrs (progCore tWords) = [(18, 10, tVec 0x14 [])] := by decide +kernel

theorem tCheck6 : eachOk (check6 tImage) (List.range 20) = .ok () := by
  refine eachOk_range (fun v hv => ?_)
  unfold check6
  rw [tProg v hv, tInstrs, eachOk, need_ok (by decide +kernel), eachOk]

theorem tCheck7 : eachOk (check7 tImage 0) (List.range 20) = .ok () := by
  have h : ∀ v < 20, good (check7 tImage 0 v) = true := by
    intro v hv; unfold check7; simp only [tProg v hv, tSet v hv, tInstrs]; revert v; decide +kernel
  exact eachOk_range (fun v hv => ok_of_good (h v hv))

theorem tCheck8 : eachOk (check8 tImage) (List.range 20) = .ok () := by
  have h : ∀ v < 20, good (check8 tImage v) = true := by
    intro v hv; unfold check8; simp only [tProg v hv, tSet v hv, tInstrs]; revert v; decide +kernel
  exact eachOk_range (fun v hv => ok_of_good (h v hv))

theorem tCheck9 : eachOk (check9 tImage (imgLayers tImage)) (List.range 20) = .ok () := by
  have h : ∀ v < 20, good (check9 tImage (imgLayers tImage) v) = true := by
    intro v hv; unfold check9; simp only [tProg v hv, tSet v hv, tInstrs, tLayers]; revert v; decide +kernel
  exact eachOk_range (fun v hv => ok_of_good (h v hv))

theorem tCheck10 : eachOk (check10 tImage) (List.range 20) = .ok () := by
  have h : ∀ v < 20, good (check10 tImage v) = true := by
    intro v hv; unfold check10; simp only [tProg v hv, tInstrs]; revert v; decide +kernel
  exact eachOk_range (fun v hv => ok_of_good (h v hv))

theorem tCheck11 : check11 tImage (imgLayers tImage) (resOf tImage) = .ok () := by
  unfold check11
  rw [tVcores, tRes, tLayers]
  simp only []
  rw [tProg 0 (by decide)]
  refine bind_ok rfl (bind_ok (ok_of_good (by decide +kernel)) (eachOk_range (fun v hv => ?_)))
  rw [tProg v hv, tInstrs, eachOk, need_ok (by decide +kernel), eachOk]

theorem tPairs : imgPairs tImage = [] := by
  unfold imgPairs
  rw [tVcores, List.flatMap_eq_nil_iff]
  intro v hv
  unfold corePairs
  rw [tProg v (List.mem_range.mp hv), tInstrs]
  rfl

theorem foldl_const {n : Nat} {f g : Nat → Nat → Nat} (h : ∀ a, ∀ v < n, f a v = g a v) :
    ∀ a, (List.range n).foldl f a = (List.range n).foldl g a := by
  intro a
  have : ∀ (l : List Nat), (∀ v ∈ l, v < n) → ∀ a, l.foldl f a = l.foldl g a := by
    intro l
    induction l with
    | nil => intros; rfl
    | cons b l ih =>
      intro hl a
      rw [List.foldl_cons, List.foldl_cons, h a b (hl b (List.mem_cons_self ..))]
      exact ih (fun v hv => hl v (List.mem_cons_of_mem _ hv)) _
  exact this _ (fun v hv => List.mem_range.mp hv) a

theorem tCheck12 (m : Mod) : check12 tImage m tImgX (resOf tImage) (imgPairs tImage) = .ok () := by
  unfold check12
  rw [tVcores, tRes, tPairs]
  have h : ∀ v < 20, good (do
      need ((sliceLayout (setupOf tImage v)).2.2.2.2 ≤ 2 ^ 25) (inSec tImage 0x0011 v (refuse 0x0D 3 (sliceLayout (setupOf tImage v)).2.2.2.2 (2 ^ 25)))
      need (configTwin tImgX.config || (setupOf tImage v).getD 56 0 == 0) (inSec tImage 0x0011 v (refuse 0x0D 4 ((setupOf tImage v).getD 56 0) 0))
      need ((setupOf tImage v).getD 57 0 ≤ poolLines (setupOf tImage v))
        (inSec tImage 0x0011 v (refuse 0x0D 5 ((setupOf tImage v).getD 57 0) (poolLines (setupOf tImage v))))) = true := by
    intro v hv; rw [tSet v hv]; revert v; decide +kernel
  refine bind_ok (eachOk_range (fun v hv => ok_of_good (h v hv))) (bind_ok rfl ?_)
  simp only []
  rw [foldl_const (g := fun a _ => a + 5120) (fun a v hv => by rw [tProg v hv, tSet v hv, show isSampling tWords = true by decide +kernel]; rfl)]
  exact ok_of_good (by decide +kernel)

theorem tRoutes : imgRoutes tImage = [] := by unfold imgRoutes; rw [tBytes20]; decide +kernel
theorem tService : imgService tImage = [] := by unfold imgService; rw [tBytes21]; rfl
theorem tPlacements : imgPlacements tImage = [] := by unfold imgPlacements; rw [tSecs_eq]; decide +kernel

theorem tCheck13 (fz : Fuses) (m : Mod) (p : Nat) (x : Part) : check13 fz tImage m p x (resOf tImage) = .ok () := by
  unfold check13 routesInForce; simp only [tRoutes, tService, tPlacements, tRes]; rfl
theorem tCheck14 (fz : Fuses) (m : Mod) (x : Part) : check14 fz tImage m x = .ok () := by
  unfold check14; rw [tPlacements]; rfl
theorem tCheck15 : check15 tImage (resOf tImage) = .ok () := by
  unfold check15 imgParents imgCoreFrames
  simp only [tVcores, tBytes30, tRes]
  exact ok_of_good (by decide +kernel)
theorem check16_of (m : Mod) (hc : coresPer m = 20) (img : List Byte) (hp0 : ∀ v < 20, imgProg img v = tWords) (hb : modBytes img 0x0031 = tBody 4) :
    check16 img m tImgX ⟨0, [0], 1, 0, 1, 0, 1, 1, 0⟩ = .ok () := by
  have hd : ∀ j, regionDemand img 20 j 0 = 20 * coreDemand (progCore tWords) j := by
    intro j
    unfold regionDemand
    rw [foldl_const (g := fun a _ => a + coreDemand (progCore tWords) j) (fun a v hv => by rw [Nat.mul_zero, Nat.zero_add, hp0 v hv])]
    simp [List.range_succ]; omega
  have hr : configRegions tImgX.config = [63] := by decide +kernel
  have hu : (List.range (progCount (progCore tWords))).filter (fun j =>
      ([0] : List Nat).any (fun b => (List.range (schedLen (progCore tWords) b)).any (fun k => schedId (progCore tWords) b k = j))) = [0] := by
    decide +kernel
  have hp : progCount (progCore tWords) = 1 := by decide +kernel
  have h0 : coreDemand (progCore tWords) 0 = 0 := by decide +kernel
  unfold check16
  simp only [hc, hr, hb, hp0 0 (by decide), hu]
  simp only [hp, eachOk, List.length_singleton, List.range_one, hd, h0]
  refine bind_ok ?_ (bind_ok (need_ok (by decide +kernel)) ?_)
  · rw [need_ok (by decide +kernel)]
  · rw [need_ok (by decide +kernel)]
theorem tCheck16 (m : Mod) (hc : coresPer m = 20) : check16 tImage m tImgX (resOf tImage) = .ok () := by
  rw [tRes]; exact check16_of m hc tImage tProg tBytes31
theorem tCheck17 (m : Mod) (x : Part) : check17 tImage m x (resOf tImage) [] = .ok () := by
  unfold check17 patchedWindows imgWindows; rw [tBytes33]; rfl
theorem tCheck18 : check18 tImage (resOf tImage) [] = .ok () := by
  unfold check18 imgRelocs; rw [tBytes40]; rfl


theorem tChecked (m : Mod) (ps : List (Nat × Pair)) (hc : coresPer m = 20) (hs : roleHolder m 63 = some 63) (ha : 20 ≤ (activeSites Fuses.reset m 63).length) :
    planChecks Fuses.reset m 15 { tImgX with pairs := ps } tImage 12416 [] = .ok () := by
  have h3 : check3 Fuses.reset m tImage tImgX = .ok () := by
    unfold check3
    rw [tVcores, hc, show configRegions tImgX.config = [63] by decide +kernel]
    refine bind_ok rfl (eachOk_ok (fun r hr => ?_))
    rw [List.mem_singleton.mp hr]
    simp only [hs, Option.getD_some]
    exact need_ok (by simpa using ha)
  show planChecks Fuses.reset m 15 tImgX tImage 12416 [] = .ok ()
  unfold planChecks
  rw [tVcores]
  exact bind_ok tCheck1 (bind_ok tCheck2 (bind_ok h3 (bind_ok tCheck4 (bind_ok (by rw [tRes]; exact tCheck5) (bind_ok tCheck6
    (bind_ok (by rw [tRes]; exact tCheck7) (bind_ok tCheck8 (bind_ok tCheck9 (bind_ok tCheck10 (bind_ok tCheck11 (bind_ok (tCheck12 m)
    (bind_ok (tCheck13 _ _ _ _) (bind_ok (tCheck14 _ _ _) (bind_ok tCheck15 (bind_ok (tCheck16 m hc) (bind_ok (tCheck17 _ _) tCheck18))))))))))))))))

theorem mget_mputs_below {α : Type} [DecidableEq α] (d : α) (bs : List α) : ∀ (m : SMap α) (a j : Nat), j < a →
    mget (mputs d m a bs) j d = mget m j d := by
  induction bs with
  | nil => intros; rfl
  | cons b bs ih => intro m a j h; rw [mputs, ih _ _ _ (by omega), mget_mput_ne _ _ _ _ _ (by omega)]

/-- What was written reads back. -/
theorem mgets_mputs {α : Type} [DecidableEq α] (d : α) (bs : List α) : ∀ (m : SMap α) (a : Nat), mgets (mputs d m a bs) d a bs.length = bs := by
  induction bs with
  | nil => intros; rfl
  | cons b bs ih =>
    intro m a
    rw [mputs, List.length_cons, mgets, ih, mget_mputs_below _ _ _ _ _ (by omega), mget_mput_same]

/-- The first bytes of what was written read back. -/
theorem mgets_mputs_take {α : Type} [DecidableEq α] (d : α) (bs : List α) : ∀ (n : Nat) (m : SMap α) (a : Nat), n ≤ bs.length →
    mgets (mputs d m a bs) d a n = bs.take n := by
  induction bs with
  | nil => intro n m a h; rw [Nat.le_zero.mp h]; rfl
  | cons b bs ih =>
    intro n m a h
    cases n with
    | zero => rfl
    | succ n =>
      rw [mputs, mgets, ih n _ _ (Nat.le_of_succ_le_succ h), mget_mputs_below _ _ _ _ _ (by omega), mget_mput_same, List.take_succ_cons]

/-- A partner. -/
def tPartner : Partner := ⟨63, 7, 7, 0, .present, 0, 0, 0, 0, 0, 0, [], 0, 0, 0⟩
/-- The partition with PLAN_LOAD of arguments `w`. -/
def tImgP (w : Nat) : Part := { tImgX with pairs := [(63, tPair (tImgE w))] }
/-- The state with the image in the memory of host 0 and the partners `ps`. -/
def tImgS (w : Nat) (ps : List Partner) : State :=
  tMod (tLive (tStateOf (tCore 0) (tImgP w))) (fun m => updHost { m with grade := 2, partners := ps } 0 (fun y => hostWrite y 4096 tImage))
/-- The module as the command finds it. -/
def tImgM (w : Nat) (ps : List Partner) : Mod := applySide (tImgS w ps).mod 0 tSide
theorem tImg_mem (w : Nat) (ps : List Partner) : (hostOf (tImgM w ps) 0).mem = mputs 0 [] 4096 tImage := by
  unfold tImgM tImgS
  generalize tImage = bs
  rfl
theorem tImg_image (w : Nat) (ps : List Partner) : hostRead (hostOf (tImgM w ps) 0) 4096 12416 = tImage := by
  rw [hostRead, tImg_mem, ← tImage_length]
  exact mgets_mputs ..
/-- PLAN_LOAD of arguments `w` finds an image that passes every check, where the command is taken there. -/
theorem tImg_ready (w : Nat) (ps : List Partner) (hh : ringHost (tImgS w ps).mod tR = 0 ∧ ringHost (tImgM w ps) tR = 0)
    (ht : (tImgE w).opcode.toNat = 0x20 ∧ rmAlive (tImgM w ps) = true ∧ cmdOf? (tImgM w ps) tR (tImgE w).cid = some (tCmd (tImgE w))
      ∧ shutOut (tImgM w ps) (tCmd (tImgE w)) = false ∧ orderedWaits (pairOf (tImgM w ps) tR) (tCmd (tImgE w)) = false)
    (hp : partOf? (tImgM w ps) 15 = some (tImgP w) ∧ argN (tImgE w) 24 1 = 0 ∧ planBuffers (hostOf (tImgM w ps) 0) (tImgE w) = true)
    (hc : coresPer (tImgM w ps) = 20 ∧ roleHolder (tImgM w ps) 63 = some 63
      ∧ 20 ≤ (activeSites Fuses.reset (tImgM w ps) 63).length) :
    Taken tR (tImgE w) tSide 0x20 (tImgS w ps) (tImgM w ps) (tCmd (tImgE w)) ∧ OnPart (tImgM w ps) tR 15 (tImgP w)
    ∧ planBuffers (hostOf (tImgM w ps) (ringHost (tImgM w ps) tR)) (tImgE w) = true
    ∧ planChecks (tImgS w ps).fuses (tImgM w ps) 15 (tImgP w)
        (hostRead (hostOf (tImgM w ps) (ringHost (tImgM w ps) tR)) (tImgE w).addr0.toNat (tImgE w).len0.toNat) (tImgE w).len0.toNat
        ((List.range (argN (tImgE w) 24 1)).map (fun i =>
          leNat (hostRead (hostOf (tImgM w ps) (ringHost (tImgM w ps) tR)) (argN (tImgE w) 16 8 + 8 * i) 8))) = .ok () := by
  have h : tSideM (tImgS w ps) tR = tImgM w ps := by unfold tSideM tImgM; rw [hh.1]
  rw [hh.2, hp.2.1, show (tImgE w).addr0.toNat = 4096 from rfl, show (tImgE w).len0.toNat = 12416 from rfl, tImg_image]
  refine ⟨?_, onPart_ask hp.1, hp.2.2, tChecked _ _ hc.1 hc.2.1 hc.2.2⟩
  rw [← h]
  exact taken_on (by rw [h]; exact ht)
/-! ### A sequence state record that SEQ_OPEN accepts -/

/-- The first 124 bytes of the record of an empty sequence. -/
def tRecHead : List Byte :=
  tBytes 64 [(0, 4, 0x52535153), (4, 2, 0x0100), (8, 8, 328064), (28, 1, 1)] ++ pairDigest tPlan ++ leBytes 28 0
/-- The record without its CRC, and the CRC. -/
def tRecCrc : Nat := (crc32c (tRecHead ++ leBytes 4 0 ++ List.replicate 327936 0)).toNat
/-- The record. -/
def tRec : List Byte := tRecHead ++ (leBytes 4 tRecCrc ++ List.replicate 327936 0)

theorem tRecHead_length : tRecHead.length = 124 := by decide +kernel

theorem leNat_leBytes : ∀ n v, leNat (leBytes n v) = v % 256 ^ n
  | 0, v => by simp [leBytes, leNat, Nat.mod_one]
  | n + 1, v => by
    have ih := leNat_leBytes n (v / 256)
    rw [leBytes]
    show (BitVec.ofNat 8 v).toNat + 256 * leNat (leBytes n (v / 256)) = _
    rw [ih, BitVec.toNat_ofNat, show 256 ^ (n + 1) = 256 * 256 ^ n from Nat.pow_succ'.trans rfl, Nat.mod_mul]

theorem leNat_zeros : ∀ n, leNat (List.replicate n 0) = 0
  | 0 => rfl
  | n + 1 => by
    show (0 : Byte).toNat + 256 * leNat (List.replicate n 0) = 0
    rw [leNat_zeros n]; rfl

theorem tRec_length : tRec.length = 328064 := by
  rw [tRec, List.length_append, List.length_append, tRecHead_length, leBytes_length, List.length_replicate]

theorem tRec_head {o n : Nat} (h : o + n ≤ 124) : leAt tRec o n = leAt tRecHead o n := leAt_append (by rw [tRecHead_length]; exact h)

theorem tRec_drop124 : tRec.drop 124 = leBytes 4 tRecCrc ++ List.replicate 327936 0 := by
  rw [tRec, ← tRecHead_length, List.drop_left]

theorem tRec_drop128 : tRec.drop 128 = List.replicate 327936 0 := by
  rw [show (128 : Nat) = 124 + 4 from rfl, ← List.drop_drop, tRec_drop124, List.drop_left' (leBytes_length 4 _)]

theorem tRec_crc : leAt tRec 124 4 = tRecCrc := by
  rw [leAt, tRec_drop124, List.take_left' (leBytes_length 4 _), leNat_leBytes]
  exact Nat.mod_eq_of_lt (BitVec.isLt _)

theorem tRec_tail {o n : Nat} (h : 128 ≤ o) : leAt tRec o n = 0 := by
  rw [leAt, show o = 128 + (o - 128) by omega, ← List.drop_drop, tRec_drop128, List.drop_replicate, List.take_replicate, leNat_zeros]

theorem tRec_take : tRec.take 124 = tRecHead := by
  rw [tRec, ← tRecHead_length, List.take_left]

theorem tRec_sampler : recordSampler tRec = ({ block := 0, counter := 0, table := [], ring := [], fill := 0 }, List.replicate 32768 0) := by
  have hw : (List.range 32768).map (fun k => (BitVec.ofNat 64 (leAt tRec (384 + 8 * k) 8))) = List.replicate 32768 0 := by
    rw [List.eq_replicate_iff]
    refine ⟨by simp, fun b hb => ?_⟩
    obtain ⟨k, -, rfl⟩ := List.mem_map.mp hb
    rw [tRec_tail (by omega)]
    rfl
  have hr : ((List.range 16384).map (fun k => (k, BitVec.ofNat 32 (leAt tRec (262528 + 4 * k) 4)))).filter (fun p => p.2 != 0) = [] := by
    rw [List.filter_eq_nil_iff]
    intro p hp
    obtain ⟨k, -, rfl⟩ := List.mem_map.mp hp
    rw [tRec_tail (by omega)]
    simp
  have ht : ((List.range 32768).zip (List.replicate 32768 (0 : Word))).filter (fun p => p.2 != 0) = [] := by
    rw [List.filter_eq_nil_iff]
    intro p hp
    rw [List.eq_of_mem_replicate (List.of_mem_zip hp).2]
    decide
  unfold recordSampler
  simp only [hw, hr, ht]
  rw [tRec_tail (by omega), tRec_head (by omega), tRec_head (by omega), show leAt tRecHead 48 8 = 0 by decide +kernel,
    show leAt tRecHead 96 4 = 0 by decide +kernel]
  rfl

theorem tRec_ok : recordOk tRec { block := 0, counter := 0, table := [], ring := [], fill := 0 } (List.replicate 32768 0) = true := by
  have hf : (List.replicate 32768 (0 : Word)).filter eOcc = [] := by
    rw [List.filter_eq_nil_iff]
    intro w hw
    rw [List.eq_of_mem_replicate hw]
    decide
  have hz : (List.replicate 32768 (0 : Word)).all (fun w => fld w 54 10 == 0 && (eOcc w || w == 0)) = true := by
    rw [List.all_eq_true]
    intro w hw
    rw [List.eq_of_mem_replicate hw]
    decide
  have ht : tableOk { block := 0, counter := 0, table := [], ring := [], fill := 0 } (List.replicate 32768 0) = true := by
    unfold tableOk
    simp only [hf, hz]
    decide +kernel
  have hc : tRec.take 124 ++ leBytes 4 0 ++ tRec.drop 128 = tRecHead ++ leBytes 4 0 ++ List.replicate 327936 0 := by
    rw [tRec_take, tRec_drop128]
  unfold recordOk
  rw [ht, tRec_crc, hc, tRec_head (by omega), tRec_head (by omega), tRec_head (by omega), tRec_head (by omega), tRec_head (by omega),
    tRec_head (by omega), tRec_head (by omega), tRec_head (by omega), tRec_head (by omega), tRec_head (by omega), tRec_head (by omega),
    tRec_head (by omega), tRec_head (by omega), tRec_head (by omega), tRec_head (by omega),
    show (tRecCrc == (crc32c (tRecHead ++ leBytes 4 0 ++ List.replicate 327936 0)).toNat) = true from beq_self_eq_true _]
  have h0 : leAt tRecHead 32 4 = 0 := by decide +kernel
  simp only [h0, List.range_zero, List.all_nil, Bool.and_true]
  decide +kernel

/-- SEQ_OPEN from the record. -/
def tRecE : SqEntry := { tEnt 0x01 0 (2 ^ 104) with addr0 := 4096, len0 := 328064 }
/-- The state with bytes in the memory of host 0. -/
def tRecS (bs : List Byte) : State := tMod (tAskS tRecE (fun x => { x with seqs := [tSeq] })) (fun m => updHost m 0 (fun y => hostWrite y 4096 bs))
/-- The module as the command finds it. -/
def tRecM (bs : List Byte) : Mod := applySide (tRecS bs).mod 0 tSide
theorem tRec_mem (bs : List Byte) : (hostOf (tRecM bs) 0).mem = mputs 0 [] 4096 bs := rfl
theorem tRec_read : hostRead (hostOf (tRecM tRec) 0) 4096 328064 = tRec := by
  rw [hostRead, tRec_mem, ← tRec_length]
  exact mgets_mputs ..
theorem tRec_len : recordLen (hostOf (tRecM tRec) 0) tRecE = 328064 := by
  rw [recordLen, show tRecE.addr0.toNat = 4096 by decide, hostRead, tRec_mem, mgets_mputs_take _ _ _ _ _ (by rw [tRec_length]; omega),
    leAt, List.drop_take, List.take_take]
  show leAt tRec 8 8 = 328064
  rw [tRec_head (by omega)]; decide +kernel
theorem tRec_host : ringHost (tRecS tRec).mod tR = 0 ∧ ringHost (tRecM tRec) tR = 0 := by decide +kernel
theorem tRec_taken : Taken tR tRecE tSide 0x01 (tRecS tRec) (tRecM tRec) (tCmd tRecE) := by
  have h : tSideM (tRecS tRec) tR = tRecM tRec := by unfold tSideM tRecM; rw [tRec_host.1]
  rw [← h]
  exact taken_on (by rw [h]; decide +kernel)
theorem tRec_leaves : recordLeaves tRec = [] := by
  unfold recordLeaves
  rw [tRec_head (by omega), show leAt tRecHead 32 4 = 0 by decide +kernel]
  rfl
theorem tRec_seq (now : Nat) : recordSeq tRec 0 0 0 now =
    newSeq 0 0 0 0 0 0 0 { block := 0, counter := 0, table := [], ring := [], fill := 0 } now := by
  unfold recordSeq
  rw [tRec_sampler, tRec_leaves, tRec_head (by omega), tRec_head (by omega), tRec_head (by omega), tRec_head (by omega), tRec_head (by omega),
    show leAt tRecHead 29 1 = 0 by decide +kernel, show leAt tRecHead 56 2 = 0 by decide +kernel, show leAt tRecHead 60 1 = 0 by decide +kernel,
    show leAt tRecHead 20 4 = 0 by decide +kernel, show leAt tRecHead 24 4 = 0 by decide +kernel]
  rfl

/-- Witness for `AccessStreams`. -/
theorem test_wit_AccessStreams :
    (∃ i s x b pos a, Accesses 0x01 false i s x b pos ∧ fld i.word 76 40 = 0 ∧
      vsegAddr (siteOf s.mod i.site.val).core (fld i.word 32 2) (fld i.word 34 26) (fld i.word 60 16 + 1) = .ok a ∧
      Room s.mod i.site.val i.list.val (fld i.word 60 16 + 1))
    ∧ (∃ i s x b pos win, Accesses 0x02 false i s x b pos ∧ fld i.word 88 28 = 0 ∧
      Room s.mod i.site.val i.list.val (fld i.word 72 16 + 1) ∧ windowOf x (fld i.word 32 6) = some win) := by
  refine ⟨⟨tIssue (tWord 1 0 [(32, 3), (34, 0), (60, 999)]) 15, tState (tWord 1 0 [(32, 3), (34, 0), (60, 999)]), tPart, 0, 0, 0,
      accesses_of 15 true (by decide +kernel), by decide +kernel, by rfl, by unfold Room; decide +kernel⟩,
    ⟨tIssue (tWord 2 0 [(32, 63), (38, 15), (72, 0)]) 0, tState (tWord 2 0 [(32, 63), (38, 15), (72, 0)]), tPart, 0, 0, _,
      accesses_of 15 true (by decide +kernel), by decide +kernel, by unfold Room; decide +kernel, by rfl⟩⟩

/-- Witness for `AccessWrites`. -/
theorem test_wit_AccessWrites :
    (∃ i s x b pos v a c1 ws, Accesses 0x06 false i s x b pos ∧ fld i.word 101 15 = 0 ∧
      vsegAddr (siteOf s.mod i.site.val).core (fld i.word 32 2) (fld i.word 34 26) (fld i.word 60 16 + 1) = .ok v ∧
      segAddr (siteOf s.mod i.site.val).core (fld i.word 76 3) (fld i.word 79 22) (9 * (fld i.word 60 16 + 1)) = .ok a ∧
      readWords i.scratch (siteOf s.mod i.site.val).core a (9 * (fld i.word 60 16 + 1)) = .ok (c1, ws) ∧
      Room s.mod i.site.val i.list.val 0)
    ∧ (∃ i s x b pos p pl f, Accesses 0x03 true i s x b pos ∧ badMembers i.word = false ∧ fld i.word 71 45 = 0 ∧
      partAtSite s.mod i.site.val = some p ∧ x.plan = some pl ∧ packedOf pl.cacheFormat = some f ∧
      (siteOf s.mod i.site.val).core.accessPart.getD i.list.val 0 = 0 ∧
      Room s.mod i.site.val i.list.val ((membersOf x i.word).foldl (fun a m => a + entryLines f i.word m.2) 0) ∧
      (let t := pushMembers s.mod p x pl f i.site.val ((vcoreAt pl i.site.val).getD 0) i.list.val i.word i.mem (membersOf x i.word)
       (membersOf x i.word).length ≤ (siteOf t i.site.val).core.accessPart.getD i.list.val 0))
    ∧ (∃ i s x b pos a pl f c1 ls, Accesses 0x04 true i s x b pos ∧ badMembers i.word = false ∧ fld i.word 96 20 = 0 ∧
      x.plan = some pl ∧ packedOf pl.cacheFormat = some f ∧
      segAddr (siteOf s.mod i.site.val).core (fld i.word 71 3) (fld i.word 74 22) (9 * appendTotal f x i.word) = .ok a ∧
      readScrLines i.scratch (siteOf s.mod i.site.val).core f.code a (appendTotal f x i.word) = .ok (c1, ls) ∧
      Room s.mod i.site.val i.list.val 0) := by
  refine ⟨?_, ?_, ?_⟩
  · let w := tWord 6 0 [(32, 3), (34, 999), (60, 0), (76, 7), (79, 98295)]
    obtain ⟨⟨c1, ws⟩, h⟩ := good_ok (e := readWords [] (siteOf (tState w).mod 1535).core 98295 (9 * (fld w 60 16 + 1))) (by decide +kernel)
    exact ⟨tIssue w 0, tState w, tPart, 0, 0, 999, 98295, c1, ws, accesses_of 15 true (by decide +kernel), by decide +kernel,
      of_okIs (by decide +kernel), of_okIs (by decide +kernel), h, by unfold Room; decide +kernel⟩
  · let w := tWord 3 0 [(32, 0), (42, 64)]
    let x : Part := { tPart with batch := [tMember false 0 []] }
    exact ⟨tIssue w 15, tStateOf (tCore w) x, x, 0, 0, 15, tPlan, _, accesses_of 15 true (by decide +kernel), by decide +kernel,
      by decide +kernel, by decide +kernel, by rfl, by rfl, by decide +kernel, by unfold Room; decide +kernel, by decide +kernel⟩
  · let w := tWord 4 0 [(32, 0), (42, 1)]
    let x : Part := { tPart with batch := [tMember true 1 [7]] }
    let c := tTagged (tCore w)
    obtain ⟨⟨c1, ls⟩, h⟩ := good_ok (e := readScrLines [] c 1 0 (appendTotal ⟨1, 4, 32, 128, 512, 8, 3, -1, 2, 1, 1⟩ x w))
      (by decide +kernel)
    exact ⟨tIssue w 15, tStateOf c x, x, 0, 0, 0, tPlan, _, c1, ls, accesses_of 15 true (by decide +kernel), by decide +kernel,
      by decide +kernel, by rfl, by rfl, of_okIs (by decide +kernel), h, by unfold Room; decide +kernel⟩

/-- Witness for `DeltaBlocks`. -/
theorem test_wit_DeltaBlocks :
    (∃ i s x b pos, Accesses 0x05 true i s x b pos ∧ fld i.word 42 11 ≠ 0 ∧ fld i.word 42 11 ≤ 1024 ∧ fld i.word 113 3 = 0 ∧
      (siteOf s.mod i.site.val).core.accessPart.getD i.list.val 0 = 0 ∧ Room s.mod i.site.val i.list.val 0 ∧
      (deltaBlocks x i.site.val i.word).length ≤ 4096 - (siteOf s.mod i.site.val).core.deltaQ.length)
    ∧ (∃ i s x c d a, (Computes 2 1 i s x c ∧ badDapply i.word = false ∧
      segAddr c (fld i.word 71 3) (fld i.word 74 22)
        ((fld i.word 50 6 + 1) * operandWords (resolveFmt x c (wLayer i.word) (fld i.word 38 6)) (32 * fld i.word 96 16)) = .ok a ∧
      applyBlocks i x a c.deltaQ c = .ok d) ∧ d.dapplyOn = true)
    ∧ (∃ i s x c d a e, (Computes 2 1 i s x c ∧ badDapply i.word = false ∧
      segAddr c (fld i.word 71 3) (fld i.word 74 22)
        ((fld i.word 50 6 + 1) * operandWords (resolveFmt x c (wLayer i.word) (fld i.word 38 6)) (32 * fld i.word 96 16)) = .ok a ∧
      applyBlocks i x a c.deltaQ c = .ok d) ∧ d.dapplyOn = false ∧ completeCore i.word d = .ok e) := by
  refine ⟨?_, ?_, ?_⟩
  · let w := tWord 5 0 [(32, 0), (42, 1024), (53, 255)]
    exact ⟨tIssue w 15, tState w, tPart, 0, 0, accesses_of 15 true (by decide +kernel), by decide +kernel, by decide +kernel,
      by decide +kernel, by decide +kernel, by unfold Room; decide +kernel, by decide +kernel⟩
  · let w := tWord 1 2 [(9, 1), (38, 1), (50, 0), (56, 32512), (71, 7), (96, 1)]
    let c : Core := tTagged (tCore w)
    exact ⟨tIssue w 0, tStateOf c tPart, tPart, c, { c with dapplyOn := true }, 0, ⟨by unfold Computes; decide +kernel, by decide +kernel,
      of_okIs (by decide +kernel), rfl⟩, rfl⟩
  · let w := tWord 1 2 [(9, 1), (38, 1), (50, 0), (56, 32512), (71, 7), (96, 1)]
    let c : Core := { tTagged (tCore w) with
      deltaQ := [⟨0, 15, 0, 0, List.replicate 4 0, true⟩], acc := (List.range 16).map (fun k => (32752 + k, 0)) }
    obtain ⟨d, hd, h⟩ := good_bind (e := applyBlocks (tIssue w 0) tPart 0 c.deltaQ c)
      (f := fun d => if d.dapplyOn then .error (d, ⟨0, 0, 0⟩) else completeCore w d) (by decide +kernel)
    cases hb : d.dapplyOn with
    | true => rw [if_pos hb] at h; exact absurd h (by simp [good])
    | false =>
      rw [if_neg (by simp [hb])] at h
      obtain ⟨e, he⟩ := good_ok h
      exact ⟨tIssue w 0, tStateOf c tPart, tPart, c, d, 0, e, ⟨by unfold Computes; decide +kernel, by decide +kernel,
        of_okIs (by decide +kernel), hd⟩, hb, he⟩

/-- An MMUL word: 128 rows, one column, formats 0x01. -/
def tMmulW : InstrWord := tWord 1 1 [(22, 1), (27, 1), (32, 1), (38, 1), (56, 32512), (71, 7), (96, 1), (112, 1)]
/-- Its weights. -/
def tMmulQ : QEntry := ⟨List.replicate 128 (BitVec.ofNat 576 (2 ^ 544)), some 0, false, false, 0⟩
/-- A core that holds them. -/
def tMmulC : Core := { tTagged (tCore tMmulW) with queues := lupd (List.replicate 16 []) 0 (fun _ => [tMmulQ]) }

/-- Witness for `MmulResult`. -/
theorem test_wit_MmulResult : ∃ i s x c c1 d e fw q fmt a,
    Computes 1 1 i s x c ∧ badMmul i.word = false ∧
    accRange c (fld i.word 56 15 + 256 * fld i.word 50 6) (if bit i.word 112 then 128 else 256) = .ok () ∧
    packedOf (fld i.word 32 6) = some fw ∧ (c.queues.getD (wSq i.word) []).head? = some q ∧
    fmt = (if coreLevel c (wLayer i.word) = 3 then 0x10 else resolveFmt x c (wLayer i.word) (fld i.word 38 6)) ∧
    segAddr c (fld i.word 71 3) (fld i.word 74 22) ((fld i.word 50 6 + 1) * operandWords fmt (32 * fld i.word 96 16)) = .ok a ∧
    checkWeights i.scratch c (wSq i.word) fw.code ((if bit i.word 112 then 128 else 256) * runLines fw (fld i.word 96 16)) q = .ok c1 ∧
    (match packedOf fmt with
      | some fa => eachM (mmulColumn i.scratch x i.word q fw fa a) (List.range (fld i.word 50 6 + 1)) c1
      | none => eachM (mmulWide i.scratch i.word q fw a) (List.range (fld i.word 50 6 + 1)) c1) = .ok d ∧
    completeCore i.word d = .ok e := by
  obtain ⟨c1, h0, h⟩ := good_bind
    (e := checkWeights [] tMmulC 0 1 (128 * runLines ⟨1, 4, 32, 128, 512, 8, 3, -1, 2, 1, 1⟩ 1) tMmulQ)
    (f := fun c1 => (match packedOf 1 with
      | some fa => eachM (mmulColumn [] tPart tMmulW tMmulQ ⟨1, 4, 32, 128, 512, 8, 3, -1, 2, 1, 1⟩ fa 0) (List.range 1) c1
      | none => eachM (mmulWide [] tMmulW tMmulQ ⟨1, 4, 32, 128, 512, 8, 3, -1, 2, 1, 1⟩ 0) (List.range 1) c1) >>= completeCore tMmulW) (by decide +kernel)
  obtain ⟨d, hd, h⟩ := good_bind h
  obtain ⟨e, he⟩ := good_ok h
  have hn : (if bit tMmulW 112 then 128 else 256) * runLines ⟨1, 4, 32, 128, 512, 8, 3, -1, 2, 1, 1⟩ (fld tMmulW 96 16)
      = 128 * runLines ⟨1, 4, 32, 128, 512, 8, 3, -1, 2, 1, 1⟩ 1 := by decide +kernel
  have hq : wSq tMmulW = 0 := by decide +kernel
  have w0 : checkWeights (tIssue tMmulW 0).scratch tMmulC (wSq (tIssue tMmulW 0).word) 1
      ((if bit (tIssue tMmulW 0).word 112 then 128 else 256)
        * runLines ⟨1, 4, 32, 128, 512, 8, 3, -1, 2, 1, 1⟩ (fld (tIssue tMmulW 0).word 96 16)) tMmulQ = .ok c1 := by
    show checkWeights [] tMmulC (wSq tMmulW) 1 ((if bit tMmulW 112 then 128 else 256) * runLines _ (fld tMmulW 96 16)) tMmulQ = .ok c1
    rw [hq, hn]; exact h0
  exact ⟨tIssue tMmulW 0, tStateOf tMmulC tPart, tPart, tMmulC, c1, d, e, ⟨1, 4, 32, 128, 512, 8, 3, -1, 2, 1, 1⟩, tMmulQ, 1, 0,
    by unfold Computes; decide +kernel, by decide +kernel, of_okIs (by decide +kernel), by decide +kernel, by decide +kernel,
    by decide +kernel, of_okIs (by decide +kernel), w0, hd, he⟩

/-- Witness for `VectorElementwise`. -/
theorem test_wit_VectorElementwise :
    (∃ i s x c c1 vs c2 ps d e, Computes 3 0x04 i s x c ∧ badVecFmt i.word = false ∧ vBounds true x i.word c = .ok () ∧
      vSource i.scratch x i.word c = .ok (c1, vs) ∧
      vParamVals i.scratch i.word c1 vs.length = .ok (c2, ps) ∧
      vDest x i.word c2 (List.zipWith add32 vs ps) = .ok d ∧ completeCore i.word d = .ok e)
    ∧ (∃ i s x c c1 vs c2 ps d e, Computes 3 0x05 i s x c ∧ badVecFmt i.word = false ∧ vBounds true x i.word c = .ok () ∧
      vSource i.scratch x i.word c = .ok (c1, vs) ∧
      vParamVals i.scratch i.word c1 vs.length = .ok (c2, ps) ∧
      vDest x i.word c2 (List.zipWith mul32 vs ps) = .ok d ∧ completeCore i.word d = .ok e)
    ∧ (∃ i s x c c1 vs d e, Computes 3 0x06 i s x c ∧ badVecFmt i.word = false ∧ vBounds false x i.word c = .ok () ∧
      vSource i.scratch x i.word c = .ok (c1, vs) ∧
      vDest x i.word c1 (vs.map (fun v => mul32 v (vParam i.word c1).scalar)) = .ok d ∧ completeCore i.word d = .ok e)
    ∧ (∃ i s x c c1 vs d e, Computes 3 0x0B i s x c ∧ badVecFmt i.word = false ∧ vBounds false x i.word c = .ok () ∧
      vSource i.scratch x i.word c = .ok (c1, vs) ∧
      vDest x i.word c1 (vs.map (activation (fld (vParam i.word c1).scalar 0 8))) = .ok d ∧ completeCore i.word d = .ok e)
    ∧ (∃ i s x c c1 vs c2 ps d e, Computes 3 0x0C i s x c ∧ badVecFmt i.word = false ∧ vBounds true x i.word c = .ok () ∧
      vSource i.scratch x i.word c = .ok (c1, vs) ∧
      vParamVals i.scratch i.word c1 vs.length = .ok (c2, ps) ∧
      vDest x i.word c2 (List.zipWith (fun g u => mul32 (activation (fld (vParam i.word c1).scalar 0 8) g) u) vs ps) = .ok d ∧ completeCore i.word d = .ok e) := by
  refine ⟨?_, ?_, ?_, ?_, ?_⟩
  · obtain ⟨c1, vs, c2, ps, d, e, h1, h2, h3, h4⟩ := chain3 (i := tIssue (tVec 0x04 []) 0) (x := tPart) (c := tCore (tVec 0x04 [])) (fun n => n)
      (fun _ vs ps => (List.zipWith add32 vs ps)) (by decide +kernel)
    exact ⟨tIssue (tVec 0x04 []) 0, tState (tVec 0x04 []), tPart, tCore (tVec 0x04 []), c1, vs, c2, ps, d, e, by unfold Computes; decide +kernel, by decide +kernel,
      of_okIs (by decide +kernel), h1, h2, h3, h4⟩
  · obtain ⟨c1, vs, c2, ps, d, e, h1, h2, h3, h4⟩ := chain3 (i := tIssue (tVec 0x05 []) 0) (x := tPart) (c := tCore (tVec 0x05 [])) (fun n => n)
      (fun _ vs ps => (List.zipWith mul32 vs ps)) (by decide +kernel)
    exact ⟨tIssue (tVec 0x05 []) 0, tState (tVec 0x05 []), tPart, tCore (tVec 0x05 []), c1, vs, c2, ps, d, e, by unfold Computes; decide +kernel, by decide +kernel,
      of_okIs (by decide +kernel), h1, h2, h3, h4⟩
  · obtain ⟨c1, vs, d, e, h1, h2, h3⟩ := chain2 (i := tIssue (tVec 0x06 []) 0) (x := tPart) (c := tCore (tVec 0x06 []))
      (fun c1 vs => (vs.map (fun v => mul32 v (vParam (tIssue (tVec 0x06 []) 0).word c1).scalar))) (by decide +kernel)
    exact ⟨tIssue (tVec 0x06 []) 0, tState (tVec 0x06 []), tPart, tCore (tVec 0x06 []), c1, vs, d, e, by unfold Computes; decide +kernel, by decide +kernel,
      of_okIs (by decide +kernel), h1, h2, h3⟩
  · obtain ⟨c1, vs, d, e, h1, h2, h3⟩ := chain2 (i := tIssue (tVec 0x0B []) 0) (x := tPart) (c := tCore (tVec 0x0B []))
      (fun c1 vs => (vs.map (activation (fld (vParam (tIssue (tVec 0x0B []) 0).word c1).scalar 0 8)))) (by decide +kernel)
    exact ⟨tIssue (tVec 0x0B []) 0, tState (tVec 0x0B []), tPart, tCore (tVec 0x0B []), c1, vs, d, e, by unfold Computes; decide +kernel, by decide +kernel,
      of_okIs (by decide +kernel), h1, h2, h3⟩
  · obtain ⟨c1, vs, c2, ps, d, e, h1, h2, h3, h4⟩ := chain3 (i := tIssue (tVec 0x0C []) 0) (x := tPart) (c := tCore (tVec 0x0C [])) (fun n => n)
      (fun c1 vs ps => (List.zipWith (fun g u => mul32 (activation (fld (vParam (tIssue (tVec 0x0C []) 0).word c1).scalar 0 8) g) u) vs ps)) (by decide +kernel)
    exact ⟨tIssue (tVec 0x0C []) 0, tState (tVec 0x0C []), tPart, tCore (tVec 0x0C []), c1, vs, c2, ps, d, e, by unfold Computes; decide +kernel, by decide +kernel,
      of_okIs (by decide +kernel), h1, h2, h3, h4⟩

/-- Witness for `VectorNormalise`. -/
theorem test_wit_VectorNormalise :
    (∃ i s x c c1 vs c2 ps d e, Computes 3 0x08 i s x c ∧ badVecFmt i.word = false ∧ vBounds true x i.word c = .ok () ∧
      vSource i.scratch x i.word c = .ok (c1, vs) ∧
      vParamVals i.scratch i.word c1 vs.length = .ok (c2, ps) ∧
      vDest x i.word c2 ((List.range vs.length).map (fun k => (Config.rmsNorm vs ps).getD k 0)) = .ok d ∧ completeCore i.word d = .ok e)
    ∧ (∃ i s x c c1 vs c2 ps d e, Computes 3 0x09 i s x c ∧ badVecFmt i.word = false ∧ vBounds true x i.word c = .ok () ∧
      vSource i.scratch x i.word c = .ok (c1, vs) ∧
      vParamVals i.scratch i.word c1 (2 * vs.length) = .ok (c2, ps) ∧
      vDest x i.word c2 ((List.range vs.length).map (fun k => (Config.layerNorm vs ps).getD k 0)) = .ok d ∧ completeCore i.word d = .ok e)
    ∧ (∃ i s x c c1 vs d e, Computes 3 0x0A i s x c ∧ badVecFmt i.word = false ∧ vBounds false x i.word c = .ok () ∧
      vSource i.scratch x i.word c = .ok (c1, vs) ∧
      vDest x i.word c1 ((List.range vs.length).map (fun k =>
        if vs.getD k 0 = 0xFF800000 then 0 else (Config.softmax vs).getD k 0)) = .ok d ∧ completeCore i.word d = .ok e) := by
  refine ⟨?_, ?_, ?_⟩
  · obtain ⟨c1, vs, c2, ps, d, e, h1, h2, h3, h4⟩ := chain3 (i := tIssue (tVec 0x08 []) 0) (x := tPart) (c := tCore (tVec 0x08 [])) (fun n => n)
      (fun _ vs ps => ((List.range vs.length).map (fun k => (Config.rmsNorm vs ps).getD k 0))) (by decide +kernel)
    exact ⟨tIssue (tVec 0x08 []) 0, tState (tVec 0x08 []), tPart, tCore (tVec 0x08 []), c1, vs, c2, ps, d, e, by unfold Computes; decide +kernel, by decide +kernel,
      of_okIs (by decide +kernel), h1, h2, h3, h4⟩
  · obtain ⟨c1, vs, c2, ps, d, e, h1, h2, h3, h4⟩ := chain3 (i := tIssue (tVec 0x09 []) 0) (x := tPart) (c := tCore (tVec 0x09 [])) (fun n => 2 * n)
      (fun _ vs ps => ((List.range vs.length).map (fun k => (Config.layerNorm vs ps).getD k 0))) (by decide +kernel)
    exact ⟨tIssue (tVec 0x09 []) 0, tState (tVec 0x09 []), tPart, tCore (tVec 0x09 []), c1, vs, c2, ps, d, e, by unfold Computes; decide +kernel, by decide +kernel,
      of_okIs (by decide +kernel), h1, h2, h3, h4⟩
  · obtain ⟨c1, vs, d, e, h1, h2, h3⟩ := chain2 (i := tIssue (tVec 0x0A []) 0) (x := tPart) (c := tCore (tVec 0x0A []))
      (fun _ vs => ((List.range vs.length).map (fun k =>
        if vs.getD k 0 = 0xFF800000 then 0 else (Config.softmax vs).getD k 0))) (by decide +kernel)
    exact ⟨tIssue (tVec 0x0A []) 0, tState (tVec 0x0A []), tPart, tCore (tVec 0x0A []), c1, vs, d, e, by unfold Computes; decide +kernel, by decide +kernel,
      of_okIs (by decide +kernel), h1, h2, h3⟩

/-- Witness for `VectorMoves`. -/
theorem test_wit_VectorMoves :
    (∃ i s x c e, Computes 3 0x00 i s x c ∧ badVecFmt i.word = false ∧
      completeCore i.word c = .ok e)
    ∧ (∃ i s x c d e f, Computes 3 0x01 i s x c ∧ badVecFmt i.word = false ∧
      resolveFmt x c (wLayer i.word) (fld i.word 32 6) = f ∧ resolveFmt x c (wLayer i.word) (fld i.word 38 6) = f ∧
      f ≠ 0x10 ∧ f ≠ 0x11 ∧ bit i.word 47 = false ∧ bit i.word 73 = false ∧
      copyLines i f c = .ok d ∧ completeCore i.word d = .ok e)
    ∧ (∃ i s x c c1 vs d e, Computes 3 0x01 i s x c ∧ badVecFmt i.word = false ∧ 
      (resolveFmt x c (wLayer i.word) (fld i.word 32 6) ≠ resolveFmt x c (wLayer i.word) (fld i.word 38 6)
        ∨ resolveFmt x c (wLayer i.word) (fld i.word 32 6) = 0x10 ∨ resolveFmt x c (wLayer i.word) (fld i.word 32 6) = 0x11
        ∨ bit i.word 47 = true ∨ bit i.word 73 = true) ∧
      vBounds false x i.word c = .ok () ∧ vSource i.scratch x i.word c = .ok (c1, vs) ∧
      vDest x i.word c1 vs = .ok d ∧ completeCore i.word d = .ok e)
    ∧ (∃ i s x c c1 vs d e, Computes 3 0x03 i s x c ∧ badDequant i.word = false ∧
      vBounds false x i.word c = .ok () ∧ vSource i.scratch x i.word c = .ok (c1, vs) ∧
      vDest x i.word c1 vs = .ok d ∧ completeCore i.word d = .ok e)
    ∧ (∃ i s x c e, Computes 3 0x0E i s x c ∧ badVecFmt i.word = false ∧ fld i.word 74 22 + vCount i.word ≤ 32768 ∧
      completeCore i.word { c with acc := mdelRange c.acc (fld i.word 74 22) (fld i.word 74 22 + vCount i.word) } = .ok e)
    ∧ (∃ i s x c e, Computes 3 0x3E i s x c ∧ fld i.word 109 7 = 0 ∧
      completeCore i.word { c with params := lupd c.params (fld i.word 32 4) (fun _ =>
        { seg := fld i.word 36 3, off := fld i.word 39 22, len := fld i.word 61 16 + 1,
          scalar := BitVec.ofNat 32 (fld i.word 77 32) }) } = .ok e) := by
  refine ⟨?_, ?_, ?_, ?_, ?_, ?_⟩
  · obtain ⟨e, h⟩ := good_ok (e := completeCore (tIssue (tVec 0 []) 0).word (tCore (tVec 0 []))) (by decide +kernel)
    exact ⟨tIssue (tVec 0 []) 0, tState (tVec 0 []), tPart, tCore (tVec 0 []), e, by unfold Computes; decide +kernel, by decide +kernel, h⟩
  · obtain ⟨d, h1, h⟩ := good_bind (e := copyLines (tIssue (tWord 1 3 [(32, 1), (38, 1), (44, 7), (70, 7)]) 0) 1 (tTagged (tCore (tWord 1 3 [(32, 1), (38, 1), (44, 7), (70, 7)]))))
      (f := completeCore (tIssue (tWord 1 3 [(32, 1), (38, 1), (44, 7), (70, 7)]) 0).word) (by decide +kernel)
    obtain ⟨e, h2⟩ := good_ok h
    exact ⟨tIssue (tWord 1 3 [(32, 1), (38, 1), (44, 7), (70, 7)]) 0, tStateOf (tTagged (tCore (tWord 1 3 [(32, 1), (38, 1), (44, 7), (70, 7)]))) tPart, tPart, tTagged (tCore (tWord 1 3 [(32, 1), (38, 1), (44, 7), (70, 7)])), d, e, 1,
      by unfold Computes; decide +kernel, by decide +kernel, by decide +kernel, by decide +kernel, by decide, by decide,
      by decide +kernel, by decide +kernel, h1, h2⟩
  · obtain ⟨c1, vs, d, e, h1, h2, h3⟩ := chain2 (i := tIssue (tVec 0x01 []) 0) (x := tPart) (c := tCore (tVec 0x01 []))
      (fun _ vs => vs) (by decide +kernel)
    exact ⟨tIssue (tVec 0x01 []) 0, tState (tVec 0x01 []), tPart, tCore (tVec 0x01 []), c1, vs, d, e, by unfold Computes; decide +kernel, by decide +kernel, by decide +kernel,
      of_okIs (by decide +kernel), h1, h2, h3⟩
  · obtain ⟨c1, vs, d, e, h1, h2, h3⟩ := chain2 (i := tIssue (tVec 0x03 []) 0) (x := tPart) (c := tCore (tVec 0x03 []))
      (fun _ vs => vs) (by decide +kernel)
    exact ⟨tIssue (tVec 0x03 []) 0, tState (tVec 0x03 []), tPart, tCore (tVec 0x03 []), c1, vs, d, e, by unfold Computes; decide +kernel, by decide +kernel,
      of_okIs (by decide +kernel), h1, h2, h3⟩
  · obtain ⟨e, h⟩ := good_ok (e := completeCore (tIssue (tVec 0x0E [(74, 0), (96, 32767)]) 0).word { tCore (tVec 0x0E [(74, 0), (96, 32767)]) with acc := mdelRange (tCore (tVec 0x0E [(74, 0), (96, 32767)])).acc (fld (tIssue (tVec 0x0E [(74, 0), (96, 32767)]) 0).word 74 22) (fld (tIssue (tVec 0x0E [(74, 0), (96, 32767)]) 0).word 74 22 + vCount (tIssue (tVec 0x0E [(74, 0), (96, 32767)]) 0).word) }) (by decide +kernel)
    exact ⟨tIssue (tVec 0x0E [(74, 0), (96, 32767)]) 0, tState (tVec 0x0E [(74, 0), (96, 32767)]), tPart, tCore (tVec 0x0E [(74, 0), (96, 32767)]), e, by unfold Computes; decide +kernel, by decide +kernel, by decide +kernel, h⟩
  · obtain ⟨e, h⟩ := good_ok (e := completeCore (tIssue (tWord 0x3E 3 [(32, 15), (36, 7), (39, 98303), (61, 65535), (77, 1)]) 0).word { tCore (tWord 0x3E 3 [(32, 15), (36, 7), (39, 98303), (61, 65535), (77, 1)]) with params := lupd (tCore (tWord 0x3E 3 [(32, 15), (36, 7), (39, 98303), (61, 65535), (77, 1)])).params (fld (tIssue (tWord 0x3E 3 [(32, 15), (36, 7), (39, 98303), (61, 65535), (77, 1)]) 0).word 32 4) (fun _ =>
        { seg := fld (tIssue (tWord 0x3E 3 [(32, 15), (36, 7), (39, 98303), (61, 65535), (77, 1)]) 0).word 36 3, off := fld (tIssue (tWord 0x3E 3 [(32, 15), (36, 7), (39, 98303), (61, 65535), (77, 1)]) 0).word 39 22, len := fld (tIssue (tWord 0x3E 3 [(32, 15), (36, 7), (39, 98303), (61, 65535), (77, 1)]) 0).word 61 16 + 1,
          scalar := BitVec.ofNat 32 (fld (tIssue (tWord 0x3E 3 [(32, 15), (36, 7), (39, 98303), (61, 65535), (77, 1)]) 0).word 77 32) }) }) (by decide +kernel)
    exact ⟨tIssue (tWord 0x3E 3 [(32, 15), (36, 7), (39, 98303), (61, 65535), (77, 1)]) 0, tState (tWord 0x3E 3 [(32, 15), (36, 7), (39, 98303), (61, 65535), (77, 1)]), tPart, tCore (tWord 0x3E 3 [(32, 15), (36, 7), (39, 98303), (61, 65535), (77, 1)]), e, by unfold Computes; decide +kernel, by decide +kernel, h⟩

/-- A queue entry: a member header and one key line. -/
def tKeys : QEntry := ⟨[0, BitVec.ofNat 576 (2 ^ 544)], none, false, false, 0⟩
/-- A core with it at the head of queue 15, and a parameter descriptor. -/
def tRopeC (w : InstrWord) (v : B32) : Core :=
  { tCore w with
    queues := lupd (List.replicate 16 []) 15 (fun _ => [tKeys]),
    params := lupd (List.replicate 16 ⟨0, 0, 0, 0⟩) 15 (fun p => { p with scalar := v }) }
/-- ROPE of query vectors. -/
def tRopeQ : InstrWord := tVec 0x0D [(22, 1), (23, 15), (27, 1)]
/-- ROPE of key lines. -/
def tRopeK : InstrWord := tWord 0x0D 3 [(32, 1), (38, 0x11), (70, 7), (112, 15), (22, 1), (23, 15), (27, 1)]
/-- QUANT to format 0x01, selecting with T = 255. -/
def tQuantW : InstrWord := tWord 0x02 3 [(32, 0x11), (38, 1), (44, 7), (70, 7), (112, 15)]
/-- Its core. -/
def tQuantC : Core :=
  { tCore tQuantW with params := lupd (List.replicate 16 ⟨0, 0, 0, 0⟩) 15 (fun p => { p with scalar := 255 }) }

/-- Witness for `VectorQuantRope`. -/
theorem test_wit_VectorQuantRope :
    (∃ i s x c c1 e vs a, Computes 3 0x02 i s x c ∧ badQuant i.word = false ∧ fld (vParam i.word c).scalar 17 15 = 0 ∧
      vBounds false x i.word c = .ok () ∧ vSource i.scratch x i.word c = .ok (c1, vs) ∧
      (let fmt := resolveFmt x c1 (wLayer i.word) (fld i.word 38 6)
       let static := if bit (vParam i.word c).scalar 16 then some (fld (vParam i.word c).scalar 8 8) else none
       let enc := encodeOperand x c1 (wLayer i.word) fmt static vs
       segAddr c1 (fld i.word 70 3) (fld i.word 74 22) (operandWords fmt vs.length) = .ok a ∧
       completeCore i.word (selectColumn x i.site.val i.word (fld (vParam i.word c).scalar 0 8) a fmt static vs
         (countBlocks (writeWords c1 a enc.1) (wLayer i.word) enc.2)) = .ok e))
    ∧ (∃ i s x c c1 c2 d e vs ps, Computes 3 0x0D i s x c ∧ badVecFmt i.word = false ∧ wSqEn i.word = false ∧
      vBounds true x i.word c = .ok () ∧ vSource i.scratch x i.word c = .ok (c1, vs) ∧
      vParamVals i.scratch i.word c1 (cdiv (vCount i.word) 128) = .ok (c2, ps) ∧
      vDest x i.word c2 (rotateAll (fun j => (ps.getD j 0).toNat) vs) = .ok d ∧ completeCore i.word d = .ok e)
    ∧ (∃ i s x c c0 c1 d e vs q, Computes 3 0x0D i s x c ∧ badVecFmt i.word = false ∧ wSqEn i.word = true ∧
      (c.queues.getD (wSq i.word) []).head? = some q ∧ bit (vParam i.word c).scalar 0 = false ∧
      vBounds false x i.word c = .ok () ∧ readStaged i.scratch c (wSq i.word) q [0] = .ok c0 ∧
      vSource i.scratch x i.word c0 = .ok (c1, vs) ∧
      vDest x i.word c1 (rotateAll (fun j => headerWord q 3 + j) vs) = .ok d ∧ completeCore i.word d = .ok e)
    ∧ (∃ i s x c c1 d e q f b g0, Computes 3 0x0D i s x c ∧ badVecFmt i.word = false ∧ wSqEn i.word = true ∧
      (c.queues.getD (wSq i.word) []).head? = some q ∧ bit (vParam i.word c).scalar 0 = true ∧
      packedOf (resolveFmt x c (wLayer i.word) (fld i.word 32 6)) = some f ∧
      (bit i.word 73 = true → accRange c (fld i.word 74 22) (vCount i.word) = .ok ()) ∧
      (bit i.word 73 = false → ∃ a, segAddr c (fld i.word 70 3) (fld i.word 74 22)
        (operandWords (resolveFmt x c (wLayer i.word) (fld i.word 38 6)) (vCount i.word)) = .ok a) ∧
      entryPlace f (max 1 (entryRun f (headerWord q 1))) (max 1 (fld i.word 48 22 / 9)) = (b, g0) ∧
      readStaged i.scratch c (wSq i.word) q (0 :: entryLinesOf f b g0 (vCount i.word)) = .ok c1 ∧
      (entryLinesOf f b g0 (vCount i.word)).all (fun j => fmtMatch (tagFmt (q.lines.getD j 0)) f.code) = true ∧
      vDest x i.word c1 (rotateAll (fun j => headerWord q 2 + g0 / 128 + j) (entryKeys f q b g0 (vCount i.word))) = .ok d ∧
      completeCore i.word d = .ok e) := by
  refine ⟨?_, ?_, ?_, ?_⟩
  · obtain ⟨⟨c1, vs⟩, h1, h⟩ := good_bind (e := vSource (tIssue tQuantW 0).scratch tPart (tIssue tQuantW 0).word tQuantC)
      (f := fun r => segAddr r.1 (fld (tIssue tQuantW 0).word 70 3) (fld (tIssue tQuantW 0).word 74 22)
          (operandWords (resolveFmt tPart r.1 (wLayer (tIssue tQuantW 0).word) (fld (tIssue tQuantW 0).word 38 6)) r.2.length)
        >>= fun a => completeCore (tIssue tQuantW 0).word (selectColumn tPart (tIssue tQuantW 0).site.val (tIssue tQuantW 0).word
          (fld (vParam (tIssue tQuantW 0).word tQuantC).scalar 0 8) a
          (resolveFmt tPart r.1 (wLayer (tIssue tQuantW 0).word) (fld (tIssue tQuantW 0).word 38 6))
          (if bit (vParam (tIssue tQuantW 0).word tQuantC).scalar 16 then
            some (fld (vParam (tIssue tQuantW 0).word tQuantC).scalar 8 8) else none) r.2
          (countBlocks (writeWords r.1 a (encodeOperand tPart r.1 (wLayer (tIssue tQuantW 0).word)
            (resolveFmt tPart r.1 (wLayer (tIssue tQuantW 0).word) (fld (tIssue tQuantW 0).word 38 6))
            (if bit (vParam (tIssue tQuantW 0).word tQuantC).scalar 16 then
              some (fld (vParam (tIssue tQuantW 0).word tQuantC).scalar 8 8) else none) r.2).1)
            (wLayer (tIssue tQuantW 0).word)
            (encodeOperand tPart r.1 (wLayer (tIssue tQuantW 0).word)
            (resolveFmt tPart r.1 (wLayer (tIssue tQuantW 0).word) (fld (tIssue tQuantW 0).word 38 6))
            (if bit (vParam (tIssue tQuantW 0).word tQuantC).scalar 16 then
              some (fld (vParam (tIssue tQuantW 0).word tQuantC).scalar 8 8) else none) r.2).2)))
      (by decide +kernel)
    obtain ⟨a, h2, h⟩ := good_bind h
    obtain ⟨e, h3⟩ := good_ok h
    exact ⟨tIssue tQuantW 0, tStateOf tQuantC tPart, tPart, tQuantC, c1, e, vs, a, by unfold Computes; decide +kernel,
      by decide +kernel, by decide +kernel, of_okIs (by decide +kernel), h1, h2, h3⟩
  · obtain ⟨⟨c1, vs⟩, h1, h⟩ := good_bind
      (e := vSource (tIssue (tVec 0x0D []) 0).scratch tPart (tIssue (tVec 0x0D []) 0).word (tCore (tVec 0x0D [])))
      (f := fun r => vParamVals (tIssue (tVec 0x0D []) 0).scratch (tIssue (tVec 0x0D []) 0).word r.1
          (cdiv (vCount (tIssue (tVec 0x0D []) 0).word) 128) >>= fun t =>
        vDest tPart (tIssue (tVec 0x0D []) 0).word t.1 (rotateAll (fun j => (t.2.getD j 0).toNat) r.2) >>=
        completeCore (tIssue (tVec 0x0D []) 0).word) (by decide +kernel)
    obtain ⟨⟨c2, ps⟩, h2, h⟩ := good_bind h
    obtain ⟨d, h3, h⟩ := good_bind h
    obtain ⟨e, h4⟩ := good_ok h
    exact ⟨tIssue (tVec 0x0D []) 0, tState (tVec 0x0D []), tPart, tCore (tVec 0x0D []), c1, c2, d, e, vs, ps,
      by unfold Computes; decide +kernel, by decide +kernel, by decide +kernel, of_okIs (by decide +kernel), h1, h2, h3, h4⟩
  · obtain ⟨c0, h0, h⟩ := good_bind (e := readStaged [] (tRopeC tRopeQ 0) 15 tKeys [0])
      (f := fun c0 => vSource [] tPart tRopeQ c0 >>= fun r =>
        vDest tPart tRopeQ r.1 (rotateAll (fun j => headerWord tKeys 3 + j) r.2) >>= completeCore tRopeQ) (by decide +kernel)
    obtain ⟨⟨c1, vs⟩, h1, h⟩ := good_bind h
    obtain ⟨d, h2, h⟩ := good_bind h
    obtain ⟨e, h3⟩ := good_ok h
    exact ⟨tIssue tRopeQ 0, tStateOf (tRopeC tRopeQ 0) tPart, tPart, tRopeC tRopeQ 0, c0, c1, d, e, vs, tKeys,
      by unfold Computes; decide +kernel, by decide +kernel, by decide +kernel, by decide +kernel, by decide +kernel,
      of_okIs (by decide +kernel), h0, h1, h2, h3⟩
  · obtain ⟨c1, h0, h⟩ := good_bind
      (e := readStaged [] (tRopeC tRopeK 1) 15 tKeys (0 :: entryLinesOf ⟨1, 4, 32, 128, 512, 8, 3, -1, 2, 1, 1⟩ 1 0 1))
      (f := fun c1 => vDest tPart tRopeK c1 (rotateAll (fun j => headerWord tKeys 2 + 0 / 128 + j) (entryKeys ⟨1, 4, 32, 128, 512, 8, 3, -1, 2, 1, 1⟩ tKeys 1 0 1))
        >>= completeCore tRopeK) (by decide +kernel)
    obtain ⟨d, h1, h⟩ := good_bind h
    obtain ⟨e, h2⟩ := good_ok h
    exact ⟨tIssue tRopeK 0, tStateOf (tRopeC tRopeK 1) tPart, tPart, tRopeC tRopeK 1, c1, d, e, tKeys, ⟨1, 4, 32, 128, 512, 8, 3, -1, 2, 1, 1⟩, 1, 0,
      by unfold Computes; decide +kernel, by decide +kernel, by decide +kernel, by decide +kernel, by decide +kernel, by decide +kernel,
      fun h => absurd h (by decide +kernel), fun _ => ⟨_, rfl⟩, by decide +kernel, h0, by decide +kernel, h1, h2⟩

/-- A sampler state. -/
def tSampler : Sampler := { block := 0, counter := 0, table := [], ring := [], fill := 0 }
/-- A partition whose last batch place is sampled. -/
def tSampPart : Part :=
  { tPart with seqs := [tSeq], batch := List.replicate 1023 (tMember false 0 []) ++ [tMember true 1 [7]] }
/-- The working state of the last member. -/
def tWork : SampWork := { logits := [0], cands := [(0, 0)], token := some 0, counted := false, stop := false }
/-- A core that holds it. -/
def tSampCore (w : InstrWord) : Core := { tCore w with samp := [(1023, tWork)] }

/-- The working state an earlier stage left, as one decidable question. -/
theorem workNow_held {i : Issue} {x : Part} {k : Nat} {c : Core} {q : Sampler} {w : SampWork}
    (h : memberSampler x k = some q ∧ mget? c.samp k = some w) : WorkNow i x k c c q w := ⟨h.1, Or.inl ⟨h.2, rfl⟩⟩

/-- Witness for `SamplerStages`. -/
theorem test_wit_SamplerStages :
    (∃ i k s x c c1 e q vs, Computes 3 0x10 i s x c ∧ badVecFmt i.word = false ∧ memberSampler x k = some q ∧
      vSource i.scratch x i.word c = .ok (c1, vs) ∧
      completeCore i.word (setWork c1 k (freshWork (stageBias q (vs.map cleanLogit)))) = .ok e)
    ∧ (∃ i k s x c c1 e q w, Computes 3 0x11 i s x c ∧ badVecFmt i.word = false ∧ WorkNow i x k c c1 q w ∧
      completeCore i.word (setWork c1 k { w with logits := stagePenalty q w.logits }) = .ok e)
    ∧ (∃ i k s x c c1 e q w, Computes 3 0x12 i s x c ∧ badVecFmt i.word = false ∧ WorkNow i x k c c1 q w ∧
      completeCore i.word (setWork c1 k { w with token := (stageFilter q w.logits).1, cands := (stageFilter q w.logits).2 }) = .ok e)
    ∧ (∃ i k s x c c1 e q w, Computes 3 0x13 i s x c ∧ badVecFmt i.word = false ∧ WorkNow i x k c c1 q w ∧
      completeCore i.word (setWork c1 k { w with token := some (w.token.getD (stageDraw q w.cands)) }) = .ok e)
    ∧ (∃ i k s x c c1 e q w, Computes 3 0x14 i s x c ∧ badVecFmt i.word = false ∧ WorkNow i x k c c1 q w ∧
      completeCore i.word (setWork c1 k { w with counted := true }) = .ok e)
    ∧ (∃ i k s x c c1 e q w, Computes 3 0x15 i s x c ∧ badVecFmt i.word = false ∧ WorkNow i x k c c1 q w ∧
      completeCore i.word (setWork c1 k { w with stop := (w.token.bind (tabEntry? q.table)).any eStop }) = .ok e) := by
  refine ⟨?_, ?_, ?_, ?_, ?_, ?_⟩
  · obtain ⟨⟨c1, vs⟩, h1, h⟩ := good_bind (e := vSource (tIssue (tVec 0x10 []) 0).scratch tSampPart (tIssue (tVec 0x10 []) 0).word (tCore (tVec 0x10 [])))
      (f := fun r => completeCore (tIssue (tVec 0x10 []) 0).word (setWork r.1 1023 (freshWork (stageBias tSampler (r.2.map cleanLogit)))))
      (by decide +kernel)
    obtain ⟨e, h2⟩ := good_ok h
    exact ⟨tIssue (tVec 0x10 []) 0, 1023, tStateOf (tCore (tVec 0x10 [])) tSampPart, tSampPart, tCore (tVec 0x10 []), c1, e, tSampler, vs,
      by unfold Computes; decide +kernel, by decide +kernel, by decide +kernel, h1, h2⟩
  · obtain ⟨⟨c1, vs⟩, h1, h⟩ := good_bind (e := vSource (tIssue (tVec 0x11 []) 0).scratch tSampPart (tIssue (tVec 0x11 []) 0).word (tCore (tVec 0x11 [])))
      (f := fun r => completeCore (tIssue (tVec 0x11 []) 0).word (setWork r.1 1023
        { freshWork (r.2.map cleanLogit) with logits := stagePenalty tSampler (freshWork (r.2.map cleanLogit)).logits }))
      (by decide +kernel)
    obtain ⟨e, h2⟩ := good_ok h
    exact ⟨tIssue (tVec 0x11 []) 0, 1023, tStateOf (tCore (tVec 0x11 [])) tSampPart, tSampPart, tCore (tVec 0x11 []), c1, e, tSampler, freshWork (vs.map cleanLogit),
      by unfold Computes; decide +kernel, by decide +kernel, ⟨by decide +kernel, Or.inr ⟨by decide +kernel, vs, h1, rfl⟩⟩, h2⟩
  · obtain ⟨e, h⟩ := good_ok (e := completeCore (tIssue (tVec 0x12 []) 0).word (setWork (tSampCore (tVec 0x12 [])) 1023 { tWork with token := (stageFilter tSampler tWork.logits).1, cands := (stageFilter tSampler tWork.logits).2 })) (by decide +kernel)
    exact ⟨tIssue (tVec 0x12 []) 0, 1023, tStateOf (tSampCore (tVec 0x12 [])) tSampPart, tSampPart, tSampCore (tVec 0x12 []), tSampCore (tVec 0x12 []), e, tSampler, tWork,
      by unfold Computes; decide +kernel, by decide +kernel, workNow_held (by decide +kernel), h⟩
  · obtain ⟨e, h⟩ := good_ok (e := completeCore (tIssue (tVec 0x13 []) 0).word (setWork (tSampCore (tVec 0x13 [])) 1023 { tWork with token := some (tWork.token.getD (stageDraw tSampler tWork.cands)) })) (by decide +kernel)
    exact ⟨tIssue (tVec 0x13 []) 0, 1023, tStateOf (tSampCore (tVec 0x13 [])) tSampPart, tSampPart, tSampCore (tVec 0x13 []), tSampCore (tVec 0x13 []), e, tSampler, tWork,
      by unfold Computes; decide +kernel, by decide +kernel, workNow_held (by decide +kernel), h⟩
  · obtain ⟨e, h⟩ := good_ok (e := completeCore (tIssue (tVec 0x14 []) 0).word (setWork (tSampCore (tVec 0x14 [])) 1023 { tWork with counted := true })) (by decide +kernel)
    exact ⟨tIssue (tVec 0x14 []) 0, 1023, tStateOf (tSampCore (tVec 0x14 [])) tSampPart, tSampPart, tSampCore (tVec 0x14 []), tSampCore (tVec 0x14 []), e, tSampler, tWork,
      by unfold Computes; decide +kernel, by decide +kernel, workNow_held (by decide +kernel), h⟩
  · obtain ⟨e, h⟩ := good_ok (e := completeCore (tIssue (tVec 0x15 []) 0).word (setWork (tSampCore (tVec 0x15 [])) 1023 { tWork with stop := (tWork.token.bind (tabEntry? tSampler.table)).any eStop })) (by decide +kernel)
    exact ⟨tIssue (tVec 0x15 []) 0, 1023, tStateOf (tSampCore (tVec 0x15 [])) tSampPart, tSampPart, tSampCore (tVec 0x15 []), tSampCore (tVec 0x15 []), e, tSampler, tWork,
      by unfold Computes; decide +kernel, by decide +kernel, workNow_held (by decide +kernel), h⟩

/-- Witness for `Transfers`. -/
theorem test_wit_Transfers :
    (∃ i s x c c1 ls, Computes 4 0x01 i s x c ∧ fenceHolds s.mod i = false ∧ 4 < c.done.length ∧ fld i.word 110 18 = 0 ∧
      scratchSource i (fld i.word 78 16 + 1) c = .ok (c1, ls))
    ∧ (∃ i s x c e, Computes 4 0x02 i s x c ∧ fld i.word 32 13 = 0 ∧ fld i.word 94 34 = 0 ∧ completeCore i.word c = .ok e)
    ∧ (∃ i s x c win a, Computes 4 0x03 i s x c ∧ fenceHolds s.mod i = false ∧ 4 < c.done.length ∧ badWindow i.word = false ∧
      windowOf x (fld i.word 45 6) = some win ∧ segAddr c (fld i.word 53 3) (fld i.word 56 22) (9 * (fld i.word 78 16 + 1)) = .ok a)
    ∧ (∃ i s x c c1 ls win, Computes 4 0x04 i s x c ∧ fenceHolds s.mod i = false ∧ 4 < c.done.length ∧ badWindow i.word = false ∧
      windowOf x (fld i.word 45 6) = some win ∧ scratchSource i (fld i.word 78 16 + 1) c = .ok (c1, ls)) := by
  refine ⟨?_, ?_, ?_, ?_⟩
  · obtain ⟨⟨c1, ls⟩, h⟩ := good_ok (e := scratchSource (tIssue (tWord 1 4 [(44, 1), (53, 7), (78, 0)]) 0) (fld (tIssue (tWord 1 4 [(44, 1), (53, 7), (78, 0)]) 0).word 78 16 + 1) (tCore (tWord 1 4 [(44, 1), (53, 7), (78, 0)]))) (by decide +kernel)
    exact ⟨tIssue (tWord 1 4 [(44, 1), (53, 7), (78, 0)]) 0, tState (tWord 1 4 [(44, 1), (53, 7), (78, 0)]), tPart, tCore (tWord 1 4 [(44, 1), (53, 7), (78, 0)]), c1, ls, by unfold Computes; decide +kernel, by decide +kernel,
      by decide +kernel, by decide +kernel, h⟩
  · obtain ⟨e, h⟩ := good_ok (e := completeCore (tIssue (tWord 2 4 []) 0).word (tCore (tWord 2 4 []))) (by decide +kernel)
    exact ⟨tIssue (tWord 2 4 []) 0, tState (tWord 2 4 []), tPart, tCore (tWord 2 4 []), e, by unfold Computes; decide +kernel, by decide +kernel,
      by decide +kernel, h⟩
  · exact ⟨tIssue (tWord 3 4 [(45, 63), (53, 7), (78, 15)]) 0, tState (tWord 3 4 [(45, 63), (53, 7), (78, 15)]), tPart, tCore (tWord 3 4 [(45, 63), (53, 7), (78, 15)]), _, 0, by unfold Computes; decide +kernel, by decide +kernel,
      by decide +kernel, by decide +kernel, by rfl, of_okIs (by decide +kernel)⟩
  · obtain ⟨⟨c1, ls⟩, h⟩ := good_ok (e := scratchSource (tIssue (tWord 4 4 [(45, 63), (53, 7), (78, 15)]) 0) (fld (tIssue (tWord 4 4 [(45, 63), (53, 7), (78, 15)]) 0).word 78 16 + 1) (tCore (tWord 4 4 [(45, 63), (53, 7), (78, 15)]))) (by decide +kernel)
    exact ⟨tIssue (tWord 4 4 [(45, 63), (53, 7), (78, 15)]) 0, tState (tWord 4 4 [(45, 63), (53, 7), (78, 15)]), tPart, tCore (tWord 4 4 [(45, 63), (53, 7), (78, 15)]), c1, ls, _, by unfold Computes; decide +kernel, by decide +kernel,
      by decide +kernel, by decide +kernel, by rfl, h⟩

/-- A core at the barrier, whose schedule has `n` beats. -/
def tBarrier (n : Nat) : Core :=
  { tCore 0 with atBarrier := true, prog := mset (tCore 0).prog 0 (tWord 0 0 [(32, 20), (64, n)]) }
/-- Witness for `Beats`. -/
theorem test_wit_Beats :
    (∃ (s : State) (p : Nat) (x : Part), issuing s.mod 1535 = some (p, x) ∧ (siteOf s.mod 1535).core.atBarrier = false ∧
      beatDone (siteOf s.mod 1535).core = true ∧ residue? (siteOf s.mod 1535).core = none)
    ∧ (∃ (s : State) (x : Part) (pl : Plan), partOf? s.mod 15 = some x ∧ x.plan = some pl ∧ mayRelease s.mod 15 x = true ∧ x.restartDue = true)
    ∧ (∃ (s : State) (x : Part) (pl : Plan), partOf? s.mod 15 = some x ∧ x.plan = some pl ∧ mayRelease s.mod 15 x = true ∧ x.restartDue = false
      ∧ x.schedPos + 1 < stepBeats s.mod x)
    ∧ (∃ (s : State) (x : Part) (pl : Plan), partOf? s.mod 15 = some x ∧ x.plan = some pl ∧ mayRelease s.mod 15 x = true ∧ x.restartDue = false
      ∧ stepBeats s.mod x ≤ x.schedPos + 1)
    ∧ (∃ (s : State) (x : Part), partOf? s.mod 15 = some x ∧ x.tableWaiting = true)
    ∧ (∃ (s : State) (x : Part), partOf? s.mod 15 = some x ∧ beatsRun x = true ∧ x.holdPartner = false ∧ x.holdSeam = false
      ∧ hardwareFault s.mod 15 = true)
    ∧ (∃ (s : State) (x : Part) (q : Request), partOf? s.mod 15 = some x ∧ beatsRun x = true ∧ x.holdPartner = false ∧ x.holdSeam = false
      ∧ hardwareFault s.mod 15 = false ∧ awaitsPartner s.mod 15 = some q)
    ∧ (∃ (s : State) (x : Part), partOf? s.mod 15 = some x ∧ beatsRun x = true ∧ x.holdPartner = false ∧ x.holdSeam = false
      ∧ hardwareFault s.mod 15 = false ∧ awaitsPartner s.mod 15 = none) := by
  let s0 := tStateOf (tCore 0) tPart
  refine ⟨⟨tStateOf { tCore 0 with done := [0, 1, 1, 1, 1] } tPart, 15, tPart, ?_⟩,
    ⟨tStateOf (tBarrier 1) { tPart with restartDue := true }, { tPart with restartDue := true }, tPlan, ?_⟩,
    ⟨tStateOf (tBarrier 2) tPart, tPart, tPlan, ?_⟩,
    ⟨tLive (tStateOf (tBarrier 1) tPart), tPart, tPlan, ?_⟩,
    ⟨tStateOf (tCore 0) { tPart with tableWaiting := true }, _, by rfl, by rfl⟩,
    ⟨{ s0 with mod := { s0.mod with fabric := { s0.mod.fabric with reports := [(15, ⟨1535, 0x20, .fabric, false⟩)] } } }, tPart, ?_⟩,
    ⟨{ s0 with mod := { s0.mod with
        requests := [⟨0, 15, 3, 1, 7, false, 0, 0, 1, [], 15, none, 0, 0, false⟩],
        partners := [⟨0, 7, 1, 0, .present, 0, 0, 0, 0, 0, 0, [], 0, 0, 0⟩] } }, tPart,
      ⟨0, 15, 3, 1, 7, false, 0, 0, 1, [], 15, none, 0, 0, false⟩, ?_⟩,
    ⟨s0, tPart, ?_⟩⟩
  · decide +kernel
  · decide +kernel
  · decide +kernel
  · decide +kernel
  · decide +kernel
  · decide +kernel
  · decide +kernel

/-- A check reserve entry captured. -/
def tCheck : CheckEntry := ⟨4095, 0, 0, 1, 0, [0], 1, none, 0, [0], 0, 0, 1, 0⟩
/-- A packet header: corridor bit, destination. -/
def tHeader (corridor dest : Nat) : Header := BitVec.ofNat _ (corridor * 2 ^ 13 + dest * 2 ^ 32)
/-- A packet at the input of the last site. -/
def tFlight (port corridor dest : Nat) : Flight := ⟨1535, port, 7, ⟨tHeader corridor dest, [0]⟩⟩
/-- A state in which it waits. -/
def tFly (f : Flight) (d : Option Nat) : State :=
  tMod tBase (fun m => updRouter { m with fabric := { m.fabric with flights := [f] } } 1535 (fun r => { r with redirect := d }))

/-- Witness for `ErrorWatchCommands`. -/
theorem test_wit_ErrorWatchCommands :
    (∃ (i : SiteId) (s : State) (p : Nat) (e : CheckEntry), partAtSite s.mod i.val = some p ∧
        (siteOf s.mod i.val).core.reserve.find? (fun e => !e.results.isEmpty) = some e ∧
        (regionAt s.mod (regionOf i.val)).fwRestart = false)
    ∧ (∃ (p : PartId) (s : State) (x : Part) (sc : Score) (rest : List Score) (e : LayerEntry) (l : LayerSt) (d : Nat),
        rmAlive s.mod = true ∧ partOf? s.mod p.val = some x ∧ x.scores = sc :: rest ∧ layerEntry x sc.layer = some e ∧
        mget? x.layers sc.layer = some l ∧ sc.gross = none ∧ sc.score = some d)
    ∧ (∃ (p : PartId) (s : State) (x : Part) (sc : Score) (rest : List Score) (e : LayerEntry) (l : LayerSt),
        rmAlive s.mod = true ∧ partOf? s.mod p.val = some x ∧ x.scores = sc :: rest ∧ layerEntry x sc.layer = some e ∧
        mget? x.layers sc.layer = some l ∧ sc.gross = none ∧ sc.score = none)
    ∧ (∃ (p : PartId) (s : State) (x : Part) (sc : Score) (rest : List Score) (e : LayerEntry) (l : LayerSt) (g : Nat),
        rmAlive s.mod = true ∧ partOf? s.mod p.val = some x ∧ x.scores = sc :: rest ∧ layerEntry x sc.layer = some e ∧
        mget? x.layers sc.layer = some l ∧ sc.gross = some g ∧ sc.score = none)
    ∧ (∃ (p : PartId) (s : State) (x : Part), rmAlive s.mod = true ∧ partOf? s.mod p.val = some x ∧ windowOver x = true)
    ∧ (∃ (p : PartId) (layer : Fin 4096) (s : State) (x : Part) (l : LayerSt), rmAlive s.mod = true ∧ partOf? s.mod p.val = some x ∧
        mget? x.layers layer.val = some l ∧ l.pending = true ∧ levelFree x l = true)
    ∧ (∃ (p : PartId) (layer : Fin 4096) (s : State) (x : Part) (l : LayerSt), rmAlive s.mod = true ∧ partOf? s.mod p.val = some x ∧
        mget? x.layers layer.val = some l ∧ l.level = 3 ∧ max l.changeStep l.calmStep + 65536 ≤ x.stepCount) := by
  refine ⟨?_, ?_, ?_, ?_, ?_, ?_, ?_⟩
  · exact ⟨1535, tStateOf { tCore 0 with reserve := [tCheck] } tPart, 15, tCheck, by decide +kernel⟩
  · exact ⟨15, tWatch tLayer [⟨4095, 0, some 255, none, 1535, 1⟩] 0, tPartOf (tWatch tLayer [⟨4095, 0, some 255, none, 1535, 1⟩] 0), ⟨4095, 0, some 255, none, 1535, 1⟩, [], tEntry, tLayer, 255, by decide +kernel⟩
  · exact ⟨15, tWatch tLayer [⟨4095, 0, none, none, 1535, 1⟩] 0, tPartOf (tWatch tLayer [⟨4095, 0, none, none, 1535, 1⟩] 0), ⟨4095, 0, none, none, 1535, 1⟩, [], tEntry, tLayer, by decide +kernel⟩
  · exact ⟨15, tWatch tLayer [⟨4095, 0, none, some 65535, 1535, 1⟩] 0, tPartOf (tWatch tLayer [⟨4095, 0, none, some 65535, 1535, 1⟩] 0), ⟨4095, 0, none, some 65535, 1535, 1⟩, [], tEntry, tLayer, 65535, by decide +kernel⟩
  · exact ⟨15, tWatch tLayer [] 65, tPartOf (tWatch tLayer [] 65), by decide +kernel⟩
  · exact ⟨15, 4095, tWatch { tLayer with pending := true } [] 256, tPartOf (tWatch { tLayer with pending := true } [] 256), { tLayer with pending := true }, by decide +kernel⟩
  · exact ⟨15, 4095, tWatch { tLayer with level := 3 } [] 65536, tPartOf (tWatch { tLayer with level := 3 } [] 65536), { tLayer with level := 3 }, by decide +kernel⟩

/-- Witness for `MemoryMaintenance`. -/
theorem test_wit_MemoryMaintenance :
    (∃ (i : SiteId) (s : State), (siteOf s.mod i.val).slice.state = .ready)
    ∧ (∃ (i : SiteId) (s : State) (u : Nat) (us : List Nat), (siteOf s.mod i.val).slice.state = .ready ∧
        (siteOf s.mod i.val).slice.scrubQ = u :: us)
    ∧ (∃ (i : SiteId) (ch : RegionId) (b : Fin 8) (s : State) (rc : RowCopy), (bankOf (siteOf s.mod i.val).slice (8 * ch.val + b.val)).copying = some rc)
    ∧ (∃ (i : SiteId) (ch : RegionId) (b : Fin 8) (s : State), (siteOf s.mod i.val).slice.state = .ready ∧
        (let due := (bankOf (siteOf s.mod i.val).slice (8 * ch.val + b.val)).counters.filter (fun p => (regionAt s.mod (regionOf i.val)).trThreshold ≤ p.2);
        due ≠ []))
    ∧ (∃ (i : SiteId) (lo hi : Fin 256) (s : State) (hot : Bool), slicePowered (siteOf s.mod i.val).slice = true ∧
        hot = (if 85 < max lo.val hi.val then true else if max lo.val hi.val < 82 then false else (siteOf s.mod i.val).slice.hot)) := by
  refine ⟨?_, ?_, ?_, ?_, ?_⟩
  · exact ⟨1535, tBase, by decide +kernel⟩
  · exact ⟨1535, tSlice (fun x => { x with scrubQ := [16777215] }), 16777215, [], by decide +kernel⟩
  · exact ⟨1535, 63, 7, tSlice (fun x => { x with banks := [(511, { Bank.reset with copying := some ⟨2047, 0⟩ })] }), ⟨2047, 0⟩, by decide +kernel⟩
  · exact ⟨1535, 63, 7, tSlice (fun x => { x with banks := [(511, { Bank.reset with counters := [(2068, 4096)] })] }), by decide +kernel⟩
  · exact ⟨1535, 85, 86, tBase, true, by decide +kernel⟩

/-- Witness for `Fabric`. -/
theorem test_wit_Fabric :
    (∃ (i : SiteId) (port : Fin 5) (slot : Fin 8) (fixed : Nat) (bad : List (Fin 33 × BitVec 144)) (s : State) (f : Flight),
      s.mod.fabric.flights.find? (fun f => f.site = i.val && f.port = port.val && f.slot = slot.val) = some f ∧
      outputsFree s.mod i.val port.val f.pkt = true ∧
      (let hits := bad.filter (fun b => b.1.val < packetFlits f.pkt)
       hits.any (fun b => b.1.val = 0) = true) ∧ fixed = 65535)
    ∧ (∃ (i : SiteId) (port : Fin 5) (slot : Fin 8) (bad : List (Fin 33 × BitVec 144)) (s : State) (f : Flight),
      s.mod.fabric.flights.find? (fun f => f.site = i.val && f.port = port.val && f.slot = slot.val) = some f ∧
      outputsFree s.mod i.val port.val f.pkt = true ∧
      (let hits := bad.filter (fun b => b.1.val < packetFlits f.pkt)
       hits.any (fun b => b.1.val = 0) = false ∧ 6 ≤ hKind f.pkt.header))
    ∧ (∃ (i : SiteId) (port : Fin 5) (slot : Fin 8) (bad : List (Fin 33 × BitVec 144)) (s : State) (f : Flight),
      s.mod.fabric.flights.find? (fun f => f.site = i.val && f.port = port.val && f.slot = slot.val) = some f ∧
      outputsFree s.mod i.val port.val f.pkt = true ∧
      (let hits := bad.filter (fun b => b.1.val < packetFlits f.pkt)
       let pkt := poisonFlits f.pkt hits
       hits.any (fun b => b.1.val = 0) = false ∧ hKind f.pkt.header < 6 ∧ hCorridor pkt.header = true ∧ hDest pkt.header = i.val))
    ∧ (∃ (i : SiteId) (port : Fin 5) (slot : Fin 8) (bad : List (Fin 33 × BitVec 144)) (s : State) (f : Flight),
      s.mod.fabric.flights.find? (fun f => f.site = i.val && f.port = port.val && f.slot = slot.val) = some f ∧
      outputsFree s.mod i.val port.val f.pkt = true ∧
      (let hits := bad.filter (fun b => b.1.val < packetFlits f.pkt)
       let pkt := poisonFlits f.pkt hits
       hits.any (fun b => b.1.val = 0) = false ∧ hKind f.pkt.header < 6 ∧ hCorridor pkt.header = true ∧ hDest pkt.header ≠ i.val))
    ∧ (∃ (i : SiteId) (port : Fin 5) (slot : Fin 8) (fixed : Nat) (bad : List (Fin 33 × BitVec 144)) (s : State) (f : Flight),
      s.mod.fabric.flights.find? (fun f => f.site = i.val && f.port = port.val && f.slot = slot.val) = some f ∧
      outputsFree s.mod i.val port.val f.pkt = true ∧
      (let hits := bad.filter (fun b => b.1.val < packetFlits f.pkt)
       let m2 := updRouter { s.mod with fabric := { s.mod.fabric with flights := s.mod.fabric.flights.erase f } } i.val
         (fun r => { r with flitCE := sat32 (r.flitCE + fixed), flitUE := sat32 (r.flitUE + hits.length) })
       let m := if hits.isEmpty then m2 else fabFlag m2 (regionOf i.val) 0
       let pkt := poisonFlits f.pkt hits
       hits.any (fun b => b.1.val = 0) = false ∧ hKind f.pkt.header < 6 ∧ hCorridor pkt.header = false ∧
       (port.val ≠ 4 ∨ (siteOf m i.val).router.redirect = none ∨ partAtSite m i.val = none)))
    ∧ (∃ (i : SiteId) (port : Fin 5) (slot : Fin 8) (fixed : Nat) (bad : List (Fin 33 × BitVec 144)) (s : State) (f : Flight) (d q : _),
      s.mod.fabric.flights.find? (fun f => f.site = i.val && f.port = port.val && f.slot = slot.val) = some f ∧
      outputsFree s.mod i.val port.val f.pkt = true ∧
      (let hits := bad.filter (fun b => b.1.val < packetFlits f.pkt)
       let m2 := updRouter { s.mod with fabric := { s.mod.fabric with flights := s.mod.fabric.flights.erase f } } i.val
         (fun r => { r with flitCE := sat32 (r.flitCE + fixed), flitUE := sat32 (r.flitUE + hits.length) })
       let m := if hits.isEmpty then m2 else fabFlag m2 (regionOf i.val) 0
       let pkt := poisonFlits f.pkt hits
       hits.any (fun b => b.1.val = 0) = false ∧ hKind f.pkt.header < 6 ∧ hCorridor pkt.header = false ∧ port.val = 4 ∧
       (siteOf m i.val).router.redirect = some d ∧ partAtSite m i.val = some q))
    ∧ (∃ (i : SiteId) (s : State) (a : Ack), s.mod.fabric.acks.find? (fun a => a.src = i.val && ackFree s.mod a) = some a)
    ∧ (∃ (p : PartId) (i : SiteId) (s : State) (x : Part), partOf? s.mod p.val = some x ∧
        x.draining.contains i.val = true ∧ oldFlits s.mod i.val (fun f => hPart f.pkt.header == p.val) = 0 ∧
        x.draining.filter (fun t => t != i.val) ≠ [])
    ∧ (∃ (p : PartId) (i : SiteId) (s : State) (x : Part), partOf? s.mod p.val = some x ∧
        x.draining.contains i.val = true ∧ oldFlits s.mod i.val (fun f => hPart f.pkt.header == p.val) = 0 ∧
        x.draining.filter (fun t => t != i.val) = [])
    ∧ (∃ (s : State), s.mod.fabric.seamDown = false)
    ∧ (∃ (s : State), s.mod.fabric.seamDown = true ∧ s.mod.pwr.seamOn = 3 ∧ s.mod.clk.fclkWLock = true ∧
        s.mod.clk.fclkELock = true ∧ s.mod.clk.sclkLock = true)
    ∧ (∃ (l : Fin 2992) (s : State), l.val ∉ s.mod.fabric.linkDown ∧ l.val ∉ s.mod.fabric.linkDead)
    ∧ (∃ (l : Fin 2992) (s : State), l.val ∈ s.mod.fabric.linkDown) := by
  refine ⟨?_, ?_, ?_, ?_, ?_, ?_, ?_, ?_, ?_, ?_, ?_, ?_, ?_⟩
  · exact ⟨1535, 4, 7, 65535, [(0, 1)], tFly (tFlight 4 0 0) none, tFlight 4 0 0, by decide +kernel⟩
  · exact ⟨1535, 4, 7, [], tFly (tFlight 4 12 0) none, tFlight 4 12 0, by decide +kernel⟩
  · exact ⟨1535, 4, 7, [], tFly (tFlight 4 1 1535) none, tFlight 4 1 1535, by decide +kernel⟩
  · exact ⟨1535, 0, 7, [(32, 1)], tFly (tFlight 0 1 0) none, tFlight 0 1 0, by decide +kernel⟩
  · exact ⟨1535, 3, 7, 0, [(1, 1)], tFly (tFlight 3 0 0) (some 0), tFlight 3 0 0, by decide +kernel⟩
  · exact ⟨1535, 4, 7, 0, [], tFly (tFlight 4 0 0) (some 0), tFlight 4 0 0, 0, 15, by decide +kernel⟩
  · exact ⟨1535, tMod tBase (fun m => { m with fabric := { m.fabric with acks := [⟨1535, 65535, 1500, 0⟩] } }), ⟨1535, 65535, 1500, 0⟩, by decide +kernel⟩
  · exact ⟨15, 1535, tPartly (fun x => { x with draining := [0, 1535] }), { tPart with draining := [0, 1535] }, by decide +kernel⟩
  · exact ⟨15, 1535, tPartly (fun x => { x with draining := [1535] }), { tPart with draining := [1535] }, by decide +kernel⟩
  · exact ⟨tBase, by decide +kernel⟩
  · exact ⟨tMod tBase (fun m => { m with fabric := { m.fabric with seamDown := true }, pwr := { m.pwr with seamOn := 3 }, clk := { m.clk with fclkWLock := true, fclkELock := true, sclkLock := true } }), by decide +kernel⟩
  · exact ⟨2991, tBase, by decide +kernel⟩
  · exact ⟨2991, tMod tBase (fun m => { m with fabric := { m.fabric with linkDown := [2991] } }), by decide +kernel⟩

/-- The child of a fork. -/
def tForked (st : SeqState) (seed : Nat) : Machine.Seq :=
  { tSeq with state := st, samp := { tSeq.samp with block := putFld (tSeq.samp.block) 0 64 seed } }

/-- Witness for `SequenceOpens`. -/
theorem test_wit_SequenceOpens :
    (∃ (r : RingRef) (e : SqEntry) (h : HostSide) (s : State) (m : Mod) (c : Cmd) (p : Nat) (x : Part) (pl : Plan) (tab : SMap Word) (v slot : Nat), Taken r e h 0x01 s m c ∧
        OnPart m r p x ∧ x.plan = some pl ∧ planStopped x = false ∧ bit e.args 104 = false ∧
        entryClean e false true false [(0, 64), (64, 32), (96, 3), (104, 1), (112, 16), (128, 8), (144, 16)] = true ∧
        areaOk m x (argN e 0 8) (argN e 8 4) = true ∧ 256 ≤ e.len0.toNat ∧
        rejected (hostOf m (ringHost m r)) e.addr0.toNat 256 = false ∧
        (let b : BitVec 2048 := BitVec.ofNat 2048 (leNat (hostRead (hostOf m (ringHost m r)) e.addr0.toNat 256));
        (let n := 4 * sStops b + 8 * sBiases b; blockOk b false = true ∧ (n = 0 ∨ sListAddr b % 8 = 0 ∧
        rejected (hostOf m (ringHost m r)) (sListAddr b) n = false) ∧
        listsTable b (hostRead (hostOf m (ringHost m r)) (sListAddr b) n) = some tab ∧
        bindCheck x pl (argN e 14 2) (argN e 16 1) (argN e 18 2) false = .ok v ∧ freeSlot x = some slot)))
    ∧ (∃ (r : RingRef) (e : SqEntry) (h : HostSide) (s : State) (m : Mod) (c : Cmd) (p : Nat) (x : Part) (pl : Plan) (v : Nat) (g : Part × BitVec 32), Taken r e h 0x01 s m c ∧
        OnPart m r p x ∧ x.plan = some pl ∧ planStopped x = false ∧ bit e.args 104 = true ∧
        entryClean e false true false [(0, 64), (64, 32), (96, 3), (104, 1), (112, 16), (128, 8), (144, 16)] = true ∧
        areaOk m x (argN e 0 8) (argN e 8 4) = true ∧ fld e.args 96 3 = 0 ∧ argN e 14 6 = 0 ∧ 128 ≤ e.len0.toNat ∧
        recordLen (hostOf m (ringHost m r)) e ≤ e.len0.toNat ∧
        rejected (hostOf m (ringHost m r)) e.addr0.toNat e.len0.toNat = false ∧
        (let bs := hostRead (hostOf m (ringHost m r)) e.addr0.toNat e.len0.toNat;
        (let q := recordSeq bs (argN e 0 8) (argN e 8 4) v m.time;
        recordOk (bs.take (leAt bs 8 8)) (recordSampler bs).1 (recordSampler bs).2 = true ∧
        leAt bs 28 1 = pl.cacheFormat ∧ (bs.drop 64).take 32 = pairDigest pl ∧
        leAt bs 32 4 = (if pl.pairs.isEmpty then 0 else cdiv (leAt bs 20 4) 256) ∧
        bindCheck x pl (leAt bs 56 2) (leAt bs 60 1) (leAt bs 58 2) true = .ok v ∧
        pagesNamed x (BitVec.ofNat 32 (leAt bs 16 4)) (recordLeaves bs) = true ∧
        enterShared x (handleParity (BitVec.ofNat 32 (leAt bs 16 4))) q = some g))) := by
  refine ⟨?_, ?_⟩
  · exact ⟨tR, (tBuf 0x01 0 0 256), tSide, tAskS (tBuf 0x01 0 0 256) (fun x => { x with seqs := [tSeq] }), tAskM (tBuf 0x01 0 0 256) (fun x => { x with seqs := [tSeq] }), tCmd (tBuf 0x01 0 0 256), 15, tAsk (tBuf 0x01 0 0 256) (fun x => { x with seqs := [tSeq] }), tPlan, [], 0, 0, taken_ask (by decide +kernel), onPart_ask (by decide +kernel), by decide +kernel⟩
  · have hg : (enterShared (tAsk tRecE (fun x => { x with seqs := [tSeq] })) (handleParity 0)
        (newSeq 0 0 0 0 0 0 0 { block := 0, counter := 0, table := [], ring := [], fill := 0 } (tRecM tRec).time)).isSome = true := by
      decide +kernel
    obtain ⟨g, hg⟩ := Option.isSome_iff_exists.mp hg
    refine ⟨tR, tRecE, tSide, tRecS tRec, tRecM tRec, tCmd tRecE, 15, tAsk tRecE (fun x => { x with seqs := [tSeq] }), tPlan, 0, g, tRec_taken,
      onPart_ask (by decide +kernel), rfl, by decide +kernel, by decide, by decide +kernel, by decide +kernel, by decide, by decide,
      by decide, ?_, ?_, ?_⟩
    · rw [tRec_host.2]
      exact le_of_eq (by rw [tRec_len]; rfl)
    · rw [tRec_host.2]; decide +kernel
    · rw [tRec_host.2, show tRecE.addr0.toNat = 4096 by decide, show tRecE.len0.toNat = 328064 by decide, tRec_read]
      have h8 : leAt tRec 8 8 = 328064 := by rw [tRec_head (by omega)]; decide +kernel
      have hd : (tRec.drop 64).take 32 = pairDigest tPlan := by
        unfold tRec
        rw [List.drop_append_of_le_length (by rw [tRecHead_length]; omega),
          List.take_append_of_le_length (by rw [List.length_drop, tRecHead_length]; omega)]
        decide +kernel
      simp only [h8, show argN tRecE 0 8 = 0 by decide, show argN tRecE 8 4 = 0 by decide, tRec_seq, tRec_leaves, tRec_sampler, hd]
      rw [List.take_of_length_le (by rw [tRec_length]), tRec_head (by omega), tRec_head (by omega), tRec_head (by omega),
        tRec_head (by omega), tRec_head (by omega), tRec_head (by omega), tRec_head (by omega), show leAt tRecHead 28 1 = 1 by decide +kernel,
        show leAt tRecHead 32 4 = 0 by decide +kernel,
        show leAt tRecHead 56 2 = 0 by decide +kernel, show leAt tRecHead 60 1 = 0 by decide +kernel,
        show leAt tRecHead 58 2 = 0 by decide +kernel, show leAt tRecHead 16 4 = 0 by decide +kernel]
      exact ⟨tRec_ok, rfl, trivial, rfl, by decide +kernel, rfl, hg⟩

/-- Witness for `SequenceRuns`. -/
theorem test_wit_SequenceRuns :
    (∃ (r : RingRef) (e : SqEntry) (h : HostSide) (s : State) (m : Mod) (c : Cmd) (p : Nat) (x : Part) (q : Seq), Taken r e h 0x02 s m c ∧
        OnSeq m r p x q c ∧ x.frame0 ≠ .faulted ∧ takesSteps q = true ∧ entryClean e true true false [] = true ∧
        4 ≤ e.len0.toNat ∧ e.len0.toNat ≤ 2 ^ 26 ∧ e.len0.toNat % 4 = 0 ∧
        rejected (hostOf m (ringHost m r)) e.addr0.toNat e.len0.toNat = false ∧
        (let toks := (List.range (e.len0.toNat / 4)).map (fun k => BitVec.ofNat 32 (leNat (hostRead (hostOf m (ringHost m r)) (e.addr0.toNat + 4 * k) 4)));
        badToken (toks.headD 0) = false))
    ∧ (∃ (r : RingRef) (e : SqEntry) (h : HostSide) (s : State) (m : Mod) (c : Cmd) (p : Nat) (x : Part) (q : Seq), Taken r e h 0x03 s m c ∧
        OnSeq m r p x q c ∧ x.frame0 ≠ .faulted ∧ takesSteps q = true ∧
        entryClean e true true false [(0, 32), (32, 16)] = true ∧ 0 < maxTokens e ∧ maxTokens e ≤ 2 ^ 24 ∧
        8 + 4 * maxTokens e ≤ e.len0.toNat)
    ∧ (∃ (r : RingRef) (e : SqEntry) (h : HostSide) (s : State) (m : Mod) (c : Cmd) (p : Nat) (x : Part) (q : Seq),
        OnPart m r p x ∧ seqOf? x c.entry.handle = some q ∧ x.frame0 = .faulted ∧ Taken r e h 0x02 s m c ∧
        entryClean e true true false [] = true ∧ 4 ≤ e.len0.toNat ∧ e.len0.toNat ≤ 2 ^ 26 ∧ e.len0.toNat % 4 = 0)
    ∧ (∃ (r : RingRef) (e : SqEntry) (h : HostSide) (s : State) (m : Mod) (c : Cmd) (p : Nat) (x : Part) (q : Seq),
        OnPart m r p x ∧ seqOf? x c.entry.handle = some q ∧ x.frame0 = .faulted ∧ Taken r e h 0x03 s m c ∧
        entryClean e true true false [(0, 32), (32, 16)] = true ∧ 0 < maxTokens e ∧ maxTokens e ≤ 2 ^ 24 ∧
        8 + 4 * maxTokens e ≤ e.len0.toNat)
    ∧ (∃ (r : RingRef) (e : SqEntry) (h : HostSide) (s : State) (m : Mod) (c : Cmd), Taken r e h 0x03 s m c ∧
        entryClean e true true false [(0, 32), (32, 16)] = true ∧ 0 < maxTokens e ∧ maxTokens e ≤ 2 ^ 24 ∧
        e.len0.toNat < 8 + 4 * maxTokens e) := by
  refine ⟨?_, ?_, ?_, ?_, ?_⟩
  · exact ⟨tR, (tBuf 0x02 1 0 4), tSide, tAskS (tBuf 0x02 1 0 4) (fun x => { x with seqs := [tSeq] }), tAskM (tBuf 0x02 1 0 4) (fun x => { x with seqs := [tSeq] }), tCmd (tBuf 0x02 1 0 4), 15, tAsk (tBuf 0x02 1 0 4) (fun x => { x with seqs := [tSeq] }), tSeq, taken_ask (by decide +kernel), onSeq_ask (by decide +kernel), by decide +kernel⟩
  · exact ⟨tR, (tBuf 0x03 1 1 12), tSide, tAskS (tBuf 0x03 1 1 12) (fun x => { x with seqs := [tSeq] }), tAskM (tBuf 0x03 1 1 12) (fun x => { x with seqs := [tSeq] }), tCmd (tBuf 0x03 1 1 12), 15, tAsk (tBuf 0x03 1 1 12) (fun x => { x with seqs := [tSeq] }), tSeq, taken_ask (by decide +kernel), onSeq_ask (by decide +kernel), by decide +kernel⟩
  · exact ⟨tR, (tBuf 0x02 1 0 4), tSide, tAskS (tBuf 0x02 1 0 4) (fun x => { x with seqs := [tSeq], frame0 := .faulted }), tAskM (tBuf 0x02 1 0 4) (fun x => { x with seqs := [tSeq], frame0 := .faulted }), tCmd (tBuf 0x02 1 0 4), 15, tAsk (tBuf 0x02 1 0 4) (fun x => { x with seqs := [tSeq], frame0 := .faulted }), tSeq, onPart_ask (by decide +kernel), by decide +kernel, by decide +kernel, taken_ask (by decide +kernel), by decide +kernel⟩
  · exact ⟨tR, (tBuf 0x03 1 1 12), tSide, tAskS (tBuf 0x03 1 1 12) (fun x => { x with seqs := [tSeq], frame0 := .faulted }), tAskM (tBuf 0x03 1 1 12) (fun x => { x with seqs := [tSeq], frame0 := .faulted }), tCmd (tBuf 0x03 1 1 12), 15, tAsk (tBuf 0x03 1 1 12) (fun x => { x with seqs := [tSeq], frame0 := .faulted }), tSeq, onPart_ask (by decide +kernel), by decide +kernel, by decide +kernel, taken_ask (by decide +kernel), by decide +kernel⟩
  · exact ⟨tR, tBuf 0x03 1 1 11, tSide, tAskS (tBuf 0x03 1 1 11) id, tAskM (tBuf 0x03 1 1 11) id, tCmd (tBuf 0x03 1 1 11), taken_ask (by decide +kernel), by decide +kernel⟩

/-- Witness for `SequenceStates`. -/
theorem test_wit_SequenceStates :
    (∃ (r : RingRef) (e : SqEntry) (h : HostSide) (s : State) (m : Mod) (c : Cmd) (p : Nat) (x : Part) (q : Seq), Taken r e h 0x04 s m c ∧
        OnSeq m r p x q c ∧ planStopped x = false ∧ entryClean e true false false [] = true ∧ x.inStep = false ∧
        (q.state = .opened ∨ q.state = .active))
    ∧ (∃ (r : RingRef) (e : SqEntry) (h : HostSide) (s : State) (m : Mod) (c : Cmd) (p : Nat) (x : Part) (q : Seq), Taken r e h 0x05 s m c ∧
        OnSeq m r p x q c ∧ planStopped x = false ∧ entryClean e true false false [] = true ∧ x.inStep = false ∧
        q.state = .paused)
    ∧ (∃ (r : RingRef) (e : SqEntry) (h : HostSide) (s : State) (m : Mod) (c : Cmd) (p : Nat) (x : Part) (q : Seq), Taken r e h 0x0A s m c ∧
        OnSeq m r p x q c ∧ entryClean e true false false [] = true ∧ (x.inStep = false ∨ stepStopped x = true ∧
        ((memberNow x q.handle).isNone = true ∨ x.repair.isSome = true)))
    ∧ (∃ (r : RingRef) (e : SqEntry) (h : HostSide) (s : State) (m : Mod) (c : Cmd) (p : Nat) (x : Part) (q : Seq), OnSeq m r p x q c ∧
        planStopped x = false ∧ entryClean e true false false [] = true ∧ x.inStep = true ∧ Taken r e h 0x04 s m c)
    ∧ (∃ (r : RingRef) (e : SqEntry) (h : HostSide) (s : State) (m : Mod) (c : Cmd) (p : Nat) (x : Part) (q : Seq), OnSeq m r p x q c ∧
        planStopped x = false ∧ entryClean e true false false [] = true ∧ x.inStep = true ∧ Taken r e h 0x05 s m c) := by
  refine ⟨?_, ?_, ?_, ?_, ?_⟩
  · exact ⟨tR, (tEnt 0x04 1 0), tSide, tAskS (tEnt 0x04 1 0) (fun x => { x with seqs := [tSeq] }), tAskM (tEnt 0x04 1 0) (fun x => { x with seqs := [tSeq] }), tCmd (tEnt 0x04 1 0), 15, tAsk (tEnt 0x04 1 0) (fun x => { x with seqs := [tSeq] }), tSeq, taken_ask (by decide +kernel), onSeq_ask (by decide +kernel), by decide +kernel⟩
  · exact ⟨tR, (tEnt 0x05 1 0), tSide, tAskS (tEnt 0x05 1 0) (fun x => { x with seqs := [{ tSeq with state := .paused }] }), tAskM (tEnt 0x05 1 0) (fun x => { x with seqs := [{ tSeq with state := .paused }] }), tCmd (tEnt 0x05 1 0), 15, tAsk (tEnt 0x05 1 0) (fun x => { x with seqs := [{ tSeq with state := .paused }] }), { tSeq with state := .paused }, taken_ask (by decide +kernel), onSeq_ask (by decide +kernel), by decide +kernel⟩
  · exact ⟨tR, (tEnt 0x0A 1 0), tSide, tAskS (tEnt 0x0A 1 0) (fun x => { x with seqs := [tSeq], frame0 := .faulted }), tAskM (tEnt 0x0A 1 0) (fun x => { x with seqs := [tSeq], frame0 := .faulted }), tCmd (tEnt 0x0A 1 0), 15, tAsk (tEnt 0x0A 1 0) (fun x => { x with seqs := [tSeq], frame0 := .faulted }), tSeq, taken_ask (by decide +kernel), onSeq_ask (by decide +kernel), by decide +kernel⟩
  · exact ⟨tR, (tEnt 0x04 1 0), tSide, tAskS (tEnt 0x04 1 0) (fun x => { x with seqs := [tSeq], inStep := true }), tAskM (tEnt 0x04 1 0) (fun x => { x with seqs := [tSeq], inStep := true }), tCmd (tEnt 0x04 1 0), 15, tAsk (tEnt 0x04 1 0) (fun x => { x with seqs := [tSeq], inStep := true }), tSeq, onSeq_ask (by decide +kernel), by decide +kernel, by decide +kernel, by decide +kernel, taken_ask (by decide +kernel)⟩
  · exact ⟨tR, (tEnt 0x05 1 0), tSide, tAskS (tEnt 0x05 1 0) (fun x => { x with seqs := [{ tSeq with state := .paused }], inStep := true }), tAskM (tEnt 0x05 1 0) (fun x => { x with seqs := [{ tSeq with state := .paused }], inStep := true }), tCmd (tEnt 0x05 1 0), 15, tAsk (tEnt 0x05 1 0) (fun x => { x with seqs := [{ tSeq with state := .paused }], inStep := true }), { tSeq with state := .paused }, onSeq_ask (by decide +kernel), by decide +kernel, by decide +kernel, by decide +kernel, taken_ask (by decide +kernel)⟩

/-- Witness for `SequenceParking`. -/
theorem test_wit_SequenceParking :
    (∃ (r : RingRef) (e : SqEntry) (h : HostSide) (s : State) (m : Mod) (c : Cmd) (p : Nat) (x : Part) (q : Seq), Taken r e h 0x06 s m c ∧
        OnSeq m r p x q c ∧ planStopped x = false ∧ entryClean e true false false [(0, 64), (64, 32)] = true ∧
        (q.state = .opened ∨ q.state = .paused) ∧ (let keep := argN e 0 8 = 0 ∧ argN e 8 4 = 0;
        (let pages := if keep then q.storePages else argN e 8 4; (keep ∨ argN e 0 8 ≠ 0 ∧ argN e 8 4 ≠ 0 ∧
        storeAreaOk m x (argN e 0 8) = true) ∧ pages ≠ 0 ∧ seqPages x q ≤ pages)))
    ∧ (∃ (r : RingRef) (e : SqEntry) (h : HostSide) (s : State) (m : Mod) (c : Cmd) (p : Nat) (x : Part) (q : Seq), Taken r e h 0x07 s m c ∧
        OnSeq m r p x q c ∧ planStopped x = false ∧ entryClean e true false false [] = true ∧
        (q.state = .parked ∨ q.state = .lost) ∧ (let z := if q.state = .lost then salvage x q else (x, q);
        storedLeaves z.2 ≤ freePages x))
    ∧ (∃ (r : RingRef) (e : SqEntry) (h : HostSide) (s : State) (m : Mod) (c : Cmd) (p : Nat) (x : Part) (q : Seq) (pl : Plan), Taken r e h 0x0B s m c ∧
        OnSeq m r p x q c ∧ entryClean e true true false [(0, 1)] = true ∧ (x.inStep = false ∨ stepStopped x = true) ∧
        (takesSteps q = true ∨ q.state = .parked) ∧ x.plan = some pl ∧ recordSize (seqPages x q) ≤ e.len0.toNat ∧
        (let t : Snap := { ring := r, cid := e.cid, seq := q, code := seqCode q.state, time := m.time, copies := (List.range (seqPages x q)).map (copyOf x q), held := [] };
        (bit e.args 0 = false ∨ q.storePages ≠ 0 ∨ t.copies.any (fun c => c.isNone) = false))) := by
  refine ⟨?_, ?_, ?_⟩
  · exact ⟨tR, (tEnt 0x06 1 0), tSide, tAskS (tEnt 0x06 1 0) (fun x => { x with seqs := [{ tSeq with storeBase := 0xFFF0000000000000, storePages := 1 }] }), tAskM (tEnt 0x06 1 0) (fun x => { x with seqs := [{ tSeq with storeBase := 0xFFF0000000000000, storePages := 1 }] }), tCmd (tEnt 0x06 1 0), 15, tAsk (tEnt 0x06 1 0) (fun x => { x with seqs := [{ tSeq with storeBase := 0xFFF0000000000000, storePages := 1 }] }), { tSeq with storeBase := 0xFFF0000000000000, storePages := 1 }, taken_ask (by decide +kernel), onSeq_ask (by decide +kernel), by decide +kernel⟩
  · exact ⟨tR, (tEnt 0x07 1 0), tSide, tAskS (tEnt 0x07 1 0) (fun x => { x with seqs := [{ tSeq with state := .lost }] }), tAskM (tEnt 0x07 1 0) (fun x => { x with seqs := [{ tSeq with state := .lost }] }), tCmd (tEnt 0x07 1 0), 15, tAsk (tEnt 0x07 1 0) (fun x => { x with seqs := [{ tSeq with state := .lost }] }), { tSeq with state := .lost }, taken_ask (by decide +kernel), onSeq_ask (by decide +kernel), by decide +kernel⟩
  · exact ⟨tR, (tBuf 0x0B 1 1 400000), tSide, tAskS (tBuf 0x0B 1 1 400000) (fun x => { x with seqs := [tSeq] }), tAskM (tBuf 0x0B 1 1 400000) (fun x => { x with seqs := [tSeq] }), tCmd (tBuf 0x0B 1 1 400000), 15, tAsk (tBuf 0x0B 1 1 400000) (fun x => { x with seqs := [tSeq] }), tSeq, tPlan, taken_ask (by decide +kernel), onSeq_ask (by decide +kernel), by decide +kernel⟩

/-- Witness for `ForkSeeds`. -/
theorem test_wit_ForkSeeds :
    (∃ (r : RingRef) (e : SqEntry) (h : HostSide) (s : State) (m : Mod) (c : Cmd) (p : Nat) (x : Part) (q : Seq) (g : Part × BitVec 32), Taken r e h 0x08 s m c ∧
        OnSeq m r p x q c ∧ planStopped x = false ∧
        entryClean e true false false [(0, 8), (64, 64), (128, 64), (192, 32)] = true ∧ argN e 0 1 ≤ 2 ∧
        (argN e 0 1 = 0 → argN e 8 8 = 0) ∧ areaOk m x (argN e 16 8) (argN e 24 4) = true ∧ x.inStep = false ∧
        (takesSteps q = true ∨ q.state = .parked) ∧
        (let seed := if argN e 0 1 = 0 then sSeed q.samp.block else if argN e 0 1 = 1 then argN e 8 8 else argN e 8 8 ^^^ sSeed q.samp.block;
        enterShared x (handleParity q.handle) { q with state := if q.state = .parked then .parked else .opened, pending := [], hold := false, holdTarget := false, storeBase := argN e 16 8, storePages := argN e 24 4, leafTables := [], leaves := q.leaves.take (seqPages x q), pausedBefore := false, written := false, tableReady := true, samp := { q.samp with block := putFld q.samp.block 0 64 seed } } = some g))
    ∧ (∃ (r : RingRef) (e : SqEntry) (h : HostSide) (s : State) (m : Mod) (c : Cmd) (p : Nat) (x : Part) (q : Seq) (g : Part × BitVec 32), Taken r e h 0x08 s m c ∧
        OnSeq m r p x q c ∧ planStopped x = false ∧
        entryClean e true false false [(0, 8), (64, 64), (128, 64), (192, 32)] = true ∧ argN e 0 1 ≤ 2 ∧
        (argN e 0 1 = 0 → argN e 8 8 = 0) ∧ areaOk m x (argN e 16 8) (argN e 24 4) = true ∧ x.inStep = false ∧
        (takesSteps q = true ∨ q.state = .parked) ∧
        (let seed := if argN e 0 1 = 0 then sSeed q.samp.block else if argN e 0 1 = 1 then argN e 8 8 else argN e 8 8 ^^^ sSeed q.samp.block;
        enterShared x (handleParity q.handle) { q with state := if q.state = .parked then .parked else .opened, pending := [], hold := false, holdTarget := false, storeBase := argN e 16 8, storePages := argN e 24 4, leafTables := [], leaves := q.leaves.take (seqPages x q), pausedBefore := false, written := false, tableReady := true, samp := { q.samp with block := putFld q.samp.block 0 64 seed } } = some g))
    ∧ (∃ (r : RingRef) (e : SqEntry) (h : HostSide) (s : State) (m : Mod) (c : Cmd), Taken r e h 0x08 s m c ∧
        (2 < argN e 0 1 ∨ argN e 0 1 = 0 ∧ argN e 8 8 ≠ 0)) := by
  refine ⟨?_, ?_, ?_⟩
  · exact ⟨tR, (tEnt 0x08 1 0), tSide, tAskS (tEnt 0x08 1 0) (fun x => { x with seqs := [tSeq] }), tAskM (tEnt 0x08 1 0) (fun x => { x with seqs := [tSeq] }), tCmd (tEnt 0x08 1 0), 15, tAsk (tEnt 0x08 1 0) (fun x => { x with seqs := [tSeq] }), tSeq, (enterShared (tAsk (tEnt 0x08 1 0) (fun x => { x with seqs := [tSeq] })) 1 (tForked .opened 0)).getD (tPart, 0), taken_ask (by decide +kernel), onSeq_ask (by decide +kernel), by decide +kernel⟩
  · exact ⟨tR, (tEnt 0x08 1 340282366920938463444927863358058659842), tSide, tAskS (tEnt 0x08 1 340282366920938463444927863358058659842) (fun x => { x with seqs := [{ tSeq with state := .parked }] }), tAskM (tEnt 0x08 1 340282366920938463444927863358058659842) (fun x => { x with seqs := [{ tSeq with state := .parked }] }), tCmd (tEnt 0x08 1 340282366920938463444927863358058659842), 15, tAsk (tEnt 0x08 1 340282366920938463444927863358058659842) (fun x => { x with seqs := [{ tSeq with state := .parked }] }), { tSeq with state := .parked }, (enterShared (tAsk (tEnt 0x08 1 340282366920938463444927863358058659842) (fun x => { x with seqs := [{ tSeq with state := .parked }] })) 1 (tForked .parked 18446744073709551615)).getD (tPart, 0), taken_ask (by decide +kernel), onSeq_ask (by decide +kernel), by decide +kernel⟩
  · exact ⟨tR, tEnt 0x08 1 3, tSide, tAskS (tEnt 0x08 1 3) id, tAskM (tEnt 0x08 1 3) id, tCmd (tEnt 0x08 1 3), taken_ask (by decide +kernel), by decide +kernel⟩

/-- Witness for `SequenceTruncate`. -/
theorem test_wit_SequenceTruncate :
    (∃ (r : RingRef) (e : SqEntry) (h : HostSide) (s : State) (m : Mod) (c : Cmd) (p : Nat) (x : Part) (q : Seq), Taken r e h 0x09 s m c ∧
        OnSeq m r p x q c ∧ planStopped x = false ∧
        entryClean e true false false [(0, 8), (8, 1), (32, 32), (64, 32), (96, 32)] = true ∧ x.inStep = false ∧
        (q.state = .opened ∨ q.state = .paused ∨ q.state = .parked) ∧ argN e 0 1 = 0 ∧ bit e.args 8 = false ∧
        argN e 8 4 = 0 ∧ argN e 12 4 = 0 ∧ argN e 4 4 ≤ q.length)
    ∧ (∃ (r : RingRef) (e : SqEntry) (h : HostSide) (s : State) (m : Mod) (c : Cmd) (p : Nat) (x : Part) (q : Seq), Taken r e h 0x09 s m c ∧
        OnSeq m r p x q c ∧ planStopped x = false ∧
        entryClean e true false false [(0, 8), (8, 1), (32, 32), (64, 32), (96, 32)] = true ∧ x.inStep = false ∧
        (q.state = .opened ∨ q.state = .paused ∨ q.state = .parked) ∧ argN e 0 1 = 1 ∧ argN e 4 4 = 0 ∧
        argN e 8 4 ≤ argN e 12 4 ∧ (bit e.args 8 = true → argN e 8 4 = 0 ∧ q.posOffset + 256 * argN e 12 4 < 2 ^ 31) ∧
        256 * argN e 12 4 ≤ q.length) := by
  refine ⟨?_, ?_⟩
  · exact ⟨tR, (tEnt 0x09 1 0), tSide, tAskS (tEnt 0x09 1 0) (fun x => { x with seqs := [tSeq] }), tAskM (tEnt 0x09 1 0) (fun x => { x with seqs := [tSeq] }), tCmd (tEnt 0x09 1 0), 15, tAsk (tEnt 0x09 1 0) (fun x => { x with seqs := [tSeq] }), tSeq, taken_ask (by decide +kernel), onSeq_ask (by decide +kernel), by decide +kernel⟩
  · exact ⟨tR, (tEnt 0x09 1 0x101), tSide, tAskS (tEnt 0x09 1 0x101) (fun x => { x with seqs := [tSeq] }), tAskM (tEnt 0x09 1 0x101) (fun x => { x with seqs := [tSeq] }), tCmd (tEnt 0x09 1 0x101), 15, tAsk (tEnt 0x09 1 0x101) (fun x => { x with seqs := [tSeq] }), tSeq, taken_ask (by decide +kernel), onSeq_ask (by decide +kernel), by decide +kernel⟩

/-- The store record of a page of a plan without cache cores. -/
def tPageRec : List Byte :=
  tBytes 32 [(0, 4, 0x52475041), (6, 1, 1), (20, 4, 65535), (24, 4, (crc32c []).toNat)] ++ pairDigest tPlan
/-- A partition whose SEQ_UNPARK waits for it. -/
def tUnparks (x : Part) : Part :=
  { x with storeReads := [⟨1, 0, ⟨0, 65535, 0, 0⟩, 1⟩],
           pairs := [(63, { tPair (tEnt 7 1 0) with cmds := [{ tCmd (tEnt 7 1 0) with phase := .running }] })] }

/-- Witness for `StoresWalksEpoch`. -/
theorem test_wit_StoresWalksEpoch :
    (∃ (p : PartId) (s : State) (x : Part) (w : StoreWrite) (rest : List StoreWrite), partOf? s.mod p.val = some x ∧
        s.mod.requests.any (fun q => q.part = p.val && q.write && q.cls = 2) = false ∧ x.storeWrites = w :: rest ∧
        w.purpose = 1)
    ∧ (∃ (p : PartId) (bs : List Byte) (s : State) (x : Part) (pl : Plan) (t : StoreRead) (rest : List StoreRead) (f : Packed)
        (r : RingRef) (c : Cmd), partOf? s.mod p.val = some x ∧
        s.mod.requests.any (fun q => q.part = p.val && !q.write && q.cls = 2) = false ∧ x.storeReads = t :: rest ∧
        x.plan = some pl ∧ recordVerifies pl bs = true ∧ recordFits pl t.copy bs = true ∧
        packedOf pl.cacheFormat = some f ∧ runningOf p.val x 7 t.handle = some (r, c))
    ∧ (∃ (p : PartId) (failed : Bool) (bs : List Byte) (s : State) (x : Part) (pl : Plan) (t : StoreRead) (rest : List StoreRead), partOf? s.mod p.val = some x ∧
        s.mod.requests.any (fun q => q.part = p.val && !q.write && q.cls = 2) = false ∧ x.storeReads = t :: rest ∧
        x.plan = some pl ∧ (failed = true ∨ recordVerifies pl bs = false) ∧ t.tries < 2)
    ∧ (∃ (p : PartId) (failed : Bool) (bs : List Byte) (s : State) (x : Part) (pl : Plan) (t : StoreRead) (rest : List StoreRead), partOf? s.mod p.val = some x ∧
        s.mod.requests.any (fun q => q.part = p.val && !q.write && q.cls = 2) = false ∧ x.storeReads = t :: rest ∧
        x.plan = some pl ∧ (failed = true ∨ recordVerifies pl bs = false) ∧ 2 ≤ t.tries)
    ∧ (∃ (p : PartId) (s : State) (x : Part) (q : Seq) (h : BitVec 32) (page reason site : Nat) (rest : List (BitVec 32 × Nat × Nat × Nat)), partOf? s.mod p.val = some x ∧
        x.maskReports = (h, page, reason, site) :: rest ∧ seqOf? x h = some q ∧ q.state ≠ .lost)
    ∧ (∃ (p : PartId) (s : State) (x : Part), partOf? s.mod p.val = some x ∧ x.inStep = false ∧ x.plan.isSome = true) := by
  refine ⟨?_, ?_, ?_, ?_, ?_, ?_⟩
  · exact ⟨15, tPartly (fun x => { x with storeWrites := [⟨1, 1, 0, 0, 0, 0, 0, 256, false⟩] }), tPartOf (tPartly (fun x => { x with storeWrites := [⟨1, 1, 0, 0, 0, 0, 0, 256, false⟩] })), ⟨1, 1, 0, 0, 0, 0, 0, 256, false⟩, [], by decide +kernel⟩
  · exact ⟨15, tPageRec, tPartly tUnparks, tPartOf (tPartly tUnparks), tPlan, ⟨1, 0, ⟨0, 65535, 0, 0⟩, 1⟩, [], tFp4, tR,
      { tCmd (tEnt 7 1 0) with phase := .running }, by decide +kernel⟩
  · exact ⟨15, true, [], tPartly (fun x => { x with storeReads := [⟨1, 0, ⟨0, 0, 0, 0⟩, 1⟩] }), tPartOf (tPartly (fun x => { x with storeReads := [⟨1, 0, ⟨0, 0, 0, 0⟩, 1⟩] })), tPlan, ⟨1, 0, ⟨0, 0, 0, 0⟩, 1⟩, [], by decide +kernel⟩
  · exact ⟨15, true, [], tPartly (fun x => { x with storeReads := [⟨1, 0, ⟨0, 0, 0, 0⟩, 2⟩] }), tPartOf (tPartly (fun x => { x with storeReads := [⟨1, 0, ⟨0, 0, 0, 0⟩, 2⟩] })), tPlan, ⟨1, 0, ⟨0, 0, 0, 0⟩, 2⟩, [], by decide +kernel⟩
  · exact ⟨15, tPartly (fun x => { x with maskReports := [(1, 16383, 2, 1535)], seqs := [tSeq] }), tPartOf (tPartly (fun x => { x with maskReports := [(1, 16383, 2, 1535)], seqs := [tSeq] })), tSeq, 1, 16383, 2, 1535, [], by decide +kernel⟩
  · exact ⟨15, tPartly (fun x => { x with inStep := false }), tPartOf (tPartly (fun x => { x with inStep := false })), by decide +kernel⟩

/-- An adapter image of one matrix without blocks. -/
def tAdapterImage : List Byte :=
  let t := tBytes 16 [(0, 1, 255), (8, 8, 80)]
  tBytes 64 [(0, 4, 0x44415041), (4, 2, 0x0100), (6, 2, 1), (8, 8, 80), (48, 4, (crc32c t).toNat)] ++ t
/-- ADAPTER_LOAD of it. -/
def tLoadE : SqEntry := { tEnt 0x10 0 0xFFFF0000 with addr0 := 4096, len0 := 80 }
/-- The state that holds it. -/
def tLoadS : State := tMem (tAskS tLoadE id) 0 4096 tAdapterImage
/-- An adapter version. -/
def tVersion : Adapter := ⟨0, 65535, false, false, 0, 0, [], [], true, none⟩
/-- PLAN_LOAD of an empty image. -/
def tEmptyE : SqEntry := { tEnt 0x20 0 0 with addr0 := 4096, addr1 := 8192, len1 := 64 }
/-- A load that awaits one chunk of one line. -/
def tLoad (tries : Nat) : Load :=
  { ring := tR, cid := 7, plan := { tPlan with chunks := [⟨0, 0, false, 0, 0, 1, 128, crc32c (leBytes 72 0)⟩] }, next := 0,
    tries := tries, addr1 := 0, headerDue := false, winSec := 0, undo := [] }
/-- The command an ABORT names: a MODE_SET that has not begun. -/
def tTarget : SqEntry := { tEnt 0x18 0 0 with cid := 9 }
/-- The ABORT. -/
def tAbortE : SqEntry := tEnt 0x1F 0 (63 + 9 * 65536)
/-- The partition with both. -/
def tAbortX (op : BitVec 8) : Part :=
  tAsk tAbortE (fun x => { x with pairs := [(63, { tPair tAbortE with cmds := [tCmd { tTarget with opcode := op }, tCmd tAbortE] })] })
/-- The partition with a FRAME_CONTROL that waits for the boundary and its ABORT, in a step. -/
def tAbortW : Part :=
  { tAsk tAbortE (fun x => { x with pairs := [(63, { tPair tAbortE with
      cmds := [{ tCmd { tTarget with opcode := 0x1A } with phase := .waiting }, tCmd tAbortE] })] }) with inStep := true }
/-- The state with both. -/
def tAbortS (op : BitVec 8) : State := tLive (tStateOf (tCore 0) (tAbortX op))

/-- Witness for `AdapterCommands`. -/
theorem test_wit_AdapterCommands :
    (∃ (r : RingRef) (e : SqEntry) (h : HostSide) (s : State) (m : Mod) (c : Cmd) (p : Nat) (x : Part) (pl : Plan), Taken r e h 0x10 s m c ∧
        OnPart m r p x ∧ x.plan = some pl ∧ planStopped x = false ∧
        entryClean e false true false [(0, 16), (16, 16)] = true ∧ argN e 0 2 < pl.maxAdapters ∧
        rejected (hostOf m (ringHost m r)) e.addr0.toNat e.len0.toNat = false ∧
        (let bs := hostRead (hostOf m (ringHost m r)) e.addr0.toNat e.len0.toNat; imageOk pl bs = true ∧
        x.adapters.any (fun a => a.id = argN e 0 2 && a.version = argN e 2 2) = false ∧
        (x.adapters.filter (fun a => a.id = argN e 0 2)).length < 8 ∧ adapterRoom x pl (imageBlocks bs) = true))
    ∧ (∃ (r : RingRef) (e : SqEntry) (h : HostSide) (s : State) (m : Mod) (c : Cmd) (p : Nat) (x : Part) (pl : Plan) (a : Adapter), Taken r e h 0x11 s m c ∧
        OnPart m r p x ∧ x.plan = some pl ∧ planStopped x = false ∧
        entryClean e false false false [(0, 16), (16, 16)] = true ∧ argN e 0 2 < pl.maxAdapters ∧
        x.adapters.find? (fun a => a.id = argN e 0 2 && a.version = argN e 2 2 && !a.retiring && !a.loading) = some a) := by
  refine ⟨?_, ?_⟩
  · exact ⟨tR, tLoadE, tSide, tLoadS, tSideM (tLoadS) (tR), tCmd (tLoadE), 15, tAsk tLoadE id, tPlan, taken_on (by decide +kernel), onPart_ask (by decide +kernel), by decide +kernel⟩
  · exact ⟨tR, (tEnt 0x11 0 0xFFFF0000), tSide, tAskS (tEnt 0x11 0 0xFFFF0000) (fun x => { x with adapters := [tVersion] }), tAskM (tEnt 0x11 0 0xFFFF0000) (fun x => { x with adapters := [tVersion] }), tCmd (tEnt 0x11 0 0xFFFF0000), 15, tAsk (tEnt 0x11 0 0xFFFF0000) (fun x => { x with adapters := [tVersion] }), tPlan, tVersion, taken_ask (by decide +kernel), onPart_ask (by decide +kernel), by decide +kernel⟩

/-- Witness for `ModeLimitsQuery`. -/
theorem test_wit_ModeLimitsQuery :
    (∃ (r : RingRef) (e : SqEntry) (h : HostSide) (s : State) (m : Mod) (c : Cmd) (p : Nat) (x : Part), Taken r e h 0x18 s m c ∧
        OnPart m r p x ∧ entryClean e false false false [(0, 8)] = true ∧ modeWaits m p x c = false ∧
        modeCode x.mode = argN e 0 1)
    ∧ (∃ (r : RingRef) (e : SqEntry) (h : HostSide) (s : State) (m : Mod) (c : Cmd) (p : Nat) (x : Part), Taken r e h 0x18 s m c ∧
        OnPart m r p x ∧ entryClean e false false false [(0, 8)] = true ∧ modeWaits m p x c = false ∧ argN e 0 1 ≤ 3 ∧
        modeCode x.mode ≠ argN e 0 1 ∧ bit (configModes x.config) (argN e 0 1) = true ∧
        bit x.modesCap (argN e 0 1) = true ∧ x.repair = none)
    ∧ (∃ (hs : HostId) (e : SqEntry) (h : HostSide) (s : State) (m : Mod) (c : Cmd), Taken (.admin hs) e h 0x44 s m c ∧
        entryClean e false true false [(0, 4), (16, 16), (32, 16)] = true ∧ capsOk (argN e 2 2) (argN e 4 2) = true ∧
        256 ≤ e.len0.toNat ∧ m.limits = none ∧ modesFit m (BitVec.ofNat 4 (argN e 0 1)) = true)
    ∧ (∃ (r : RingRef) (e : SqEntry) (h : HostSide) (s : State) (m : Mod) (c : Cmd) (p : Nat) (x : Part) (rs : List (List Byte)), Taken r e h 0x19 s m c ∧
        OnPart m r p x ∧ entryClean e false true false [(0, 8), (32, 32), (64, 32)] = true ∧
        queryRecords m p x (argN e 0 1) (argN e 4 4) = some rs)
    ∧ (∃ (hs : HostId) (e : SqEntry) (h : HostSide) (s : State) (m : Mod) (c : Cmd) (x : Part) (rs : List (List Byte)), Taken (.admin hs) e h 0x19 s m c ∧
        entryClean e false true false [(0, 8), (32, 32), (64, 32), (96, 4)] = true ∧
        (argN e 0 1 = 1 ∨ argN e 0 1 = 2 ∨ argN e 0 1 = 6) ∧ partOf? m (argN e 12 1) = some x ∧
        queryRecords m (argN e 12 1) x (argN e 0 1) (argN e 4 4) = some rs) := by
  refine ⟨?_, ?_, ?_, ?_, ?_⟩
  · exact ⟨tR, (tEnt 0x18 0 0), tSide, tAskS (tEnt 0x18 0 0) id, tAskM (tEnt 0x18 0 0) id, tCmd (tEnt 0x18 0 0), 15, tAsk (tEnt 0x18 0 0) id, taken_ask (by decide +kernel), onPart_ask (by decide +kernel), by decide +kernel⟩
  · exact ⟨tR, (tEnt 0x18 0 3), tSide, tAskS (tEnt 0x18 0 3) (fun x => { x with config := BitVec.ofNat 1024 (15 * 2 ^ 128) }), tAskM (tEnt 0x18 0 3) (fun x => { x with config := BitVec.ofNat 1024 (15 * 2 ^ 128) }), tCmd (tEnt 0x18 0 3), 15, tAsk (tEnt 0x18 0 3) (fun x => { x with config := BitVec.ofNat 1024 (15 * 2 ^ 128) }), taken_ask (by decide +kernel), onPart_ask (by decide +kernel), by decide +kernel⟩
  · exact ⟨3, (tBuf 0x44 0 (15 + 1200 * 2 ^ 16 + 300 * 2 ^ 32) 256), tSide, tAdm (tBuf 0x44 0 (15 + 1200 * 2 ^ 16 + 300 * 2 ^ 32) 256) id, tAdmM (tBuf 0x44 0 (15 + 1200 * 2 ^ 16 + 300 * 2 ^ 32) 256) id, tCmd (tBuf 0x44 0 (15 + 1200 * 2 ^ 16 + 300 * 2 ^ 32) 256), taken_adm (by decide +kernel), by decide +kernel⟩
  · exact ⟨tR, (tBuf 0x19 0 8 64), tSide, tAskS (tBuf 0x19 0 8 64) id, tAskM (tBuf 0x19 0 8 64) id, tCmd (tBuf 0x19 0 8 64), 15, tAsk (tBuf 0x19 0 8 64) id, [], taken_ask (by decide +kernel), onPart_ask (by decide +kernel), by decide +kernel⟩
  · exact ⟨3, tBuf 0x19 0 (6 + 15 * 2 ^ 96) 64, tSide, tAdm (tBuf 0x19 0 (6 + 15 * 2 ^ 96) 64) id, tAdmM (tBuf 0x19 0 (6 + 15 * 2 ^ 96) 64) id,
      tCmd (tBuf 0x19 0 (6 + 15 * 2 ^ 96) 64), tPart, _, taken_adm (by decide +kernel), by decide +kernel, by decide +kernel, by decide +kernel, rfl⟩

/-- Witness for `FramesAndAbort`. -/
theorem test_wit_FramesAndAbort :
    (∃ (r : RingRef) (e : SqEntry) (h : HostSide) (s : State) (m : Mod) (c : Cmd) (p : Nat) (x : Part), Taken r e h 0x1A s m c ∧
        OnPart m r p x ∧ argN e 0 1 = 0 ∧ entryClean e false false false [(0, 8), (16, 16)] = true ∧
        argN e 2 2 < frameCount x ∧ argN e 2 2 = 0 ∧ x.frame0 = .idle ∧ x.plan.isSome = true)
    ∧ (∃ (r : RingRef) (e : SqEntry) (h : HostSide) (s : State) (m : Mod) (c : Cmd) (p : Nat) (x : Part), Taken r e h 0x1A s m c ∧
        OnPart m r p x ∧ argN e 0 1 = 1 ∧ entryClean e false false false [(0, 8), (16, 16)] = true ∧
        argN e 2 2 < frameCount x)
    ∧ (∃ (r : RingRef) (e : SqEntry) (h : HostSide) (s : State) (m : Mod) (c : Cmd) (p : Nat) (x : Part), Taken r e h 0x1A s m c ∧
        OnPart m r p x ∧ argN e 0 1 = 2 ∧ entryClean e false false false [(0, 8), (16, 16)] = true ∧
        argN e 2 2 < frameCount x ∧ (x.frame0 = .faulted → x.faultPlan = false ∧ x.faultLink = false))
    ∧ (∃ (t : PartId) (k : Fin 64) (e : SqEntry) (h : HostSide) (s : State) (m : Mod) (c d : Cmd) (x : Part) (m1 : _), Taken (.part t k) e h 0x1F s m c ∧
        entryClean e false false false [(0, 6), (16, 16)] = true ∧ partOf? m t.val = some x ∧
        cmdOf? m (.part t (Fin.ofNat 64 (argN e 0 1))) (BitVec.ofNat 16 (argN e 2 2)) = some d ∧ d.entry.opcode ≠ 0x1F ∧
        d.phase ≠ .completed ∧ abortTarget m t.val x (.part t (Fin.ofNat 64 (argN e 0 1))) d = .stop m1 ∧ x.repair = none)
    ∧ (∃ (t : PartId) (k : Fin 64) (e : SqEntry) (h : HostSide) (s : State) (m : Mod) (c d : Cmd) (x : Part), Taken (.part t k) e h 0x1F s m c ∧
        entryClean e false false false [(0, 6), (16, 16)] = true ∧ partOf? m t.val = some x ∧
        cmdOf? m (.part t (Fin.ofNat 64 (argN e 0 1))) (BitVec.ofNat 16 (argN e 2 2)) = some d ∧ d.entry.opcode ≠ 0x1F ∧
        d.phase ≠ .completed ∧ abortTarget m t.val x (.part t (Fin.ofNat 64 (argN e 0 1))) d = .wait)
    ∧ (∃ (t : PartId) (k : Fin 64) (e : SqEntry) (h : HostSide) (s : State) (m : Mod) (c d : Cmd) (x : Part), Taken (.part t k) e h 0x1F s m c ∧
        entryClean e false false false [(0, 6), (16, 16)] = true ∧ partOf? m t.val = some x ∧
        cmdOf? m (.part t (Fin.ofNat 64 (argN e 0 1))) (BitVec.ofNat 16 (argN e 2 2)) = some d ∧ d.entry.opcode ≠ 0x1F ∧
        d.phase ≠ .completed ∧ abortTarget m t.val x (.part t (Fin.ofNat 64 (argN e 0 1))) d = .fixed) := by
  refine ⟨?_, ?_, ?_, ?_, ?_, ?_⟩
  · exact ⟨tR, (tEnt 0x1A 0 0), tSide, tAskS (tEnt 0x1A 0 0) (fun x => { x with frame0 := .idle }), tAskM (tEnt 0x1A 0 0) (fun x => { x with frame0 := .idle }), tCmd (tEnt 0x1A 0 0), 15, tAsk (tEnt 0x1A 0 0) (fun x => { x with frame0 := .idle }), taken_ask (by decide +kernel), onPart_ask (by decide +kernel), by decide +kernel⟩
  · exact ⟨tR, (tEnt 0x1A 0 1), tSide, tAskS (tEnt 0x1A 0 1) id, tAskM (tEnt 0x1A 0 1) id, tCmd (tEnt 0x1A 0 1), 15, tAsk (tEnt 0x1A 0 1) id, taken_ask (by decide +kernel), onPart_ask (by decide +kernel), by decide +kernel⟩
  · exact ⟨tR, (tEnt 0x1A 0 2), tSide, tAskS (tEnt 0x1A 0 2) (fun x => { x with frame0 := .faulted }), tAskM (tEnt 0x1A 0 2) (fun x => { x with frame0 := .faulted }), tCmd (tEnt 0x1A 0 2), 15, tAsk (tEnt 0x1A 0 2) (fun x => { x with frame0 := .faulted }), taken_ask (by decide +kernel), onPart_ask (by decide +kernel), by decide +kernel⟩
  · exact ⟨15, 63, tAbortE, tSide, tAbortS 0x18, tSideM (tAbortS 0x18) tR, tCmd tAbortE, tCmd tTarget, tAbortX 0x18,
      completeS (tSideM (tAbortS 0x18) tR) tR 9 .aborted, taken_on (by decide +kernel), by decide +kernel, by decide +kernel, by decide +kernel,
      by decide, by decide, rfl, rfl⟩
  · exact ⟨15, 63, tAbortE, tSide, tLive (tStateOf (tCore 0) tAbortW), tSideM (tLive (tStateOf (tCore 0) tAbortW)) tR, tCmd tAbortE,
      { tCmd { tTarget with opcode := 0x1A } with phase := .waiting }, tAbortW,
      taken_on (by decide +kernel), by decide +kernel, by decide +kernel, by decide +kernel, by decide, by decide, rfl⟩
  · exact ⟨15, 63, tAbortE, tSide, tAbortS 0x19, tSideM (tAbortS 0x19) tR, tCmd tAbortE, tCmd { tTarget with opcode := 0x19 }, tAbortX 0x19,
      taken_on (by decide +kernel), by decide +kernel, by decide +kernel, by decide +kernel, by decide, by decide, rfl⟩

/-- Witness for `PlanCommands`. -/
theorem test_wit_PlanCommands :
    (∃ (r : RingRef) (e : SqEntry) (h : HostSide) (s : State) (m : Mod) (c : Cmd) (p : Nat) (x : Part), Taken r e h 0x20 s m c ∧ OnPart m r p x ∧
        entryClean e false true true [(0, 64), (64, 64), (128, 64), (192, 8), (200, 8)] = true ∧ argN e 24 1 ≤ 64 ∧
        argN e 25 1 ≤ 1 ∧ argN e 16 8 % 8 = 0 ∧ (argN e 25 1 = 0 → argN e 0 8 % 8 = 0) ∧ 64 ≤ e.len1.toNat ∧ (x.plan.isSome = true ∨ x.load.isSome = true))
    ∧ (∃ (r : RingRef) (e : SqEntry) (h : HostSide) (s : State) (m : Mod) (c : Cmd) (p : Nat) (x : Part) (why : _), Taken r e h 0x20 s m c ∧ OnPart m r p x ∧
        entryClean e false true true [(0, 64), (64, 64), (128, 64), (192, 8), (200, 8)] = true ∧ argN e 24 1 ≤ 64 ∧
        argN e 25 1 ≤ 1 ∧ argN e 16 8 % 8 = 0 ∧ (argN e 25 1 = 0 → argN e 0 8 % 8 = 0) ∧ 64 ≤ e.len1.toNat ∧ x.plan = none ∧ x.load = none ∧
        planBuffers (hostOf m (ringHost m r)) e = true ∧
        (let img := hostRead (hostOf m (ringHost m r)) e.addr0.toNat e.len0.toNat
         let vals := (List.range (argN e 24 1)).map (fun i => leNat (hostRead (hostOf m (ringHost m r)) (argN e 16 8 + 8 * i) 8))
         planChecks s.fuses m p x img e.len0.toNat vals = .error why))
    ∧ (∃ (r : RingRef) (e : SqEntry) (h : HostSide) (s : State) (m : Mod) (c : Cmd) (p : Nat) (x : Part), Taken r e h 0x20 s m c ∧ OnPart m r p x ∧
        entryClean e false true true [(0, 64), (64, 64), (128, 64), (192, 8), (200, 8)] = true ∧ argN e 24 1 ≤ 64 ∧
        argN e 25 1 ≤ 1 ∧ argN e 16 8 % 8 = 0 ∧ (argN e 25 1 = 0 → argN e 0 8 % 8 = 0) ∧ 64 ≤ e.len1.toNat ∧ x.plan = none ∧ x.load = none ∧
        planBuffers (hostOf m (ringHost m r)) e = true ∧
        (let img := hostRead (hostOf m (ringHost m r)) e.addr0.toNat e.len0.toNat
         let vals := (List.range (argN e 24 1)).map (fun i => leNat (hostRead (hostOf m (ringHost m r)) (argN e 16 8 + 8 * i) 8))
         let store : Bool := ((remoteNode m (argN e 0 8)).bind (partnerOf m)).any (fun q => q.role == 2)
         planChecks s.fuses m p x img e.len0.toNat vals = .ok () ∧ argN e 25 1 = 1 ∧ store = false))
    ∧ (∃ (r : RingRef) (e : SqEntry) (h : HostSide) (s : State) (m : Mod) (c : Cmd) (p : Nat) (x : Part), Taken r e h 0x20 s m c ∧ OnPart m r p x ∧
        entryClean e false true true [(0, 64), (64, 64), (128, 64), (192, 8), (200, 8)] = true ∧ argN e 24 1 ≤ 64 ∧
        argN e 25 1 ≤ 1 ∧ argN e 16 8 % 8 = 0 ∧ (argN e 25 1 = 0 → argN e 0 8 % 8 = 0) ∧ 64 ≤ e.len1.toNat ∧ x.plan = none ∧ x.load = none ∧
        planBuffers (hostOf m (ringHost m r)) e = true ∧
        (let img := hostRead (hostOf m (ringHost m r)) e.addr0.toNat e.len0.toNat
         let vals := (List.range (argN e 24 1)).map (fun i => leNat (hostRead (hostOf m (ringHost m r)) (argN e 16 8 + 8 * i) 8))
         let store : Bool := ((remoteNode m (argN e 0 8)).bind (partnerOf m)).any (fun q => q.role == 2)
         planChecks s.fuses m p x img e.len0.toNat vals = .ok () ∧ (argN e 25 1 = 0 ∨ store = true)))
    ∧ (∃ (r : RingRef) (e : SqEntry) (h : HostSide) (s : State) (m : Mod) (c : Cmd) (p : Nat) (x : Part), Taken r e h 0x20 s m c ∧ OnPart m r p x ∧
        entryClean e false true true [(0, 64), (64, 64), (128, 64), (192, 8), (200, 8)] = true ∧ argN e 24 1 ≤ 64 ∧
        argN e 25 1 ≤ 1 ∧ argN e 16 8 % 8 = 0 ∧ (argN e 25 1 = 0 → argN e 0 8 % 8 = 0) ∧ 64 ≤ e.len1.toNat ∧ x.plan = none ∧ x.load = none ∧
        planBuffers (hostOf m (ringHost m r)) e = true ∧
        (let img := hostRead (hostOf m (ringHost m r)) e.addr0.toNat e.len0.toNat
         let vals := (List.range (argN e 24 1)).map (fun i => leNat (hostRead (hostOf m (ringHost m r)) (argN e 16 8 + 8 * i) 8))
         let store : Bool := ((remoteNode m (argN e 0 8)).bind (partnerOf m)).any (fun q => q.role == 2)
         planChecks s.fuses m p x img e.len0.toNat vals = .ok () ∧ argN e 25 1 = 1 ∧ store = true))
    ∧ (∃ (p : PartId) (bs : List Byte) (failed : Bool) (s : State) (x : Part) (l : Load), partOf? s.mod p.val = some x ∧ x.load = some l ∧ l.headerDue = true ∧
        (l.plan.source = 1 → s.mod.requests.any (fun q => q.part = p.val && q.cls = 2 && !q.write) = false) ∧ bs = [] ∧ failed = false)
    ∧ (∃ (p : PartId) (bs : List Byte) (failed : Bool) (s : State) (x : Part) (l : Load) (k : Chunk) (site vc : _), partOf? s.mod p.val = some x ∧
        x.load = some l ∧ l.headerDue = false ∧ l.plan.chunks[l.next]? = some k ∧
        (l.plan.source = 1 → s.mod.requests.any (fun q => q.part = p.val && q.cls = 2 && !q.write) = false) ∧
        failed = false ∧ bs.length = 72 * k.lines ∧ crc32c bs = k.crc ∧ l.plan.sites[k.vcore]? = some site ∧
        l.plan.vcores[k.vcore]? = some vc)
    ∧ (∃ (p : PartId) (bs : List Byte) (failed : Bool) (s : State) (x : Part) (l : Load) (k : Chunk), partOf? s.mod p.val = some x ∧
        x.load = some l ∧ l.headerDue = false ∧ l.plan.chunks[l.next]? = some k ∧
        (l.plan.source = 1 → s.mod.requests.any (fun q => q.part = p.val && q.cls = 2 && !q.write) = false) ∧
        (failed = true ∨ bs.length ≠ 72 * k.lines ∨ crc32c bs ≠ k.crc) ∧ l.tries < 2)
    ∧ (∃ (p : PartId) (bs : List Byte) (failed : Bool) (s : State) (x : Part) (l : Load) (k : Chunk), partOf? s.mod p.val = some x ∧
        x.load = some l ∧ l.headerDue = false ∧ l.plan.chunks[l.next]? = some k ∧
        (l.plan.source = 1 → s.mod.requests.any (fun q => q.part = p.val && q.cls = 2 && !q.write) = false) ∧
        (failed = true ∨ bs.length ≠ 72 * k.lines ∨ crc32c bs ≠ k.crc) ∧ 2 ≤ l.tries)
    ∧ (∃ (r : RingRef) (e : SqEntry) (h : HostSide) (s : State) (m : Mod) (c : Cmd) (p : Nat) (x : Part), Taken r e h 0x21 s m c ∧ OnPart m r p x ∧ entryClean e false false false [] = true ∧ x.load.isSome = true)
    ∧ (∃ (r : RingRef) (e : SqEntry) (h : HostSide) (s : State) (m : Mod) (c : Cmd) (p : Nat) (x : Part), Taken r e h 0x21 s m c ∧ OnPart m r p x ∧ entryClean e false false false [] = true ∧ x.load = none ∧ x.plan.isSome = true ∧ unloadNow m x = true)
    ∧ (∃ (r : RingRef) (e : SqEntry) (h : HostSide) (s : State) (m : Mod) (c : Cmd) (p : Nat) (x : Part), Taken r e h 0x21 s m c ∧ OnPart m r p x ∧ entryClean e false false false [] = true ∧ x.load = none ∧ x.plan.isSome = true ∧ unloadNow m x = false)
    ∧ (∃ (r : RingRef) (e : SqEntry) (h : HostSide) (s : State) (m : Mod) (c : Cmd) (p : Nat) (x : Part), Taken r e h 0x21 s m c ∧ OnPart m r p x ∧ entryClean e false false false [] = true ∧ x.load = none ∧ x.plan = none) := by
  refine ⟨?_, ?_, ?_, ?_, ?_, ?_, ?_, ?_, ?_, ?_, ?_, ?_, ?_⟩
  · exact ⟨tR, tEmptyE, tSide, tAskS tEmptyE id, tAskM tEmptyE id, tCmd tEmptyE, 15, tAsk tEmptyE id, taken_ask (by decide +kernel), onPart_ask (by decide +kernel), by decide +kernel⟩
  · exact ⟨tR, tEmptyE, tSide, tAskS tEmptyE (fun x => { x with plan := none, load := none }), tAskM tEmptyE (fun x => { x with plan := none, load := none }), tCmd tEmptyE, 15, tAsk tEmptyE (fun x => { x with plan := none, load := none }), { refuse 0x01 0 256 0 with code := 1 }, taken_ask (by decide +kernel), onPart_ask (by decide +kernel), by decide +kernel⟩
  · have h := tImg_ready (2 ^ 200 + 7 * 2 ^ 56) [] (by decide +kernel) (by decide +kernel) (by decide +kernel) (by decide +kernel)
    exact ⟨tR, tImgE (2 ^ 200 + 7 * 2 ^ 56), tSide, tImgS (2 ^ 200 + 7 * 2 ^ 56) [], tImgM (2 ^ 200 + 7 * 2 ^ 56) [], tCmd (tImgE (2 ^ 200 + 7 * 2 ^ 56)), 15, tImgP (2 ^ 200 + 7 * 2 ^ 56), h.1, h.2.1, by decide +kernel,
      by decide, by decide, by decide, by decide, by decide, rfl, rfl, h.2.2.1, h.2.2.2, by decide +kernel, by decide +kernel⟩
  · have h := tImg_ready (0) [] (by decide +kernel) (by decide +kernel) (by decide +kernel) (by decide +kernel)
    exact ⟨tR, tImgE (0), tSide, tImgS (0) [], tImgM (0) [], tCmd (tImgE (0)), 15, tImgP (0), h.1, h.2.1, by decide +kernel,
      by decide, by decide, by decide, by decide, by decide, rfl, rfl, h.2.2.1, h.2.2.2, by decide +kernel⟩
  · have h := tImg_ready (2 ^ 200 + 7 * 2 ^ 56) [{ tPartner with role := 2 }] (by decide +kernel) (by decide +kernel) (by decide +kernel) (by decide +kernel)
    exact ⟨tR, tImgE (2 ^ 200 + 7 * 2 ^ 56), tSide, tImgS (2 ^ 200 + 7 * 2 ^ 56) [{ tPartner with role := 2 }], tImgM (2 ^ 200 + 7 * 2 ^ 56) [{ tPartner with role := 2 }], tCmd (tImgE (2 ^ 200 + 7 * 2 ^ 56)), 15, tImgP (2 ^ 200 + 7 * 2 ^ 56), h.1, h.2.1, by decide +kernel,
      by decide, by decide, by decide, by decide, by decide, rfl, rfl, h.2.2.1, h.2.2.2, by decide +kernel, by decide +kernel⟩
  · exact ⟨15, [], false, tPartly (fun x => { x with load := some ({ tLoad 0 with headerDue := true }) }), tPartOf (tPartly (fun x => { x with load := some ({ tLoad 0 with headerDue := true }) })), { tLoad 0 with headerDue := true }, by decide +kernel⟩
  · exact ⟨15, leBytes 72 0, false, tPartly (fun x => { x with load := some (tLoad 2) }), tPartOf (tPartly (fun x => { x with load := some (tLoad 2) })), tLoad 2, ⟨0, 0, false, 0, 0, 1, 128, crc32c (leBytes 72 0)⟩, 1535, ⟨[], [], [], [0, 0, 0, 0], 0, 0, 0, 0⟩, by decide +kernel⟩
  · exact ⟨15, leBytes 71 0, false, tPartly (fun x => { x with load := some (tLoad 1) }), tPartOf (tPartly (fun x => { x with load := some (tLoad 1) })), tLoad 1, ⟨0, 0, false, 0, 0, 1, 128, crc32c (leBytes 72 0)⟩, by decide +kernel⟩
  · exact ⟨15, leBytes 71 0, false, tPartly (fun x => { x with load := some (tLoad 2) }), tPartOf (tPartly (fun x => { x with load := some (tLoad 2) })), tLoad 2, ⟨0, 0, false, 0, 0, 1, 128, crc32c (leBytes 72 0)⟩, by decide +kernel⟩
  · exact ⟨tR, (tEnt 0x21 0 0), tSide, tAskS (tEnt 0x21 0 0) (fun x => { x with plan := none, load := some (tLoad 0) }), tAskM (tEnt 0x21 0 0) (fun x => { x with plan := none, load := some (tLoad 0) }), tCmd (tEnt 0x21 0 0), 15, tAsk (tEnt 0x21 0 0) (fun x => { x with plan := none, load := some (tLoad 0) }), taken_ask (by decide +kernel), onPart_ask (by decide +kernel), by decide +kernel⟩
  · exact ⟨tR, (tEnt 0x21 0 0), tSide, tAskS (tEnt 0x21 0 0) id, tAskM (tEnt 0x21 0 0) id, tCmd (tEnt 0x21 0 0), 15, tAsk (tEnt 0x21 0 0) id, taken_ask (by decide +kernel), onPart_ask (by decide +kernel), by decide +kernel⟩
  · exact ⟨tR, (tEnt 0x21 0 0), tSide, tAskS (tEnt 0x21 0 0) (fun x => { x with inStep := true }), tAskM (tEnt 0x21 0 0) (fun x => { x with inStep := true }), tCmd (tEnt 0x21 0 0), 15, tAsk (tEnt 0x21 0 0) (fun x => { x with inStep := true }), taken_ask (by decide +kernel), onPart_ask (by decide +kernel), by decide +kernel⟩
  · exact ⟨tR, (tEnt 0x21 0 0), tSide, tAskS (tEnt 0x21 0 0) (fun x => { x with plan := none, load := none }), tAskM (tEnt 0x21 0 0) (fun x => { x with plan := none, load := none }), tCmd (tEnt 0x21 0 0), 15, tAsk (tEnt 0x21 0 0) (fun x => { x with plan := none, load := none }), taken_ask (by decide +kernel), onPart_ask (by decide +kernel), by decide +kernel⟩

/-- Witness for `RingService`. -/
theorem test_wit_RingService :
    (∃ (r : RingRef) (v : BitVec 16) (s : State), ringLink s.mod r = true ∧
        (pairOf (glbClosed s.mod r) r).state = .active ∧ (let m := glbClosed s.mod r; (let p := pairOf m r;
        v.toNat < sqSize p ∧ ringDist (sqSize p) p.sqTail v.toNat ≤ sqSize p - 1 - ringDist (sqSize p) p.sqHead p.sqTail)))
    ∧ (∃ (r : RingRef) (v : BitVec 16) (s : State), ringLink s.mod r = true ∧
        (pairOf (glbClosed s.mod r) r).state = .active ∧ (let m := glbClosed s.mod r; (let p := pairOf m r;
        sqSize p ≤ v.toNat)))
    ∧ (∃ (r : RingRef) (v : BitVec 16) (s : State), ringLink s.mod r = true ∧
        (pairOf (glbClosed s.mod r) r).state = .active ∧ (let m := glbClosed s.mod r; (let p := pairOf m r;
        (let d := ringDist (cqSize p) p.cqHead v.toNat; v.toNat < cqSize p ∧ d ≤ ringDist (cqSize p) p.cqHead p.cqTail))))
    ∧ (∃ (r : RingRef) (v : BitVec 16) (s : State), ringLink s.mod r = true ∧
        (pairOf (glbClosed s.mod r) r).state = .active ∧ (let m := glbClosed s.mod r; (let p := pairOf m r;
        cqSize p ≤ v.toNat)))
    ∧ (∃ (r : RingRef) (h : HostSide) (s : State), (let m := applySide s.mod (ringHost s.mod r) h; (let p := pairOf m r;
        p.state = .active ∧ rmAlive m = true ∧ p.sqHead ≠ p.sqTail ∧ ringLink m r = true ∧ outstanding p < cqSize p - 1 ∧
        rejected (hostOf m (ringHost m r)) (p.sqBase.toNat + 64 * p.sqHead) 64 = false)))
    ∧ (∃ (r : RingRef) (h : HostSide) (s : State) (c : Completion) (rest : List Completion), (let m := applySide s.mod (ringHost s.mod r) h;
        (let p := pairOf m r; (let tail := (p.cqTail + 1) % cqSize p; p.outbox = c :: rest ∧ p.state = .active ∧
        pairHeld m r = false ∧ ringLink m r = true ∧ targetUnwritten m r c = false ∧ tail ≠ p.cqHead ∧
        rejected (hostOf m (ringHost m r)) (p.cqBase.toNat + 32 * p.cqTail) 32 = false))))
    ∧ (∃ (r : RingRef) (s : State), 0 < (pairOf s.mod r).unannounced) := by
  refine ⟨?_, ?_, ?_, ?_, ?_, ?_, ?_⟩
  · exact ⟨tA, 63, tLinked id, by decide +kernel⟩
  · exact ⟨tA, 64, tLinked id, by decide +kernel⟩
  · exact ⟨tA, 63, tLinked (fun p => { p with cqTail := 63 }), by decide +kernel⟩
  · exact ⟨tA, 64, tLinked id, by decide +kernel⟩
  · exact ⟨tA, tSide, tLinked (fun p => { p with sqTail := 1, sqHead := 0 }), by decide +kernel⟩
  · exact ⟨tA, tSide, tLinked (fun p => { p with outbox := [compl 65535 .ok] }), compl 65535 .ok, [], by decide +kernel⟩
  · exact ⟨tA, tLinked (fun p => { p with unannounced := 1 }), by decide +kernel⟩

/-- Witness for `RingAndSessionControl`. -/
theorem test_wit_RingAndSessionControl :
    (∃ (h : HostId) (p : PartId) (s : State) (x : Part), (hostOf s.mod h.val).linkUp = true ∧
        partOf? s.mod p.val = some x ∧ partHost x = h.val ∧ x.session = .idle)
    ∧ (∃ (h : HostId) (p : PartId) (s : State) (x : Part), (hostOf s.mod h.val).linkUp = true ∧
        partOf? s.mod p.val = some x ∧ partHost x = h.val ∧ x.session = .lost)
    ∧ (∃ (h : HostId) (p : PartId) (s : State) (x : Part), (hostOf s.mod h.val).linkUp = true ∧
        partOf? s.mod p.val = some x ∧ partHost x = h.val ∧ x.session = .active ∧
        x.pairs.all (fun q => !q.2.enable) = true)
    ∧ (∃ (h : HostId) (p : PartId) (side : HostSide) (s : State) (x : Part), (hostOf s.mod h.val).linkUp = true ∧
        partOf? (applySide s.mod h.val side) p.val = some x ∧ partHost x = h.val ∧ x.session = .reattach)
    ∧ (∃ (r : RingRef) (s : State), ringLink s.mod r = true ∧ (let m := glbClosed s.mod r; (let p := pairOf m r;
        p.enable = false ∧ mayEnable m r = true)))
    ∧ (∃ (r : RingRef) (s : State), ringLink s.mod r = true ∧ (pairOf (glbClosed s.mod r) r).enable = true) := by
  refine ⟨?_, ?_, ?_, ?_, ?_, ?_⟩
  · exact ⟨3, 15, tHostedS (fun x => { x with session := .idle }), tHosted (fun x => { x with session := .idle }), by decide +kernel⟩
  · exact ⟨3, 15, tHostedS (fun x => { x with session := .lost }), tHosted (fun x => { x with session := .lost }), by decide +kernel⟩
  · exact ⟨3, 15, tHostedS (fun x => { x with session := .active }), tHosted (fun x => { x with session := .active }), by decide +kernel⟩
  · exact ⟨3, 15, tSide, tHostedS (fun x => { x with session := .reattach }), tHosted (fun x => { x with session := .reattach }), by decide +kernel⟩
  · exact ⟨tA, tLinked (fun p => { p with enable := false }), by decide +kernel⟩
  · exact ⟨tA, tLinked id, by decide +kernel⟩

/-- Witness for `HostLinks`. -/
theorem test_wit_HostLinks :
    (∃ (h : HostId) (s : State), (hostOf s.mod h.val).linkUp = true)
    ∧ (∃ (fn : Fin 17), fn.val = 0)
    ∧ (∃ (h : HostId) (fn : Fin 17) (s : State) (x : _), fn.val ≠ 0 ∧
        partOf? (hostFlag s.mod h.val 5) (fn.val - 1) = some x ∧ partHost x = h.val)
    ∧ (∃ (h : HostId) (modules : BitVec 4) (s : State), modules &&& ~~~(hostOf s.mod h.val).disabled ≠ 0) := by
  refine ⟨?_, ?_, ?_, ?_⟩
  · exact ⟨3, tLinked id, by decide +kernel⟩
  · exact ⟨0, by decide +kernel⟩
  · exact ⟨3, 16, tHostedS (fun x => { x with session := .active }), tHosted (fun x => { x with session := .active }), by decide +kernel⟩
  · exact ⟨3, 15, tLinked id, by decide +kernel⟩

/-- The last link of the last group, with four links. -/
def tGate (y : PortGroup → PortGroup) (l : Link → Link) : State :=
  tLive (tMod tBase (fun m => updLink (updGroup { m with nodeId := 1 } 15 (fun z => y { z with
    bond := 2, bondInForce := 2, enable := true, domainOn := true, owner := some 15 })) 15 3 l))
/-- With the link up. -/
def tUp (f : Mod → Mod) : State := tMod (tGate id (fun l => { l with state := .up, mask := 0xF000 })) f
/-- A message header: operation, from node 7 to node 1, with a tag. -/
def tHead (op tag : Nat) : Header := BitVec.ofNat _ (op + 7 * 2 ^ 4 + 1 * 2 ^ 12 + tag * 2 ^ 20)
/-- A flit of no message with a number. -/
def tFlit (n : Nat) : BitVec 1280 :=
  BitVec.ofNat 1280 (n * 2 ^ 1170 + (crc32c (leBytes 156 (n * 2 ^ 1170))).toNat * 2 ^ 1248)
set_option maxRecDepth 100000 in
/-- Its check value is right. -/
theorem tFlit_ok : flitOk (tFlit 4095) = true := by decide +kernel
/-- A request of a window of the last site. -/
def tRequest (w : Bool) : Request := ⟨65535, 15, 3, 7, 7, w, 0, 0, 1, [], 15, some 1535, 255, 0, false⟩
/-- A core that waits for its reply. -/
def tAsking : Core := { tCore 0 with xfers := [⟨3, [], none, some 255, 0, 1, 63, 0, [], 16⟩] }
/-- The state in which the request is out. -/
def tAskedS (w : Bool) : State := tUp (fun m => updCore { m with requests := [tRequest w] } 1535 (fun _ => tAsking))
/-- A configuration record of the last region: MODES all, one permit, 400 MHz. -/
def tConfigBytes : List Byte :=
  tBytes 128 [(0, 4, 0x46435041), (4, 1, 1), (6, 1, 1), (15, 1, 0x80), (16, 1, 15), (18, 2, 1), (20, 2, 400)]
/-- PARTITION_CREATE of P15 with it. -/
def tCreateE : SqEntry := { tEnt 0x40 0 (15 + 3 * 2 ^ 8) with addr0 := 4096, len0 := 128 }
/-- The state in which it is asked: no partition yet, the region's core domain on. -/
def tCreateS : State :=
  tMem (tMod (tAdm tCreateE id) (fun m => updPower { m with parts := [], grade := 1 } 63 (fun y => { y with core := .on }))) 3 4096
    tConfigBytes
/-- A staged change not committed. -/
def tStaged : Staged := { kind := .ownCheck true, waiting := [63], beat := 0, committed := false, cmd := none, time := 0 }
/-- The `SEC` block unlocked. -/
def tSec (f : Sec → Sec) : State := tMod tBase (fun m => { m with sec := f { m.sec with unlocked := true, fwRollback := 255 } })
/-- The same with fuses. -/
def tFused (s : State) (f : Fuses → Fuses) : State := { s with fuses := f s.fuses }
/-- A repair. -/
def tRepair (aw : List Nat) : Repair := ⟨0x01, 1535, 1534, 63, 63, false, false, [], aw, 0⟩
/-- A chunk not yet refilled, at the only core. -/
def tRefillX : Part := { tPart with
  plan := some { tPlan with chunks := [⟨0, 0, false, 0, 0, 1, 128, crc32c (leBytes 72 0)⟩] }, refill := [(1535, 0)] }

/-- Witness for `OlixLinks`. -/
theorem test_wit_OlixLinks :
    (∃ (g : GroupId) (k : LinkId) (s : State), (linkAt s.mod g.val k.val).state = .retrain)
    ∧ (∃ (g : GroupId) (k : LinkId) (lanes : BitVec 16) (s : State), (let y := groupOf s.mod g.val;
        (let l := linkAt s.mod g.val k.val; (let all := linkLanes y.bondInForce k.val; y.enable = true ∧
        y.domainOn = true ∧ k.val < bondLinks y.bondInForce ∧ l.state ≠ .up ∧ lanes &&& all ≠ 0))))
    ∧ (∃ (g : GroupId) (lane : Fin 16) (bad : Nat) (s : State), (let k := lane.val / lanesPer (groupOf s.mod g.val).bondInForce;
        (let m1 := updLink s.mod g.val k (fun l => { l with fecUncorr := sat32 (l.fecUncorr + bad) });
        (let l := linkAt m1 g.val k; l.state = .up ∧ bit l.mask lane.val = true ∧ (bad = 0 ∨ 16 < bad)))))
    ∧ (∃ (g : GroupId) (k : LinkId) (f : BitVec 1280) (s : State), (linkAt s.mod g.val k.val).state = .up ∧
        flitOk f = false)
    ∧ (∃ (g : GroupId) (k : LinkId) (f : BitVec 1280) (s : State), (linkAt s.mod g.val k.val).state = .up ∧
        flitOk f = true ∧ bit f 1195 = false ∧ (let m1 := updLink s.mod g.val k.val (fun l => takeFlitAck f { l with rx := l.rx + 1 });
        (let l := linkAt m1 g.val k.val; (let n := fld f 1170 12; (let ahead := (n + 4096 - l.rxNext) % 4096; ahead = 0)))))
    ∧ (∃ (g : GroupId) (k : LinkId) (f : BitVec 1280) (s : State), (linkAt s.mod g.val k.val).state = .up ∧
        flitOk f = true ∧ bit f 1195 = false ∧ (let m1 := updLink s.mod g.val k.val (fun l => takeFlitAck f { l with rx := l.rx + 1 });
        (let l := linkAt m1 g.val k.val; (let n := fld f 1170 12; (let ahead := (n + 4096 - l.rxNext) % 4096; 
        0 < ahead ∧ ahead < 1024 ∧ l.early.any (fun e => e.1 = n) = false)))))
    ∧ (∃ (g : GroupId) (k : LinkId) (f : BitVec 1280) (s : State), (linkAt s.mod g.val k.val).state = .up ∧
        flitOk f = true ∧ bit f 1195 = false ∧ (let m1 := updLink s.mod g.val k.val (fun l => takeFlitAck f { l with rx := l.rx + 1 });
        (let l := linkAt m1 g.val k.val; (let n := fld f 1170 12; (let ahead := (n + 4096 - l.rxNext) % 4096; 1024 ≤ ahead))))) := by
  refine ⟨?_, ?_, ?_, ?_, ?_, ?_, ?_⟩
  · exact ⟨15, 3, tGate id (fun l => { l with state := .retrain }), by decide +kernel⟩
  · exact ⟨15, 3, 0x1000, tGate id id, by decide +kernel⟩
  · exact ⟨15, 15, 17, tUp id, by decide +kernel⟩
  · exact ⟨15, 3, 1, tUp id, by decide +kernel⟩
  · exact ⟨15, 3, tFlit 4095, tGate id (fun l => { l with state := .up, rxNext := 4095 }), by decide +kernel, tFlit_ok, by decide +kernel⟩
  · exact ⟨15, 3, tFlit 4095, tGate id (fun l => { l with state := .up, rxNext := 3072 }), by decide +kernel, tFlit_ok, by decide +kernel⟩
  · exact ⟨15, 3, tFlit 4095, tGate id (fun l => { l with state := .up, rxNext := 3071 }), by decide +kernel, tFlit_ok, by decide +kernel⟩

/-- Witness for `OlixGroups`. -/
theorem test_wit_OlixGroups :
    (∃ (g : GroupId) (s : State), (groupOf s.mod g.val).enable = false ∧ (groupOf s.mod g.val).owner = none)
    ∧ (∃ (g : GroupId) (s : State), (groupOf s.mod g.val).enable = true) := by
  refine ⟨?_, ?_⟩
  · exact ⟨15, tGate (fun y => { y with enable := false, owner := none }) id, by decide +kernel⟩
  · exact ⟨15, tUp id, by decide +kernel⟩

/-- Witness for `OlixDiscovery`. -/
theorem test_wit_OlixDiscovery :
    (∃ (g : GroupId) (k : LinkId) (s : State), (linkAt s.mod g.val k.val).state = .up)
    ∧ (∃ (g : GroupId) (k : LinkId) (c : HelloContent) (s : State), (linkAt s.mod g.val k.val).state = .up ∧
        s.mod.partners.find? (fun q => q.moduleId = fld c 0 64) = none)
    ∧ (∃ (g : GroupId) (k : LinkId) (c : HelloContent) (s : State) (q : _), (linkAt s.mod g.val k.val).state = .up ∧
        s.mod.partners.find? (fun q => q.moduleId = fld c 0 64) = some q ∧ q.node ≠ fld c 64 8)
    ∧ (∃ (g : GroupId) (k : LinkId) (c : HelloContent) (s : State) (q : _), (linkAt s.mod g.val k.val).state = .up ∧
        s.mod.partners.find? (fun q => q.moduleId = fld c 0 64) = some q ∧ q.node = fld c 64 8 ∧ q.state = .present)
    ∧ (∃ (hs : HostId) (e : SqEntry) (h : HostSide) (s : State) (m : Mod) (c : Cmd), Taken (.admin hs) e h 0x58 s m c ∧
        entryClean e false true false [(0, 8), (32, 32)] = true ∧ argN e 0 1 = 0)
    ∧ (∃ (hs : HostId) (e : SqEntry) (h : HostSide) (s : State) (m : Mod) (c : Cmd) (q : _), Taken (.admin hs) e h 0x58 s m c ∧
        entryClean e false true false [(0, 8), (32, 32)] = true ∧ argN e 0 1 = 1 ∧
        m.partners.find? (fun q => q.index = argN e 4 4 && q.state = .present) = some q) := by
  refine ⟨?_, ?_, ?_, ?_, ?_, ?_⟩
  · exact ⟨15, 3, tUp id, by decide +kernel⟩
  · exact ⟨15, 3, BitVec.ofNat 384 (7 + 7 * 2 ^ 64), tUp id, by decide +kernel⟩
  · exact ⟨15, 3, BitVec.ofNat 384 (7 + 8 * 2 ^ 64), tUp (fun m => { m with partners := [tPartner] }), tPartner, by decide +kernel⟩
  · exact ⟨15, 3, BitVec.ofNat 384 (7 + 7 * 2 ^ 64), tUp (fun m => { m with partners := [tPartner] }), tPartner, by decide +kernel⟩
  · exact ⟨3, (tBuf 0x58 0 0 64), tSide, tAdm (tBuf 0x58 0 0 64) id, tAdmM (tBuf 0x58 0 0 64) id, tCmd (tBuf 0x58 0 0 64), taken_adm (by decide +kernel), by decide +kernel⟩
  · exact ⟨3, tBuf 0x58 0 (1 + 63 * 2 ^ 32) 64, tSide, tAdm (tBuf 0x58 0 (1 + 63 * 2 ^ 32) 64) (fun m => { m with partners := [tPartner] }),
      tAdmM (tBuf 0x58 0 (1 + 63 * 2 ^ 32) 64) (fun m => { m with partners := [tPartner] }), tCmd (tBuf 0x58 0 (1 + 63 * 2 ^ 32) 64), tPartner,
      taken_adm (by decide +kernel), by decide +kernel⟩

/-- Witness for `OlixMessages`. -/
theorem test_wit_OlixMessages :
    (∃ (g : GroupId) (k : LinkId) (hd : Header) (h : HostSide) (s : State) (x : Part), (groupOf s.mod g.val).owner.bind (partOf? s.mod) = some x ∧
        Heard (applySide s.mod (partHost x) h) g.val k.val hd 1)
    ∧ (∃ (g : GroupId) (k : LinkId) (hd : Header) (ls : List Line) (h : HostSide) (s : State) (x : Part), ls.length = headerLines hd ∧
        (groupOf s.mod g.val).owner.bind (partOf? s.mod) = some x ∧
        Heard (applySide s.mod (partHost x) h) g.val k.val hd 3)
    ∧ (∃ (g : GroupId) (k : LinkId) (hd : Header) (ls : List Line) (s : State) (r a x route : _), ls.length = headerLines hd ∧
        Heard s.mod g.val k.val hd 2 ∧ (let m := countPoison s.mod g.val hd ls; requestOf m g.val hd false = some r ∧
        r.site = some a ∧ partOf? m r.part = some x ∧
        replyRoute { m with requests := m.requests.erase r } x a r.rtag = some route))
    ∧ (∃ (g : GroupId) (k : LinkId) (hd : Header) (ls : List Line) (s : State), ls.length = headerLines hd ∧
        Heard s.mod g.val k.val hd 2 ∧ (let m := countPoison s.mod g.val hd ls; requestOf m g.val hd false = none))
    ∧ (∃ (g : GroupId) (k : LinkId) (hd : Header) (s : State) (r a : _), Heard s.mod g.val k.val hd 4 ∧
        requestOf s.mod g.val hd true = some r ∧ r.site = some a)
    ∧ (∃ (g : GroupId) (k : LinkId) (hd : Header) (s : State), Heard s.mod g.val k.val hd 4 ∧
        requestOf s.mod g.val hd true = none)
    ∧ (∃ (g : GroupId) (k : LinkId) (hd : Header) (s : State) (r : _), Heard s.mod g.val k.val hd 5 ∧
        s.mod.requests.find? (fun r => r.tag = gTag hd && r.group = g.val && !r.kept && r.node = gSrc hd) = some r ∧
        r.cls = 0) := by
  refine ⟨?_, ?_, ?_, ?_, ?_, ?_, ?_⟩
  · exact ⟨15, 3, tHead 1 0, tSide, tUp id, tPart, by decide +kernel, by unfold Heard; decide +kernel⟩
  · exact ⟨15, 3, tHead 3 0, [0], tSide, tUp id, tPart, by decide +kernel, by decide +kernel, by unfold Heard; decide +kernel⟩
  · exact ⟨15, 3, tHead 2 65535, [0], tAskedS false, tRequest false, 1535, tPart, 0, by decide +kernel, by unfold Heard; decide +kernel, by decide +kernel⟩
  · exact ⟨15, 3, tHead 2 65535, [0], tUp id, by decide +kernel, by unfold Heard; decide +kernel, by decide +kernel⟩
  · exact ⟨15, 3, tHead 4 65535, tAskedS true, tRequest true, 1535, by unfold Heard; decide +kernel, by decide +kernel⟩
  · exact ⟨15, 3, tHead 4 65535, tUp id, by unfold Heard; decide +kernel, by decide +kernel⟩
  · exact ⟨15, 3, tHead 5 65535, tAskedS false, tRequest false, by unfold Heard; decide +kernel, by decide +kernel⟩

/-- Witness for `PartitionCommands`. -/
theorem test_wit_PartitionCommands :
    (∃ (hs : HostId) (e : SqEntry) (h : HostSide) (s : State) (m : Mod) (c : Cmd) (d st : _), Taken (.admin hs) e h 0x40 s m c ∧
        argN e 4 4 ≤ 4096 ∧ e.len0.toNat = 128 + 8 * argN e 4 4 ∧ e.addr0.toNat % 8 = 0 ∧
        rejected (hostOf m hs.val) e.addr0.toNat (128 + 8 * argN e 4 4) = false ∧
        (let bs := hostRead (hostOf m hs.val) e.addr0.toNat (128 + 8 * argN e 4 4);
        (let cfg : BitVec 1024 := BitVec.ofNat 1024 (leNat (bs.take 128));
        (let gs := (chunksOf 8 (bs.drop 128)).map (fun b => (BitVec.ofNat 64 (leNat b) : BitVec 64));
        createFails s.fuses m e cfg (gs.map grantOf) = some (d, st)))))
    ∧ (∃ (hs : HostId) (e : SqEntry) (h : HostSide) (s : State) (m : Mod) (c : Cmd), Taken (.admin hs) e h 0x40 s m c ∧
        argN e 4 4 ≤ 4096 ∧ e.len0.toNat = 128 + 8 * argN e 4 4 ∧ e.addr0.toNat % 8 = 0 ∧
        rejected (hostOf m hs.val) e.addr0.toNat (128 + 8 * argN e 4 4) = false ∧
        (let bs := hostRead (hostOf m hs.val) e.addr0.toNat (128 + 8 * argN e 4 4);
        (let cfg : BitVec 1024 := BitVec.ofNat 1024 (leNat (bs.take 128));
        (let gs := (chunksOf 8 (bs.drop 128)).map (fun b => (BitVec.ofNat 64 (leNat b) : BitVec 64));
        createFails s.fuses m e cfg (gs.map grantOf) = none))))
    ∧ (∃ (hs : HostId) (e : SqEntry) (h : HostSide) (s : State) (m : Mod) (c : Cmd) (x : Part), Taken (.admin hs) e h 0x41 s m c ∧
        entryClean e false false false [(0, 4)] = true ∧ partOf? m (argN e 0 1) = some x)
    ∧ (∃ (hs : HostId) (e : SqEntry) (h : HostSide) (s : State) (m : Mod) (c : Cmd) (x : Part), Taken (.admin hs) e h 0x42 s m c ∧
        entryClean e false false false [(0, 4)] = true ∧ partOf? m (argN e 0 1) = some x ∧
        (x.holdAdmin = false ∨ c.phase = .waiting))
    ∧ (∃ (hs : HostId) (e : SqEntry) (h : HostSide) (s : State) (m : Mod) (c : Cmd) (x : Part), Taken (.admin hs) e h 0x43 s m c ∧
        entryClean e false false false [(0, 4)] = true ∧ partOf? m (argN e 0 1) = some x) := by
  refine ⟨?_, ?_, ?_, ?_, ?_⟩
  · exact ⟨3, (tBuf 0x40 0 0 128), tSide, tAdm (tBuf 0x40 0 0 128) id, tAdmM (tBuf 0x40 0 0 128) id, tCmd (tBuf 0x40 0 0 128), 1, .badDescriptor, taken_adm (by decide +kernel), by decide +kernel⟩
  · exact ⟨3, tCreateE, tSide, tCreateS, tSideM tCreateS tA, tCmd tCreateE, taken_on (by decide +kernel), by decide +kernel⟩
  · exact ⟨3, (tEnt 0x41 0 15), tSide, tAdm (tEnt 0x41 0 15) id, tAdmM (tEnt 0x41 0 15) id, tCmd (tEnt 0x41 0 15), tPart, taken_adm (by decide +kernel), by decide +kernel⟩
  · exact ⟨3, (tEnt 0x42 0 15), tSide, tAdm (tEnt 0x42 0 15) id, tAdmM (tEnt 0x42 0 15) id, tCmd (tEnt 0x42 0 15), tPart, taken_adm (by decide +kernel), by decide +kernel⟩
  · exact ⟨3, (tEnt 0x43 0 15), tSide, tAdm (tEnt 0x43 0 15) id, tAdmM (tEnt 0x43 0 15) id, tCmd (tEnt 0x43 0 15), tPart, taken_adm (by decide +kernel), by decide +kernel⟩

/-- Witness for `AttestAndChecks`. -/
theorem test_wit_AttestAndChecks :
    (∃ (hs : HostId) (e : SqEntry) (h : HostSide) (s : State) (m : Mod) (c : Cmd), Taken (.admin hs) e h 0x54 s m c ∧
        argN e 0 1 = 0 ∧ entryClean e false true false [(0, 8), (8, 0), (64, 192)] = true)
    ∧ (∃ (hs : HostId) (e : SqEntry) (h : HostSide) (s : State) (m : Mod) (c : Cmd), Taken (.admin hs) e h 0x54 s m c ∧
        argN e 0 1 = 2 ∧ entryClean e false true false [(0, 8), (8, 0), (64, 192)] = true)
    ∧ (∃ (hs : HostId) (e : SqEntry) (h : HostSide) (s : State) (m : Mod) (c : Cmd) (x : Part), Taken (.admin hs) e h 0x54 s m c ∧
        argN e 0 1 = 1 ∧ entryClean e false true false [(0, 8), (8, 4), (64, 192)] = true ∧
        partOf? m (argN e 1 1) = some x ∧ partHost x = hs.val)
    ∧ (∃ (p : PartId) (r : RegionId) (s : State) (x : Part) (t : Staged), partOf? s.mod p.val = some x ∧
        (regionAt s.mod r.val).fwRestart = false ∧ (regionAt s.mod r.val).lost = false ∧
        (regionAt s.mod r.val).evacuated = false ∧ x.staged.find? (fun t => t.waiting.contains r.val) = some t)
    ∧ (∃ (p : PartId) (s : State) (x : Part) (t : Staged), partOf? s.mod p.val = some x ∧
        x.staged.find? (fun t => !t.committed) = some t)
    ∧ (∃ (s : State), s.fuses.isolationLock = false ∧ s.fuses.debugLevel ≤ 1)
    ∧ (∃ (s : State), (s.fuses.isolationLock = true ∨ 1 < s.fuses.debugLevel)) := by
  refine ⟨?_, ?_, ?_, ?_, ?_, ?_, ?_⟩
  · exact ⟨3, (tBuf 0x54 0 0 8192), tSide, tAdm (tBuf 0x54 0 0 8192) id, tAdmM (tBuf 0x54 0 0 8192) id, tCmd (tBuf 0x54 0 0 8192), taken_adm (by decide +kernel), by decide +kernel⟩
  · exact ⟨3, (tBuf 0x54 0 2 8192), tSide, tAdm (tBuf 0x54 0 2 8192) id, tAdmM (tBuf 0x54 0 2 8192) id, tCmd (tBuf 0x54 0 2 8192), taken_adm (by decide +kernel), by decide +kernel⟩
  · exact ⟨3, (tBuf 0x54 0 (1 + 15 * 2 ^ 8) 8192), tSide, tAdm (tBuf 0x54 0 (1 + 15 * 2 ^ 8) 8192) (fun m => { m with parts := [(15, tHosted id)] }), tAdmM (tBuf 0x54 0 (1 + 15 * 2 ^ 8) 8192) (fun m => { m with parts := [(15, tHosted id)] }), tCmd (tBuf 0x54 0 (1 + 15 * 2 ^ 8) 8192), tHosted id, taken_adm (by decide +kernel), by decide +kernel⟩
  · exact ⟨15, 63, tPartly (fun x => { x with staged := [tStaged] }), tPartOf (tPartly (fun x => { x with staged := [tStaged] })), tStaged, by decide +kernel⟩
  · exact ⟨15, tPartly (fun x => { x with staged := [tStaged] }), tPartOf (tPartly (fun x => { x with staged := [tStaged] })), tStaged, by decide +kernel⟩
  · exact ⟨tFused tBase (fun f => { f with debugLevel := 1 }), by decide +kernel⟩
  · exact ⟨tFused tBase (fun f => { f with debugLevel := 2 }), by decide +kernel⟩

/-- Witness for `FuseCommands`. -/
theorem test_wit_FuseCommands :
    (∃ (v : BitVec 32), fld v 0 16 = 0x5AF0)
    ∧ (∃ (v : BitVec 32), fld v 0 16 ≠ 0x5AF0)
    ∧ (∃ (a : Byte) (s : State) (c : Instr), s.mod.sec.state ≠ 1 ∧ s.mod.sec.unlocked = false ∧
        c ∈ [Instr.fuseRevokeKey a, .fuseAdvanceRollback a, .fuseRaiseDebugLevel a, .fuseJtagLock a, .fuseIsolationLock a])
    ∧ (∃ (a : Byte) (s : State), s.mod.sec.state ≠ 1 ∧ s.mod.sec.unlocked = true ∧ (let sec := s.mod.sec; a.toNat ≤ 3 ∧
        a.toNat = sec.bootKey))
    ∧ (∃ (a : Byte) (s : State), s.mod.sec.state ≠ 1 ∧ s.mod.sec.unlocked = true ∧ (let fz := s.fuses;
        (let sec := s.mod.sec; a.toNat ≤ 3 ∧ a.toNat ≠ sec.bootKey ∧
        (∀ j, j < 4 → j ≠ a.toNat → bit fz.rootRevoked j = true))))
    ∧ (∃ (a : Byte) (s : State), s.mod.sec.state ≠ 1 ∧ s.mod.sec.unlocked = true ∧ (let fz := s.fuses;
        (let sec := s.mod.sec; a.toNat ≤ 3 ∧ a.toNat ≠ sec.bootKey ∧ (∃ j, j < 4 ∧ j ≠ a.toNat ∧
        bit fz.rootRevoked j = false))))
    ∧ (∃ (a : Byte) (s : State), s.mod.sec.state ≠ 1 ∧ s.mod.sec.unlocked = true ∧ (let fz := s.fuses;
        (let sec := s.mod.sec; (a.toNat ≤ fz.rollback ∨ sec.fwRollback < a.toNat))))
    ∧ (∃ (a : Byte) (s : State), s.mod.sec.state ≠ 1 ∧ s.mod.sec.unlocked = true ∧ (let fz := s.fuses;
        (let sec := s.mod.sec; fz.rollback < a.toNat ∧ a.toNat ≤ sec.fwRollback)))
    ∧ (∃ (a : Byte) (s : State), s.mod.sec.state ≠ 1 ∧ s.mod.sec.unlocked = true ∧ (let fz := s.fuses;
        a.toNat ≤ fz.debugLevel))
    ∧ (∃ (a : Byte) (s : State), s.mod.sec.state ≠ 1 ∧ s.mod.sec.unlocked = true ∧ (let fz := s.fuses;
        fz.debugLevel < a.toNat ∧ a.toNat ≤ 2))
    ∧ (∃ (s : State), s.mod.sec.state ≠ 1 ∧ s.mod.sec.unlocked = true)
    ∧ (∃ (s : State), s.mod.sec.state ≠ 1 ∧ s.mod.sec.unlocked = true)
    ∧ (∃ (s : State) (f : FuseOp), s.mod.sec.busy = some f) := by
  refine ⟨?_, ?_, ?_, ?_, ?_, ?_, ?_, ?_, ?_, ?_, ?_, ?_, ?_⟩
  · exact ⟨0x5AF0, by decide +kernel⟩
  · exact ⟨0x5AF1, by decide +kernel⟩
  · exact ⟨255, tBase, .fuseIsolationLock 255, by decide +kernel⟩
  · exact ⟨0, tSec id, by decide +kernel⟩
  · exact ⟨3, tFused (tSec id) (fun f => { f with rootRevoked := 7 }), by decide +kernel⟩
  · exact ⟨3, tSec id, by decide +kernel⟩
  · exact ⟨0, tSec id, by decide +kernel⟩
  · exact ⟨255, tSec id, by decide +kernel⟩
  · exact ⟨0, tSec id, by decide +kernel⟩
  · exact ⟨2, tSec id, by decide +kernel⟩
  · exact ⟨tSec id, by decide +kernel⟩
  · exact ⟨tSec id, by decide +kernel⟩
  · exact ⟨tSec (fun x => { x with busy := some .isolation }), .isolation, by decide +kernel⟩

/-- Witness for `FaultRepairs`. -/
theorem test_wit_FaultRepairs :
    (∃ (s : State) (p : Nat) (n : FaultNote) (rest : List (Nat × FaultNote)), s.mod.fabric.reports = (p, n) :: rest ∧
        rmAlive s.mod = true ∧ (let m := { s.mod with fabric := { s.mod.fabric with reports := rest } };
        faultWaits m p n = false))
    ∧ (∃ (s : State) (p : Nat) (n : FaultNote) (rest : List (Nat × FaultNote)), s.mod.fabric.reports = (p, n) :: rest ∧
        rmAlive s.mod = true ∧ (let m := { s.mod with fabric := { s.mod.fabric with reports := rest } };
        faultWaits m p n = true))
    ∧ (∃ (i : SiteId) (s : State), (siteOf s.mod i.val).slice.state = .init ∧ s.mod.parts = [])
    ∧ (∃ (i : SiteId) (s : State) (p : Nat) (x : Part) (d : Repair), (siteOf s.mod i.val).slice.state = .init ∧
        s.mod.parts = [(p, x)] ∧ x.repair = some d ∧ d.awaited = [i.val])
    ∧ (∃ (p : PartId) (s : State) (x : Part) (d : Repair), partOf? s.mod p.val = some x ∧ x.repair = some d ∧
        d.awaited = [] ∧ rmAlive s.mod = true) := by
  refine ⟨?_, ?_, ?_, ?_, ?_⟩
  · exact ⟨tLive (tMod (tBase) (fun m => { m with fabric := { m.fabric with reports := [(15, ⟨1535, 0x25, .fabric, false⟩)] } })), 15, ⟨1535, 0x25, .fabric, false⟩, [], by decide +kernel⟩
  · exact ⟨tLive (tMod (tPartly (fun x => { x with repair := some (tRepair []) })) (fun m => { m with fabric := { m.fabric with reports := [(15, ⟨1535, 0x25, .fabric, false⟩)] } })), 15, ⟨1535, 0x25, .fabric, false⟩, [], by decide +kernel⟩
  · exact ⟨1535, tMod (tSlice (fun x => { x with state := .init })) (fun m => { m with parts := [] }), by decide +kernel⟩
  · exact ⟨1535, tMod (tSlice (fun x => { x with state := .init })) (fun m => { m with parts := [(15, { tPart with repair := some (tRepair [1535]) })] }), 15, { tPart with repair := some (tRepair [1535]) }, tRepair [1535], by decide +kernel⟩
  · exact ⟨15, tLive (tPartly (fun x => { x with repair := some (tRepair []) })), { tPart with repair := some (tRepair []) }, tRepair [], by decide +kernel⟩

/-- Witness for `RepairRefill`. -/
theorem test_wit_RepairRefill :
    (∃ (p : PartId) (i : SiteId) (bs : List Byte) (s : State) (x : Part) (pl : Plan) (e : Nat × Nat) (k : Chunk) (vc : VCore), partOf? s.mod p.val = some x ∧
        x.plan = some pl ∧ x.refill.find? (fun e => e.1 = i.val) = some e ∧ pl.chunks[e.2]? = some k ∧
        pl.vcores[k.vcore]? = some vc ∧ refillRuns s.mod x pl = true ∧ bs.length = 72 * k.lines ∧ crc32c bs = k.crc)
    ∧ (∃ (p : PartId) (h : BitVec 32) (s : State) (x : Part), partOf? s.mod p.val = some x ∧ tableFirst s.mod x = some h)
    ∧ (∃ (p : PartId) (g : Fin 16777216) (s : State) (x : Part) (pl : Plan) (e : Nat × Nat) (v : Nat) (f : Packed), partOf? s.mod p.val = some x ∧
        x.plan = some pl ∧ x.twinLeft.find? (fun e => e.2 = g.val) = some e ∧ vcoreAt pl e.1 = some v ∧
        packedOf pl.cacheFormat = some f) := by
  refine ⟨?_, ?_, ?_⟩
  · exact ⟨15, 1535, leBytes 72 0, tStateOf (tCore 0) tRefillX, tRefillX, { tPlan with chunks := [⟨0, 0, false, 0, 0, 1, 128, crc32c (leBytes 72 0)⟩] }, (1535, 0), ⟨0, 0, false, 0, 0, 1, 128, crc32c (leBytes 72 0)⟩, ⟨[], [], [], [0, 0, 0, 0], 0, 0, 0, 0⟩, by decide +kernel⟩
  · exact ⟨15, 1, tPartly (fun x => { x with tableQ := [1], seqs := [tSeq] }), tPartOf (tPartly (fun x => { x with tableQ := [1], seqs := [tSeq] })), by decide +kernel⟩
  · exact ⟨15, 16777215, tPartly (fun x => { x with twinLeft := [(1535, 16777215)] }), tPartOf (tPartly (fun x => { x with twinLeft := [(1535, 16777215)] })), tPlan, (1535, 16777215), 0, ⟨1, 4, 32, 128, 512, 8, 3, -1, 2, 1, 1⟩, by decide +kernel⟩

/-- The state after start-up with the last region's core domain up, its region and site changed. -/
def tOn (f : Region → Region) (g : SiteEnv → SiteEnv) : State :=
  tLive (tMod tBase (fun m => { (updEnv (updRegion m 63 (fun y => f { y with power := { y.power with core := .on } })) 1535 g) with
    startup := { m.startup with step := 9 } }))
/-- The same with the region's power changed. -/
def tPow (f : RegPower → RegPower) : State := tOn (fun y => { y with power := f y.power }) id
/-- The same with the region's clock changed. -/
def tClk (f : RegClock → RegClock) (q : Nat) : State :=
  tOn (fun y => { y with clock := f y.clock }) (fun e => { e with dQ := q, oQ := q })
/-- A partition that owns the last slot of the last crossing. -/
def tSeamS : State := tMod tBase (fun m => updRouter m (linkEnds (seamLink 47)).1.1 (fun r => { r with
  ownA := [(8 * (linkEnds (seamLink 47)).1.2 + 7, 15)] }))
/-- A partition whose only region is the last. -/
def tOwnS : State := tPartly (fun x => { x with config := BitVec.ofNat 1024 (2 ^ 127) })
/-- Overpower since a time. -/
def tOver (t now : Nat) : State :=
  tMod (tOn id id) (fun m => { m with pwr := { m.pwr with overpowerSince := some t }, time := now })
/-- A partition of two frames, the last site in the second, with its last Carousel entry. -/
def tSwapX (v : Bool) : Part := { tPart with
  plan := some { tPlan with parents := [0xFFFF, 0, 0], coreFrame := [1, 2], sites := [0, 1535], routeIds := 2 },
  cars := [(31, { carNone with frameA := 1, frameB := 2, primary := 0, alternate := 1, count := 1, valid := v })] }
/-- The state with it. -/
def tSwapS (v : Bool) : State :=
  tLive (tMod (tStateOf (tCore 0) (tSwapX v)) (fun m => updEnv m 1535 (fun e => { e with dQ := 33, oQ := 33 })))

/-- Witness for `PowerDomains`. -/
theorem test_wit_PowerDomains :
    (∃ (v : BitVec 32), (let d := fld v 0 8; 151 < d))
    ∧ (∃ (v : BitVec 32), (let d := fld v 0 8; d < 64 ∧ isSpareRegion d = true))
    ∧ (∃ (v : BitVec 32), (let d := fld v 0 8; 64 ≤ d ∧ d < 128 ∨ 144 ≤ d ∧ d < 148 ∨ d = 150 ∨ d = 151))
    ∧ (∃ (v : BitVec 32) (s : State), (let d := fld v 0 8; (let m := s.mod; d < 64 ∧ isSpareRegion d = false ∧
        ((regionOwner m d).isSome = true ∨ (regionAt m d).evacuated = true))))
    ∧ (∃ (v : BitVec 32) (s : State), (let d := fld v 0 8; (let m := s.mod; d < 64 ∧ isSpareRegion d = false ∧
        regionOwner m d = none ∧ (regionAt m d).evacuated = false)))
    ∧ (∃ (v : BitVec 32) (s : State), (let d := fld v 0 8; (let m := s.mod; 128 ≤ d ∧ d < 144 ∧
        ((groupOf m (d - 128)).enable = true ∨ (groupOf m (d - 128)).owner.isSome = true))))
    ∧ (∃ (v : BitVec 32) (s : State), (let d := fld v 0 8; (let m := s.mod; 128 ≤ d ∧ d < 144 ∧
        (groupOf m (d - 128)).enable = false ∧ (groupOf m (d - 128)).owner = none)))
    ∧ (∃ (v : BitVec 32) (s : State), (let d := fld v 0 8; (let m := s.mod; (d = 148 ∨ d = 149) ∧
        (partIds m).any (ownsSeam m) = true)))
    ∧ (∃ (v : BitVec 32) (s : State), (let d := fld v 0 8; (let m := s.mod; (d = 148 ∨ d = 149) ∧
        (partIds m).any (ownsSeam m) = false)))
    ∧ (∃ (r : RegionId) (s : State), (regionAt s.mod r.val).power.core = .ramp)
    ∧ (∃ (r : RegionId) (s : State), (regionAt s.mod r.val).power.core = .ramp ∧ isSpareRegion r.val = true ∧
        (regionAt s.mod r.val).standin = false)
    ∧ (∃ (r : RegionId) (s : State), (regionAt s.mod r.val).power.core = .ramp ∧
        (isSpareRegion r.val = false ∨ (regionAt s.mod r.val).standin = true))
    ∧ (∃ (r : RegionId) (s : State), (regionAt s.mod r.val).power.core = .wait) := by
  refine ⟨?_, ?_, ?_, ?_, ?_, ?_, ?_, ?_, ?_, ?_, ?_, ?_, ?_⟩
  · exact ⟨152, by decide +kernel⟩
  · exact ⟨38, by decide +kernel⟩
  · exact ⟨151, by decide +kernel⟩
  · exact ⟨63, tOwnS, by decide +kernel⟩
  · exact ⟨63, tBase, by decide +kernel⟩
  · exact ⟨143, tMod tBase (fun m => updGroup m 15 (fun y => { y with enable := true })), by decide +kernel⟩
  · exact ⟨128, tBase, by decide +kernel⟩
  · exact ⟨149, tSeamS, by decide +kernel⟩
  · exact ⟨148, tBase, by decide +kernel⟩
  · exact ⟨63, tPow (fun y => { y with core := .ramp }), by decide +kernel⟩
  · exact ⟨38, tMod tBase (fun m => updPower m 38 (fun y => { y with core := .ramp })), by decide +kernel⟩
  · exact ⟨63, tPow (fun y => { y with core := .ramp }), by decide +kernel⟩
  · exact ⟨63, tPow (fun y => { y with core := .wait }), by decide +kernel⟩

/-- Witness for `PowerGuard`. -/
theorem test_wit_PowerGuard :
    (∃ (r : RegionId) (da : Nat) (s : State), coreUp s.mod r.val = true ∧
        (let lim := ilimDa (regionAt s.mod r.val).power; lim < da ∧ (regionAt s.mod r.val).power.fraction = 16))
    ∧ (∃ (r : RegionId) (s : State), coreUp s.mod r.val = true)
    ∧ (∃ (r : RegionId) (s : State), coreUp s.mod r.val = true)
    ∧ (∃ (w : Nat) (s : State), 30000 < w ∧ s.mod.startup.step ≠ 0)
    ∧ (∃ (w t : Nat) (s : State), s.mod.pwr.overpowerSince = some t ∧ 30000 < w)
    ∧ (∃ (w t : Nat) (s : State), s.mod.pwr.overpowerSince = some t ∧ 28500 ≤ w ∧ w ≤ 30000)
    ∧ (∃ (w t : Nat) (s : State), s.mod.pwr.overpowerSince = some t ∧ w < 28500 ∧ s.mod.time < t + 100000000)
    ∧ (∃ (w t : Nat) (s : State), s.mod.pwr.overpowerSince = some t ∧ w < 28500 ∧ t + 100000000 ≤ s.mod.time) := by
  refine ⟨?_, ?_, ?_, ?_, ?_, ?_, ?_, ?_⟩
  · exact ⟨63, 100000, tOn id id, by decide +kernel⟩
  · exact ⟨63, tOn id id, by decide +kernel⟩
  · exact ⟨63, tOn id id, by decide +kernel⟩
  · exact ⟨30001, tOn id id, by decide +kernel⟩
  · exact ⟨30001, 0, tOver 0 0, by decide +kernel⟩
  · exact ⟨28500, 0, tOver 0 0, by decide +kernel⟩
  · exact ⟨28499, 0, tOver 0 99999999, by decide +kernel⟩
  · exact ⟨28499, 0, tOver 0 100000000, by decide +kernel⟩

/-- Witness for `PowerFaults`. -/
theorem test_wit_PowerFaults :
    (∃ (r : RegionId) (k : Fin 24) (s : State), coreUp s.mod r.val = true ∧
        bit (regionAt s.mod r.val).power.cellsFailed k.val = false ∧
        (let m1 := updPower s.mod r.val (fun y => { y with cellsFailed := setBit y.cellsFailed k.val true });
        (let n := cellsFailed (regionAt m1 r.val).power; (n < 3))))
    ∧ (∃ (r : RegionId) (k : Fin 24) (s : State), coreUp s.mod r.val = true ∧
        bit (regionAt s.mod r.val).power.cellsFailed k.val = false ∧
        (let m1 := updPower s.mod r.val (fun y => { y with cellsFailed := setBit y.cellsFailed k.val true });
        (let n := cellsFailed (regionAt m1 r.val).power; (n = 3 ∨ n = 4))))
    ∧ (∃ (r : RegionId) (k : Fin 24) (s : State), coreUp s.mod r.val = true ∧
        bit (regionAt s.mod r.val).power.cellsFailed k.val = false ∧
        (let m1 := updPower s.mod r.val (fun y => { y with cellsFailed := setBit y.cellsFailed k.val true });
        (let n := cellsFailed (regionAt m1 r.val).power; 5 ≤ n)))
    ∧ (∃ (r : RegionId) (s : State), s.mod.startup.step ≠ 0 ∧ (regionAt s.mod r.val).power.core ≠ .lost)
    ∧ (∃ (r : RegionId) (b : Bool) (s : State), (if b then (regionAt s.mod r.val).power.feedB else (regionAt s.mod r.val).power.feedA) = true ∧
        (if b then (regionAt s.mod r.val).power.feedA else (regionAt s.mod r.val).power.feedB) = true)
    ∧ (∃ (i : SiteId) (s : State), liveClass s.fuses s.mod i.val = .active ∧ evaluates s.mod (regionOf i.val) = true ∧
        (siteOf s.mod i.val).env.crack = false)
    ∧ (∃ (i : SiteId) (k : Fin 8) (s : State), evaluates s.mod (regionOf i.val) = true ∧
        bit (siteOf s.mod i.val).env.droopSuspect k.val = false)
    ∧ (∃ (mv : Nat) (s : State), s.mod.startup.step ≠ 0 ∧ ((30000 ≤ mv ∧ mv < 32000) ∨ (40000 < mv ∧ mv ≤ 42000)))
    ∧ (∃ (mv : Nat) (s : State), s.mod.startup.step ≠ 0 ∧ (mv < 30000 ∨ 42000 < mv)) := by
  refine ⟨?_, ?_, ?_, ?_, ?_, ?_, ?_, ?_, ?_⟩
  · exact ⟨63, 23, tOn id id, by decide +kernel⟩
  · exact ⟨63, 23, tPow (fun y => { y with cellsFailed := 3 }), by decide +kernel⟩
  · exact ⟨63, 23, tPow (fun y => { y with cellsFailed := 15 }), by decide +kernel⟩
  · exact ⟨63, tOn id id, by decide +kernel⟩
  · exact ⟨63, true, tPow (fun y => { y with feedA := true, feedB := true }), by decide +kernel⟩
  · exact ⟨1533, tOn id id, by decide +kernel⟩
  · exact ⟨1535, 7, tOn id id, by decide +kernel⟩
  · exact ⟨30000, tOn id id, by decide +kernel⟩
  · exact ⟨42001, tOn id id, by decide +kernel⟩

/-- Start-up surroundings. -/
def tEnv : StartEnv := ⟨36000, true, true, 300, 100, [], [], true, 3⟩
/-- Start-up waiting at a step, the management domains as given. -/
def tWaits (n : Nat) (on : BitVec 2) : State :=
  tMod tBase (fun m => { m with startup := { m.startup with step := n, waitSince := some 0, env := some tEnv }, pwr := { m.pwr with mgmtOn := on } })

/-- Witness for `Clocks`. -/
theorem test_wit_Clocks :
    (∃ (s : State), refPresent s.mod.clk = true)
    ∧ (∃ (s : State), refPresent s.mod.clk = false)
    ∧ (∃ (k : Fin 4), k.val = 0)
    ∧ (∃ (k : Fin 4), k.val = 1)
    ∧ (∃ (k : Fin 4), k.val = 2)
    ∧ (∃ (k : Fin 4), k.val = 3)
    ∧ (∃ (k : Fin 4), k.val = 0)
    ∧ (∃ (k : Fin 4), k.val = 1)
    ∧ (∃ (k : Fin 4), k.val = 2)
    ∧ (∃ (k : Fin 4), k.val = 3)
    ∧ (∃ (east : Bool) (s : State), (let red : Bool := if east then s.mod.thm.fabricE else s.mod.thm.fabricW; red = false))
    ∧ (∃ (east : Bool) (s : State), (let red : Bool := if east then s.mod.thm.fabricE else s.mod.thm.fabricW; red = true))
    ∧ (∃ (s : State), s.mod.pwr.mgmtOn ≠ 0 ∧ waitingAt s.mod 2 = none)
    ∧ (∃ (s : State) (env : StartEnv), s.mod.pwr.mgmtOn ≠ 0 ∧ waitingAt s.mod 2 = some env)
    ∧ (∃ (s : State), s.mod.pwr.mgmtOn = 0) := by
  refine ⟨?_, ?_, ?_, ?_, ?_, ?_, ?_, ?_, ?_, ?_, ?_, ?_, ?_, ?_, ?_⟩
  · exact ⟨tMod tBase (fun m => { m with clk := { m.clk with ref0 := true } }), by decide +kernel⟩
  · exact ⟨tMod tBase (fun m => { m with clk := { m.clk with ref0 := false, ref1 := false } }), by decide +kernel⟩
  · exact ⟨0, by decide +kernel⟩
  · exact ⟨1, by decide +kernel⟩
  · exact ⟨2, by decide +kernel⟩
  · exact ⟨3, by decide +kernel⟩
  · exact ⟨0, by decide +kernel⟩
  · exact ⟨1, by decide +kernel⟩
  · exact ⟨2, by decide +kernel⟩
  · exact ⟨3, by decide +kernel⟩
  · exact ⟨true, tBase, by decide +kernel⟩
  · exact ⟨true, tMod tBase (fun m => { m with thm := { m.thm with fabricE := true } }), by decide +kernel⟩
  · exact ⟨tMod tBase (fun m => { m with pwr := { m.pwr with mgmtOn := 3 } }), by decide +kernel⟩
  · exact ⟨tWaits 2 3, tEnv, by decide +kernel⟩
  · exact ⟨tBase, by decide +kernel⟩

/-- Witness for `Throttle`. -/
theorem test_wit_Throttle :
    (∃ (i : SiteId) (d o : Nat) (s : State), 4 ≤ s.mod.startup.step ∧ (let r := regionOf i.val;
        (let m1 := forceSlow (sampleSite s.mod i.val d o) r; (let y := regionAt m1 r;
        (siteTemp m1 i.val < 368 ∨ y.clock.throttle = true ∨ y.fwRestart = true)))))
    ∧ (∃ (i : SiteId) (d o : Nat) (s : State), 4 ≤ s.mod.startup.step ∧ (let r := regionOf i.val;
        (let m1 := forceSlow (sampleSite s.mod i.val d o) r; (let y := regionAt m1 r; 368 ≤ siteTemp m1 i.val ∧
        y.clock.throttle = false ∧ y.fwRestart = false))))
    ∧ (∃ (r : RegionId) (s : State), (regionAt s.mod r.val).fwRestart = false ∧ (let c := (regionAt s.mod r.val).clock;
        (let top := peak s.mod (sitesOf r.val); c.throttle = true ∧ 368 ≤ top)))
    ∧ (∃ (r : RegionId) (s : State), (regionAt s.mod r.val).fwRestart = false ∧ (let c := (regionAt s.mod r.val).clock;
        (let top := peak s.mod (sitesOf r.val); c.throttle = true ∧ 356 ≤ top ∧ top < 368)))
    ∧ (∃ (r : RegionId) (s : State), (regionAt s.mod r.val).fwRestart = false ∧ (let c := (regionAt s.mod r.val).clock;
        (let top := peak s.mod (sitesOf r.val); c.throttle = true ∧ top < 356)))
    ∧ (∃ (r : RegionId) (s : State), (regionAt s.mod r.val).fwRestart = false ∧ (let c := (regionAt s.mod r.val).clock;
        (let top := peak s.mod (sitesOf r.val); c.throttle = false ∧ c.ceilingMhz < 1200 ∧ top < 356 ∧
        s.mod.thm.minclk = false)))
    ∧ (∃ (r : RegionId) (s : State), (regionAt s.mod r.val).fwRestart = false ∧ (let c := (regionAt s.mod r.val).clock;
        (let top := peak s.mod (sitesOf r.val); c.throttle = false ∧
        (1200 ≤ c.ceilingMhz ∨ 356 ≤ top ∨ s.mod.thm.minclk = true))))
    ∧ (∃ (s : State), s.mod.thm.minclk = false ∧ moduleAt s.mod 400 = true)
    ∧ (∃ (s : State), s.mod.thm.minclk = true ∧ moduleAt s.mod 380 = false ∧ coolFor s.mod 2 = true)
    ∧ (∃ (i : SiteId) (s : State), 2 ≤ (siteOf s.mod i.val).env.hotSamples ∧ s.mod.startup.step ≠ 0)
    ∧ (∃ (i : SiteId) (s : State), (siteOf s.mod i.val).env.hotSamples < 2)
    ∧ (∃ (i : SiteId) (o : Bool) (s : State), (regionAt s.mod (regionOf i.val)).fwRestart = false ∧
        (let e := (siteOf s.mod i.val).env; (if o then e.oSuspect else e.dSuspect) = false))
    ∧ (∃ (i : SiteId) (s : State), (regionAt s.mod (regionOf i.val)).fwRestart = false ∧
        (let e := (siteOf s.mod i.val).env; (let ns := goodNeighbours s.mod i.val;
        (let total := (ns.map (siteTemp s.mod)).sum; e.dSuspect = false ∧ e.oSuspect = false ∧
        24 < Machine.dist e.dQ e.oQ ∧ ns ≠ [] ∧
        Machine.dist (ns.length * e.dQ) total < Machine.dist (ns.length * e.oQ) total))))
    ∧ (∃ (i : SiteId) (s : State), (regionAt s.mod (regionOf i.val)).fwRestart = false ∧
        (let e := (siteOf s.mod i.val).env; (let ns := goodNeighbours s.mod i.val;
        (let total := (ns.map (siteTemp s.mod)).sum; e.dSuspect = false ∧ e.oSuspect = false ∧
        24 < Machine.dist e.dQ e.oQ ∧ ns ≠ [] ∧
        Machine.dist (ns.length * e.oQ) total < Machine.dist (ns.length * e.dQ) total)))) := by
  refine ⟨?_, ?_, ?_, ?_, ?_, ?_, ?_, ?_, ?_, ?_, ?_, ?_, ?_, ?_⟩
  · exact ⟨1535, 367, 367, tOn id id, by decide +kernel⟩
  · exact ⟨1535, 368, 368, tOn id id, by decide +kernel⟩
  · exact ⟨63, tClk (fun c => { c with throttle := true }) 368, by decide +kernel⟩
  · exact ⟨63, tClk (fun c => { c with throttle := true }) 356, by decide +kernel⟩
  · exact ⟨63, tClk (fun c => { c with throttle := true }) 355, by decide +kernel⟩
  · exact ⟨63, tClk (fun c => { c with ceilingMhz := 1100 }) 355, by decide +kernel⟩
  · exact ⟨63, tClk id 0, by decide +kernel⟩
  · exact ⟨tClk id 400, by decide +kernel⟩
  · exact ⟨tMod (tOn id id) (fun m => { m with time := 1000000000, thm := { m.thm with minclk := true, hotSince := [some 0, some 0, some 0] } }), by decide +kernel⟩
  · exact ⟨1535, tOn id (fun e => { e with hotSamples := 2 }), by decide +kernel⟩
  · exact ⟨1535, tOn id (fun e => { e with hotSamples := 1 }), by decide +kernel⟩
  · exact ⟨1535, true, tOn id id, by decide +kernel⟩
  · exact ⟨1535, tOn id (fun e => { e with dQ := 0, oQ := 25 }), by decide +kernel⟩
  · exact ⟨1535, tOn id (fun e => { e with dQ := 25, oQ := 0 }), by decide +kernel⟩

/-- Witness for `Carousel`. -/
theorem test_wit_Carousel :
    (∃ (k : Fin 592) (s : State), rmAlive s.mod = true ∧ k.val < 16)
    ∧ (∃ (k : Fin 592) (s : State) (h : _), rmAlive s.mod = true ∧ 16 ≤ k.val ∧ k.val < 80 ∧
        evaluates s.mod (k.val - 16) = true ∧
        32 + coolest s.mod (goodCells s.mod (k.val - 16)) < peak s.mod (goodCells s.mod (k.val - 16)) ∧
        rateOk s.mod (regionAt s.mod (k.val - 16)).clock.carouselTime 10000000 = true ∧
        hottest s.mod (goodCells s.mod (k.val - 16)) = some h)
    ∧ (∃ (k : Fin 592) (s : State) (x : _), rmAlive s.mod = true ∧ 80 ≤ k.val ∧
        partOf? s.mod ((k.val - 80) / 32) = some x ∧ (let j := (k.val - 80) % 32; (let c := mget x.cars j carNone;
        c.valid = true ∧ 32 < Machine.dist (peak s.mod (frameSites x c.frameA)) (peak s.mod (frameSites x c.frameB)) ∧
        rateOk s.mod c.lastSwap 1000000000 = true ∧ x.draining = [] ∧ swapStaged x = false)))
    ∧ (∃ (r : RegionId) (s : State), (regionAt s.mod r.val).fwRestart = false)
    ∧ (∃ (p : PartId) (s : State) (x : Part), partOf? s.mod p.val = some x)
    ∧ (∃ (p : PartId) (k : Fin 32) (s : State) (x : Part), partOf? s.mod p.val = some x ∧
        (let c := mget x.cars k.val carNone; c.valid = false ∧ carRejected x c = true))
    ∧ (∃ (p : PartId) (k : Fin 32) (s : State) (x : Part), partOf? s.mod p.val = some x ∧
        (let c := mget x.cars k.val carNone; c.valid = false ∧ carRejected x c = false)) := by
  refine ⟨?_, ?_, ?_, ?_, ?_, ?_, ?_⟩
  · exact ⟨15, tLive tBase, by decide +kernel⟩
  · exact ⟨79, tClk id 33, 1535, by decide +kernel⟩
  · exact ⟨591, tSwapS true, tSwapX true, by decide +kernel⟩
  · exact ⟨63, tBase, by decide +kernel⟩
  · exact ⟨15, tBase, tPart, by decide +kernel⟩
  · exact ⟨15, 31, tBase, tPart, by decide +kernel⟩
  · exact ⟨15, 31, tSwapS false, tSwapX false, by decide +kernel⟩

/-- Witness for `CoolantWarnings`. -/
theorem test_wit_CoolantWarnings :
    (∃ (s : State), 2 ≤ s.mod.startup.step)
    ∧ (∃ (s : State), 2 ≤ s.mod.startup.step)
    ∧ (∃ (s : State), 2 ≤ s.mod.startup.step)
    ∧ (∃ (s : State), 2 ≤ s.mod.startup.step) := by
  refine ⟨?_, ?_, ?_, ?_⟩
  · exact ⟨tOn id id, by decide +kernel⟩
  · exact ⟨tOn id id, by decide +kernel⟩
  · exact ⟨tOn id id, by decide +kernel⟩
  · exact ⟨tOn id id, by decide +kernel⟩

/-- The members of Ringmaster in given states. -/
def tMembers (w e : MemberState) (f : Rm → Rm) : State :=
  tMod tBase (fun m => { m with rm := f { m.rm with west := ⟨w, false, 1⟩, east := ⟨e, false, 1⟩ } })
/-- An activation of the last region or of a member. -/
def tActivation (kind region : Nat) : Activation := ⟨tA, 65535, kind, region, 0⟩
/-- The last region's controller restarting. -/
def tRestart (f : Rm → Rm) : State :=
  tMod tBase (fun m => { (updRegion m 63 (fun y => { y with fwRestart := true })) with rm := f m.rm })
/-- The pins changed. -/
def tPins (f : Pins → Pins) : State := tMod tBase (fun m => { m with pins := f m.pins })
/-- The last host's link up and its event ring changed. -/
def tRinged (f : EvRing → EvRing) : State := tMod (tLinked id) (fun m => updHost m 3 (fun y => { y with ring := f y.ring }))
/-- The last host's unlock window open. -/
def tOpen : State := tMod (tLinked id) (fun m => updHost m 3 (fun y => { y with eholdOpen := true }))
/-- The management domains on, and more of the module. -/
def tMgmt (f : Mod → Mod) : State := tMod tBase (fun m => f { m with pwr := { m.pwr with mgmtOn := 3 } })
/-- A message that carries no line though its header counts one. -/
def tBadWrite : Instr := .write 15 3 0 [] tSide

/-- Witness for `EveryStepAnswers`: a state with a good queue, and the command at which a step stops. -/
theorem test_wit_EveryStepAnswers :
    QueueOk State.reset ∧ ∃ s : State, step s = .fault .illFormed ∧ s.pending = [tBadWrite] ∧ tBadWrite.wellFormed = false :=
  ⟨fun _ h => absurd h (List.not_mem_nil), { State.reset with pending := [tBadWrite] }, rfl, rfl, by decide⟩

/-- Witness for `FusesOnlyGrow`. -/
theorem test_wit_FusesOnlyGrow : ∃ (f : Fuses) (s t : State), FusesGrow f s.fuses ∧ step s = .next t :=
  ⟨Fuses.reset, State.reset, State.reset,
    ⟨fun _ h => h, Nat.le_refl _, Nat.le_refl _, fun h => h, fun h => h, rfl⟩, rfl⟩

/-- Witness for `Members`. -/
theorem test_wit_Members :
    (∃ (s : State), rmAlive s.mod = true ∧ (rmOther s.mod).state = .standby)
    ∧ (∃ (s : State), rmAlive s.mod = true ∧ (rmOther s.mod).state ≠ .standby)
    ∧ (∃ (s : State), (rmActive s.mod).state = .boot)
    ∧ (∃ (s : State), (rmActive s.mod).state ≠ .boot ∧ rmAlive s.mod = true ∧ (rmOther s.mod).state = .boot ∧
        s.mod.rm.activation = none)
    ∧ (∃ (s : State) (t : Nat), s.mod.rm.failedAt = some t ∧ (rmActive s.mod).state = .boot)
    ∧ (∃ (s : State) (t : Nat), s.mod.rm.failedAt = some t ∧ (rmActive s.mod).state ≠ .boot ∧ (rmOther s.mod).state = .boot)
    ∧ (∃ (s : State) (a : Activation), s.mod.rm.activation = some a ∧ a.kind = 1 ∧ a.region = 0 ∧
        (rmOther s.mod).state = .boot) := by
  refine ⟨?_, ?_, ?_, ?_, ?_, ?_, ?_⟩
  · exact ⟨tMembers .active .standby id, by decide +kernel⟩
  · exact ⟨tMembers .active .failed id, by decide +kernel⟩
  · exact ⟨tMembers .boot .off id, by decide +kernel⟩
  · exact ⟨tMembers .active .boot id, by decide +kernel⟩
  · exact ⟨tMembers .boot .failed (fun r => { r with failedAt := some 0 }), 0, by decide +kernel⟩
  · exact ⟨tMembers .active .boot (fun r => { r with failedAt := some 0 }), 0, by decide +kernel⟩
  · exact ⟨tMembers .active .boot (fun r => { r with activation := some (tActivation 1 0) }), tActivation 1 0, by decide +kernel⟩

/-- Witness for `FirmwareAndConfiguration`. -/
theorem test_wit_FirmwareAndConfiguration :
    (∃ (hs : HostId) (e : SqEntry) (h : HostSide) (s : State) (m : Mod) (c : Cmd), Taken (.admin hs) e h 0x48 s m c ∧
        entryClean e false true false [(0, 8)] = true ∧ (argN e 0 1 = 1 ∨ argN e 0 1 = 2) ∧
        rejected (hostOf m hs.val) e.addr0.toNat e.len0.toNat = false)
    ∧ (∃ (hs : HostId) (e : SqEntry) (h : HostSide) (s : State) (m : Mod) (c : Cmd), Taken (.admin hs) e h 0x49 s m c ∧
        entryClean e false false false [(0, 8)] = true ∧ (argN e 0 1 = 1 ∨ argN e 0 1 = 2))
    ∧ (∃ (r : RegionId) (s : State), (regionAt s.mod r.val).fwRestart = true ∧ (let b := bestRcB s.mod;
        (let m1 := { s.mod with rm := { s.mod.rm with rcSlotB := s.mod.rm.rcSlotB.set r.val b } };
        (let m3 := endRestart s.fuses (rgFlag (updRegion m1 r.val (fun y => { y with fwSeq := (slotAt s.mod 2 b).sequence })) r.val 4) r.val;
        m3.rm.activation = none))))
    ∧ (∃ (r : RegionId) (s : State) (a : _), (regionAt s.mod r.val).fwRestart = true ∧ (let b := bestRcB s.mod;
        (let m1 := { s.mod with rm := { s.mod.rm with rcSlotB := s.mod.rm.rcSlotB.set r.val b } };
        (let m3 := endRestart s.fuses (rgFlag (updRegion m1 r.val (fun y => { y with fwSeq := (slotAt s.mod 2 b).sequence })) r.val 4) r.val;
        m3.rm.activation = some a ∧ a.kind = 2 ∧ a.region = r.val))))
    ∧ (∃ (r : RegionId) (s : State), (regionAt s.mod r.val).fwRestart = true)
    ∧ (∃ (hs : HostId) (e : SqEntry) (h : HostSide) (s : State) (m : Mod) (c : Cmd), Taken (.admin hs) e h 0x4A s m c ∧
        entryClean e false true false [] = true ∧ e.len0.toNat = 4096 ∧
        rejected (hostOf m hs.val) e.addr0.toNat 4096 = false)
    ∧ (∃ (hs : HostId) (e : SqEntry) (h : HostSide) (s : State) (m : Mod) (c : Cmd), Taken (.admin hs) e h 0x4B s m c ∧
        entryClean e false true false [] = true) := by
  refine ⟨?_, ?_, ?_, ?_, ?_, ?_, ?_⟩
  · exact ⟨3, (tBuf 0x48 0 1 2048), tSide, tAdm (tBuf 0x48 0 1 2048) id, tAdmM (tBuf 0x48 0 1 2048) id, tCmd (tBuf 0x48 0 1 2048), taken_adm (by decide +kernel), by decide +kernel⟩
  · exact ⟨3, (tEnt 0x49 0 2), tSide, tAdm (tEnt 0x49 0 2) id, tAdmM (tEnt 0x49 0 2) id, tCmd (tEnt 0x49 0 2), taken_adm (by decide +kernel), by decide +kernel⟩
  · exact ⟨63, tRestart id, by decide +kernel⟩
  · exact ⟨63, tRestart (fun r => { r with activation := some (tActivation 2 63) }), tActivation 2 63, by decide +kernel⟩
  · exact ⟨63, tRestart id, by decide +kernel⟩
  · exact ⟨3, (tBuf 0x4A 0 0 4096), tSide, tAdm (tBuf 0x4A 0 0 4096) id, tAdmM (tBuf 0x4A 0 0 4096) id, tCmd (tBuf 0x4A 0 0 4096), taken_adm (by decide +kernel), by decide +kernel⟩
  · exact ⟨3, (tBuf 0x4B 0 0 4096), tSide, tAdm (tBuf 0x4B 0 0 4096) id, tAdmM (tBuf 0x4B 0 0 4096) id, tCmd (tBuf 0x4B 0 0 4096), taken_adm (by decide +kernel), by decide +kernel⟩

/-- Witness for `Ledger`. -/
theorem test_wit_Ledger :
    (∃ (s : State), 3 ≤ s.mod.startup.step ∧ rmAlive s.mod = true ∧ s.mod.ledger.committing = false)
    ∧ (∃ (s : State), s.mod.ledger.committing = true)
    ∧ (∃ (hs : HostId) (e : SqEntry) (h : HostSide) (s : State) (m : Mod) (c : Cmd), Taken (.admin hs) e h 0x50 s m c ∧
        entryClean e false true false [(0, 8), (64, 64)] = true)
    ∧ (∃ (hs : HostId) (e : SqEntry) (h : HostSide) (s : State) (m : Mod) (c : Cmd), Taken (.admin hs) e h 0x51 s m c ∧
        entryClean e false false false [(64, 64)] = true) := by
  refine ⟨?_, ?_, ?_, ?_⟩
  · exact ⟨tLive (tMod tBase (fun m => { m with startup := { m.startup with step := 3 } })), by decide +kernel⟩
  · exact ⟨tMod tBase (fun m => { m with ledger := { m.ledger with committing := true } }), by decide +kernel⟩
  · exact ⟨3, (tBuf 0x50 0 0 64), tSide, tAdm (tBuf 0x50 0 0 64) id, tAdmM (tBuf 0x50 0 0 64) id, tCmd (tBuf 0x50 0 0 64), taken_adm (by decide +kernel), by decide +kernel⟩
  · exact ⟨3, (tEnt 0x51 0 0), tSide, tAdm (tEnt 0x51 0 0) id, tAdmM (tEnt 0x51 0 0) id, tCmd (tEnt 0x51 0 0), taken_adm (by decide +kernel), by decide +kernel⟩

/-- Witness for `StartUp`. -/
theorem test_wit_StartUp :
    (∃ (s : State), s.mod.pins.pwrEn = false)
    ∧ (∃ (env : StartEnv) (s : State), waitingAt s.mod 1 = some env)
    ∧ (∃ (env : StartEnv) (s : State), waitingAt s.mod 2 = some env)
    ∧ (∃ (env : StartEnv) (s : State), waitingAt s.mod 2 = some env ∧ s.mod.pwr.mgmtOn ≠ 0)
    ∧ (∃ (env : StartEnv) (s : State), waitingAt s.mod 4 = some env) := by
  refine ⟨?_, ?_, ?_, ?_, ?_⟩
  · exact ⟨tBase, by decide +kernel⟩
  · exact ⟨tEnv, tWaits 1 0, by decide +kernel⟩
  · exact ⟨tEnv, tWaits 2 0, by decide +kernel⟩
  · exact ⟨tEnv, tWaits 2 3, by decide +kernel⟩
  · exact ⟨tEnv, tWaits 4 3, by decide +kernel⟩

/-- Witness for `ShutDown`. -/
theorem test_wit_ShutDown :
    (∃ (hs : HostId) (e : SqEntry) (h : HostSide) (s : State) (m : Mod) (c : Cmd), Taken (.admin hs) e h 0x5C s m c ∧
        entryClean e false false false [(0, 1), (32, 32)] = true)
    ∧ (∃ (s : State), s.mod.startup.shutCmd.isSome = true ∧ s.mod.startup.parkDeadline.isSome = true)
    ∧ (∃ (s : State), s.mod.pins.pwrEn = true)
    ∧ (∃ (s : State), s.mod.pins.pwrEn = true ∧ s.mod.pins.modRst = false)
    ∧ (∃ (s : State), s.mod.pins.pwrEn = true)
    ∧ (∃ (s : State), s.mod.pins.modRst = true) := by
  refine ⟨?_, ?_, ?_, ?_, ?_, ?_⟩
  · exact ⟨3, (tEnt 0x5C 0 1), tSide, tAdm (tEnt 0x5C 0 1) id, tAdmM (tEnt 0x5C 0 1) id, tCmd (tEnt 0x5C 0 1), taken_adm (by decide +kernel), by decide +kernel⟩
  · exact ⟨tMod tBase (fun m => { m with startup := { m.startup with shutCmd := some (tA, 1), parkDeadline := some 0 } }), by decide +kernel⟩
  · exact ⟨tPins (fun p => { p with pwrEn := true }), by decide +kernel⟩
  · exact ⟨tPins (fun p => { p with pwrEn := true }), by decide +kernel⟩
  · exact ⟨tPins (fun p => { p with pwrEn := true }), by decide +kernel⟩
  · exact ⟨tPins (fun p => { p with modRst := true }), by decide +kernel⟩

/-- Witness for `EventRingAndEmergencyHold`. -/
theorem test_wit_EventRingAndEmergencyHold :
    (∃ (h : HostId) (s : State), (hostOf s.mod h.val).linkUp = true ∧ (let m := eholdClose h.val s.mod;
        (let r := (hostOf m h.val).ring; r.enable = false ∧ (r.log2 < 6 ∨ 16 < r.log2))))
    ∧ (∃ (h : HostId) (s : State), (hostOf s.mod h.val).linkUp = true ∧ (let m := eholdClose h.val s.mod;
        (let r := (hostOf m h.val).ring; r.enable = false ∧ 6 ≤ r.log2 ∧ r.log2 ≤ 16)))
    ∧ (∃ (h : HostId) (s : State), (hostOf s.mod h.val).linkUp = true ∧ (let m := eholdClose h.val s.mod;
        (let r := (hostOf m h.val).ring; r.enable = true)))
    ∧ (∃ (h : HostId) (s : State), (hostOf s.mod h.val).linkUp = true ∧ (let m := eholdClose h.val s.mod;
        (let r := (hostOf m h.val).ring; r.state = .active)))
    ∧ (∃ (h : HostId) (s : State), (hostOf s.mod h.val).linkUp = true ∧ rmAlive s.mod = true)
    ∧ (∃ (h : HostId) (s : State), (hostOf s.mod h.val).linkUp = true ∧ (hostOf s.mod h.val).eholdOpen = false)
    ∧ (∃ (h : HostId) (s : State), (hostOf s.mod h.val).linkUp = true ∧ (hostOf s.mod h.val).eholdOpen = false)
    ∧ (∃ (h : HostId) (s : State), (hostOf s.mod h.val).linkUp = true ∧ (let m := eholdClose h.val s.mod;
        (hostOf s.mod h.val).eholdOpen = true ∧ rmAlive m = true))
    ∧ (∃ (h : HostId) (s : State), (hostOf s.mod h.val).linkUp = true ∧ (let m := eholdClose h.val s.mod;
        (hostOf s.mod h.val).eholdOpen = true ∧ rmAlive m = true ∧ m.startup.shutdown = false)) := by
  refine ⟨?_, ?_, ?_, ?_, ?_, ?_, ?_, ?_, ?_⟩
  · exact ⟨3, tRinged (fun r => { r with log2 := 17 }), by decide +kernel⟩
  · exact ⟨3, tRinged (fun r => { r with log2 := 16 }), by decide +kernel⟩
  · exact ⟨3, tRinged (fun r => { r with enable := true }), by decide +kernel⟩
  · exact ⟨3, tRinged (fun r => { r with state := .active }), by decide +kernel⟩
  · exact ⟨3, tLinked id, by decide +kernel⟩
  · exact ⟨3, tLinked id, by decide +kernel⟩
  · exact ⟨3, tLinked id, by decide +kernel⟩
  · exact ⟨3, tOpen, by decide +kernel⟩
  · exact ⟨3, tOpen, by decide +kernel⟩

/-- Witness for `RegisterAccesses`. -/
theorem test_wit_RegisterAccesses :
    (∃ (h : HostId) (fn : Fin 17) (off : Nat) (s : State), (hostOf s.mod h.val).linkUp = true ∧ inBar fn.val off = false)
    ∧ (∃ (h : HostId) (fn : Fin 17) (off : Nat) (s : State), (hostOf s.mod h.val).linkUp = true ∧ inBar fn.val off = true ∧ off % 4 ≠ 0)
    ∧ (∃ (h : HostId) (fn : Fin 17) (off : Nat) (s : State), (hostOf s.mod h.val).linkUp = true ∧ inBar fn.val off = true ∧
        off % 4 = 0 ∧ fn.val = 0)
    ∧ (∃ (h : HostId) (fn : Fin 17) (off : Nat) (s : State), (hostOf s.mod h.val).linkUp = true ∧ inBar fn.val off = true ∧ off % 4 = 0 ∧
        fn.val ≠ 0 ∧ (∃ x, partOf? s.mod (fn.val - 1) = some x ∧ partHost x = h.val))
    ∧ (∃ (h : HostId) (fn : Fin 17) (off : Nat) (s : State), (hostOf s.mod h.val).linkUp = true ∧ off % 4 = 0 ∧
        fn.val ≠ 0 ∧ (∀ x, partOf? s.mod (fn.val - 1) = some x → partHost x ≠ h.val))
    ∧ (∃ (h : HostId) (fn : Fin 17) (off : Nat) (s : State), (hostOf s.mod h.val).linkUp = true ∧ inBar fn.val off = true ∧ off % 4 ≠ 0)
    ∧ (∃ (h : HostId) (fn : Fin 17) (off : Nat) (s : State), (hostOf s.mod h.val).linkUp = true ∧ inBar fn.val off = false)
    ∧ (∃ (h : HostId) (fn : Fin 17) (off : Nat) (s : State), (hostOf s.mod h.val).linkUp = true ∧ off % 4 = 0 ∧
        readReg s.fuses s.mod h.val fn.val off = none)
    ∧ (∃ (h : HostId) (fn : Fin 17) (off : Nat) (s : State) (v : _), (hostOf s.mod h.val).linkUp = true ∧ off % 4 = 0 ∧
        readReg s.fuses s.mod h.val fn.val off = some v)
    ∧ (∃ (h : HostId) (a : Access) (s : State), (hostOf s.mod h.val).linkUp = true ∧ plainAccess a = true)
    ∧ (∃ (h : HostId) (a : Access) (s : State), (hostOf s.mod h.val).linkUp = true ∧ plainAccess a = false ∧ a.write = true)
    ∧ (∃ (h : HostId) (a : Access) (s : State), (hostOf s.mod h.val).linkUp = true ∧ plainAccess a = false ∧
        a.write = false) := by
  refine ⟨?_, ?_, ?_, ?_, ?_, ?_, ?_, ?_, ?_, ?_, ?_, ?_⟩
  · exact ⟨3, 16, 1048576, tLinked id, by decide +kernel⟩
  · exact ⟨3, 16, 1048575, tLinked id, by decide +kernel⟩
  · exact ⟨3, 0, 67108860, tLinked id, by decide +kernel⟩
  · exact ⟨3, 16, 0, tHostedS id, by decide +kernel, by decide +kernel, by decide, by decide, tHosted id, by decide +kernel, by decide +kernel⟩
  · exact ⟨3, 16, 0, tLinked id, by decide +kernel, by decide, by decide, fun x hx => by
      rw [show partOf? (tLinked id).mod ((16 : Fin 17).val - 1) = some tPart by decide +kernel] at hx
      injection hx with hx
      subst hx
      decide +kernel⟩
  · exact ⟨3, 0, 67108863, tLinked id, by decide +kernel⟩
  · exact ⟨3, 0, 67108864, tLinked id, by decide +kernel⟩
  · exact ⟨3, 16, 4, tLinked id, by decide +kernel⟩
  · exact ⟨3, 0, 0, tLinked id, (readReg (tLinked id).fuses (tLinked id).mod 3 0 0).getD 0, by decide +kernel⟩
  · exact ⟨3, ⟨0, 4, true⟩, tLinked id, by decide +kernel⟩
  · exact ⟨3, ⟨0, 1, true⟩, tLinked id, by decide +kernel⟩
  · exact ⟨3, ⟨2, 4, false⟩, tLinked id, by decide +kernel⟩

/-- Witness for `ManagementPorts`. -/
theorem test_wit_ManagementPorts :
    (∃ (s : State), s.mod.pwr.mgmtOn ≠ 0)
    ∧ (∃ (s : State), s.mod.pwr.mgmtOn ≠ 0)
    ∧ (∃ (s : State), s.mod.pwr.mgmtOn ≠ 0)
    ∧ (∃ (s : State), s.mod.pwr.mgmtOn ≠ 0)
    ∧ (∃ (s : State), s.mod.pwr.mgmtOn ≠ 0 ∧ s.mod.startup.step < 4)
    ∧ (∃ (s : State) (i : _), s.mod.pwr.mgmtOn ≠ 0 ∧ 4 ≤ s.mod.startup.step ∧
        hottest s.mod (s.mod.sites.map Prod.fst) = some i)
    ∧ (∃ (s : State), s.mod.pwr.mgmtOn ≠ 0)
    ∧ (∃ (s : State), s.mod.pwr.mgmtOn ≠ 0)
    ∧ (∃ (s : State), s.mod.pwr.mgmtOn ≠ 0)
    ∧ (∃ (s : State), s.mod.pwr.mgmtOn ≠ 0)
    ∧ (∃ (s : State), s.mod.pwr.mgmtOn ≠ 0)
    ∧ (∃ (s : State), s.mod.pwr.mgmtOn ≠ 0 ∧ s.fuses.debugLevel = 0)
    ∧ (∃ (s : State), s.mod.pwr.mgmtOn ≠ 0 ∧ s.fuses.debugLevel = 0)
    ∧ (∃ (s : State), s.mod.pwr.mgmtOn ≠ 0 ∧ s.fuses.debugLevel ≠ 0)
    ∧ (∃ (s : State), s.mod.pwr.mgmtOn ≠ 0 ∧ s.mod.pins.smbAlert = true)
    ∧ (∃ (s : State), s.mod.pwr.mgmtOn ≠ 0 ∧ s.mod.pins.smbAlert = false)
    ∧ (∃ (s : State) (c w bs : _), s.mod.pwr.mgmtOn = 0 ∧
        c ∈ [Instr.smbStartCode, .smbStatus, .smbVin, .smbInputPower, .smbHottestSite, .smbCoolantInlet, .smbCoolantOutlet, .smbFlow, .smbModuleId, .smbGrade, .smbDebugConsole w bs, .smbAlertResponse])
    ∧ (∃ (s : State), s.mod.pwr.mgmtOn ≠ 0)
    ∧ (∃ (s : State), s.mod.pwr.mgmtOn ≠ 0)
    ∧ (∃ (s : State), s.mod.pwr.mgmtOn ≠ 0)
    ∧ (∃ (s : State), s.mod.pwr.mgmtOn ≠ 0)
    ∧ (∃ (s : State), s.mod.pwr.mgmtOn ≠ 0)
    ∧ (∃ (s : State), s.mod.pwr.mgmtOn ≠ 0 ∧ jtagAllowed s.fuses s.mod = true)
    ∧ (∃ (s : State), s.mod.pwr.mgmtOn ≠ 0 ∧ jtagAllowed s.fuses s.mod = false) := by
  refine ⟨?_, ?_, ?_, ?_, ?_, ?_, ?_, ?_, ?_, ?_, ?_, ?_, ?_, ?_, ?_, ?_, ?_, ?_, ?_, ?_, ?_, ?_, ?_, ?_⟩
  · exact ⟨tMgmt id, by decide +kernel⟩
  · exact ⟨tMgmt id, by decide +kernel⟩
  · exact ⟨tMgmt id, by decide +kernel⟩
  · exact ⟨tMgmt id, by decide +kernel⟩
  · exact ⟨tMgmt id, by decide +kernel⟩
  · exact ⟨tMgmt (fun m => { m with startup := { m.startup with step := 4 } }), 1535, by decide +kernel⟩
  · exact ⟨tMgmt id, by decide +kernel⟩
  · exact ⟨tMgmt id, by decide +kernel⟩
  · exact ⟨tMgmt id, by decide +kernel⟩
  · exact ⟨tMgmt id, by decide +kernel⟩
  · exact ⟨tMgmt id, by decide +kernel⟩
  · exact ⟨tMgmt id, by decide +kernel⟩
  · exact ⟨tMgmt id, by decide +kernel⟩
  · exact ⟨tFused (tMgmt id) (fun f => { f with debugLevel := 1 }), by decide +kernel⟩
  · exact ⟨tMgmt (fun m => { m with pins := { m.pins with smbAlert := true } }), by decide +kernel⟩
  · exact ⟨tMgmt id, by decide +kernel⟩
  · exact ⟨tBase, .smbStatus, true, [], by decide +kernel, by simp⟩
  · exact ⟨tMgmt id, by decide +kernel⟩
  · exact ⟨tMgmt id, by decide +kernel⟩
  · exact ⟨tMgmt id, by decide +kernel⟩
  · exact ⟨tMgmt id, by decide +kernel⟩
  · exact ⟨tMgmt id, by decide +kernel⟩
  · exact ⟨tMgmt id, by decide +kernel⟩
  · exact ⟨tFused (tMgmt id) (fun f => { f with jtagLock := true }), by decide +kernel⟩

/-- Witness for `FrontOfTheQueue`. -/
theorem test_wit_FrontOfTheQueue :
    (∃ (c : Instr) (rest : List Instr) (s : State), s.pending = c :: rest)
    ∧ (∃ (s : State), s.pending = []) := by
  refine ⟨?_, ?_⟩
  · exact ⟨.seamUp, [], { State.reset with pending := [.seamUp] }, by decide +kernel⟩
  · exact ⟨State.reset, by decide +kernel⟩

/-- Witness for `EngineInstructionsAreLocal`. -/
theorem test_wit_EngineInstructionsAreLocal :
    ∃ (i : Issue) (c : Instr), c ∈ [Instr.mmul i, .dapply i, .nop i, .copy i, .quant i, .dequant i, .add i, .mul i, .scale i, .rmsnorm i, .layernorm i, .softmax i, .act i, .gate i, .rope i, .accClear i, .setp i] := by
  exact ⟨tIssue (tVec 0 []) 0, .setp (tIssue (tVec 0 []) 0), by simp⟩

/-- The eastern fabric clock locked, the last site at `q` quarter degrees, the half reduced or not and below 90 °C since 0. -/
def tHalf (q now : Nat) (red : Bool) : State :=
  tMod (tClk id q) (fun m => { m with
    clk := { m.clk with fclkELock := true }, thm := { m.thm with fabricE := red, hotSince := [none, some 0, none] }, time := now })

/-- Witness for `LoadsPowerAndClocksComplete`. -/
theorem test_wit_LoadsPowerAndClocksComplete :
    (∃ (p : PartId) (bs : List Byte) (s : State) (x : Part) (pl : Plan) (t : StoreRead) (rest : List StoreRead) (f : Packed)
        (r : RingRef) (c : Cmd), partOf? s.mod p.val = some x ∧
        s.mod.requests.any (fun q => q.part = p.val && !q.write && q.cls = 2) = false ∧ x.storeReads = t :: rest ∧
        x.plan = some pl ∧ recordVerifies pl bs = true ∧ recordFits pl t.copy bs = true ∧
        packedOf pl.cacheFormat = some f ∧ runningOf p.val x 7 t.handle = some (r, c))
    ∧ (∃ (r : RingRef) (e : SqEntry) (h : HostSide) (s : State) (m : Mod) (c : Cmd) (p : Nat) (x : Part), Taken r e h 0x20 s m c ∧
        OnPart m r p x ∧ entryClean e false true true [(0, 64), (64, 64), (128, 64), (192, 8), (200, 8)] = true ∧ argN e 24 1 ≤ 64 ∧
        argN e 25 1 = 0 ∧ argN e 16 8 % 8 = 0 ∧ argN e 0 8 % 8 = 0 ∧ 64 ≤ e.len1.toNat ∧ x.plan = none ∧ x.load = none ∧
        planBuffers (hostOf m (ringHost m r)) e = true ∧
        (let img := hostRead (hostOf m (ringHost m r)) e.addr0.toNat e.len0.toNat
         let vals := (List.range (argN e 24 1)).map (fun i => leNat (hostRead (hostOf m (ringHost m r)) (argN e 16 8 + 8 * i) 8))
         planChecks s.fuses m p x img e.len0.toNat vals = .ok ()))
    ∧ (∃ (p : PartId) (bs : List Byte) (s : State) (x : Part) (l : Load) (k : Chunk) (site : Nat) (vc : VCore),
        partOf? s.mod p.val = some x ∧ x.load = some l ∧ l.headerDue = false ∧ l.plan.chunks[l.next]? = some k ∧
        l.plan.source = 0 ∧ bs.length = 72 * k.lines ∧ crc32c bs = k.crc ∧ l.plan.sites[k.vcore]? = some site ∧
        l.plan.vcores[k.vcore]? = some vc)
    ∧ (∃ (r : RingRef) (e : SqEntry) (h : HostSide) (s : State) (m : Mod) (c : Cmd) (p : Nat) (x : Part), Taken r e h 0x21 s m c ∧
        OnPart m r p x ∧ entryClean e false false false [] = true ∧ x.load = none ∧ x.plan.isSome = true ∧ unloadNow m x = true)
    ∧ (∃ (v : BitVec 32) (s : State), 128 ≤ fld v 0 8 ∧ fld v 0 8 < 144 ∧
        (groupOf s.mod (fld v 0 8 - 128)).enable = false ∧ (groupOf s.mod (fld v 0 8 - 128)).owner = none)
    ∧ (∃ (r : RegionId) (s : State), (regionAt s.mod r.val).power.core = .ramp)
    ∧ (∃ (r : RegionId) (s : State) (k : Nat), (regionAt s.mod r.val).power.core = .wait ∧ k ∈ quadRegions (quadrantOf r.val) ∧
        k ≠ r.val ∧ coreUp s.mod k = true)
    ∧ (∃ (s : State), refPresent s.mod.clk = true ∧ (if s.mod.clk.sel1 then s.mod.clk.ref0 else s.mod.clk.ref1) = true)
    ∧ (∃ (s : State), s.mod.pwr.mgmtOn ≠ 0 ∧ waitingAt s.mod 2 = none)
    ∧ (∃ (east : Bool) (s : State), (if east then s.mod.clk.fclkELock else s.mod.clk.fclkWLock) = true ∧
        (if east then s.mod.thm.fabricE else s.mod.thm.fabricW) = false ∧ halfAt s.mod east 384 = true)
    ∧ (∃ (east : Bool) (s : State), (if east then s.mod.clk.fclkELock else s.mod.clk.fclkWLock) = true ∧
        (if east then s.mod.thm.fabricE else s.mod.thm.fabricW) = true ∧ s.mod.thm.minclk = false ∧
        halfAt s.mod east 360 = false ∧ coolFor s.mod (if east then 1 else 0) = true) := by
  refine ⟨test_wit_StoresWalksEpoch.2.1, ?_, ?_, ?_, ?_, ?_, ?_, ?_, ?_, ?_, ?_⟩
  · have h := tImg_ready 0 [] (by decide +kernel) (by decide +kernel) (by decide +kernel) (by decide +kernel)
    exact ⟨tR, tImgE 0, tSide, tImgS 0 [], tImgM 0 [], tCmd (tImgE 0), 15, tImgP 0, h.1, h.2.1, by decide +kernel,
      by decide, by decide, by decide, by decide, by decide, rfl, rfl, h.2.2.1, h.2.2.2⟩
  · exact ⟨15, leBytes 72 0, tPartly (fun x => { x with load := some (tLoad 2) }), tPartOf (tPartly (fun x => { x with load := some (tLoad 2) })), tLoad 2, ⟨0, 0, false, 0, 0, 1, 128, crc32c (leBytes 72 0)⟩, 1535, ⟨[], [], [], [0, 0, 0, 0], 0, 0, 0, 0⟩, by decide +kernel⟩
  · exact ⟨tR, (tEnt 0x21 0 0), tSide, tAskS (tEnt 0x21 0 0) id, tAskM (tEnt 0x21 0 0) id, tCmd (tEnt 0x21 0 0), 15, tAsk (tEnt 0x21 0 0) id, taken_ask (by decide +kernel), onPart_ask (by decide +kernel), by decide +kernel⟩
  · exact ⟨143, tBase, by decide +kernel⟩
  · exact ⟨63, tPow (fun y => { y with core := .ramp }), by decide +kernel⟩
  · exact ⟨63, tMod (tPow (fun y => { y with core := .wait })) (fun m => updPower m 62 (fun y => { y with core := .on })), 62, by decide +kernel⟩
  · exact ⟨tMod tBase (fun m => { m with clk := { m.clk with ref0 := true, ref1 := true } }), by decide +kernel⟩
  · exact ⟨tMod tBase (fun m => { m with pwr := { m.pwr with mgmtOn := 3 } }), by decide +kernel⟩
  · exact ⟨true, tHalf 384 0 false, by decide +kernel⟩
  · exact ⟨true, tHalf 359 1000000000 true, by decide +kernel⟩

end Sys2Proof.Machine
end

section
/-! The two numberings of the grid (R15): a site id is the digit pair (y, x) in base 32. A region with a local index
holds the same four digits in another order: y splits in base 6 and x in base 4. -/
namespace Sys2Proof.Machine
open Sys2Proof

/-! ### A site from its position -/

@[simp] theorem xOf_position {x : Nat} (y : Nat) (hx : x < 32) : xOf (32 * y + x) = x := by
  rw [xOf, Nat.mul_add_mod, Nat.mod_eq_of_lt hx]

@[simp] theorem yOf_position {x : Nat} (y : Nat) (hx : x < 32) : yOf (32 * y + x) = y := by
  rw [yOf, Nat.mul_add_div (by decide), Nat.div_eq_of_lt hx, Nat.add_zero]

theorem position_of_site (s : Nat) : 32 * yOf s + xOf s = s := Nat.div_add_mod s 32

theorem xOf_lt (s : Nat) : xOf s < 32 := Nat.mod_lt s (by decide)

theorem regionOf_position {x : Nat} (y : Nat) (hx : x < 32) : regionOf (32 * y + x) = 8 * (y / 6) + x / 4 := by
  rw [regionOf, xOf_position y hx, yOf_position y hx]

theorem localOf_position {x : Nat} (y : Nat) (hx : x < 32) : localOf (32 * y + x) = 4 * (y % 6) + x % 4 := by
  rw [localOf, xOf_position y hx, yOf_position y hx]

/-! ### A site from its region and local index -/

theorem localColumn_lt (r l : Nat) : 4 * (r % 8) + l % 4 < 32 := by omega

@[simp] theorem xOf_siteAt (r l : Nat) : xOf (siteAt r l) = 4 * (r % 8) + l % 4 :=
  xOf_position _ (localColumn_lt r l)

@[simp] theorem yOf_siteAt (r l : Nat) : yOf (siteAt r l) = 6 * (r / 8) + l / 4 :=
  yOf_position _ (localColumn_lt r l)

/-- A local index below 24 has a local row below 6, so it does not carry into the region's row. -/
@[simp] theorem regionOf_siteAt (r : Nat) {l : Nat} (hl : l < 24) : regionOf (siteAt r l) = r := by
  have hrow : (6 * (r / 8) + l / 4) / 6 = r / 8 := by omega
  have hcol : (4 * (r % 8) + l % 4) / 4 = r % 8 := by omega
  rw [regionOf, xOf_siteAt, yOf_siteAt, hrow, hcol, Nat.div_add_mod]

@[simp] theorem localOf_siteAt (r : Nat) {l : Nat} (hl : l < 24) : localOf (siteAt r l) = l := by
  have hrow : (6 * (r / 8) + l / 4) % 6 = l / 4 := by omega
  have hcol : (4 * (r % 8) + l % 4) % 4 = l % 4 := by omega
  rw [localOf, xOf_siteAt, yOf_siteAt, hrow, hcol, Nat.div_add_mod]

/-! ### The digits of a site's region and local index -/

theorem regionOf_div_mod (s : Nat) : regionOf s / 8 = yOf s / 6 ∧ regionOf s % 8 = xOf s / 4 := by
  have hx := xOf_lt s
  rw [regionOf]
  omega

theorem localOf_div_mod (s : Nat) : localOf s / 4 = yOf s % 6 ∧ localOf s % 4 = xOf s % 4 := by
  rw [localOf]
  omega

@[simp] theorem siteAt_regionOf_localOf (s : Nat) : siteAt (regionOf s) (localOf s) = s := by
  obtain ⟨hregionRow, hregionColumn⟩ := regionOf_div_mod s
  obtain ⟨hlocalRow, hlocalColumn⟩ := localOf_div_mod s
  rw [siteAt, hregionRow, hregionColumn, hlocalRow, hlocalColumn, Nat.div_add_mod, Nat.div_add_mod, position_of_site]

/-! ### The obligation -/

/-- Settles O53: both numberings are read off the digits, so each conversion undoes the other. -/
theorem gridNumbering : Obligations.GridNumbering := by
  refine ⟨fun x y hx hy => ?_, fun r l _ hl => ?_, fun s _ => siteAt_regionOf_localOf s⟩
  · have hregion := regionOf_position y hx
    have hlocal := localOf_position y hx
    exact ⟨xOf_position y hx, yOf_position y hx, by omega, hregion, by omega, by omega, by omega,
      hlocal, by omega, by omega, by omega⟩
  · exact ⟨xOf_siteAt r l, yOf_siteAt r l, (position_of_site _).symm, regionOf_siteAt r hl, localOf_siteAt r hl⟩

end Sys2Proof.Machine
end

section
/-! What the engines' instructions share (R43, R45, R47, R53, R54): fallible computations, operands in their segments, and a
command as a run of its engine. -/
namespace Sys2Proof.Machine
open Sys2Proof

/-! ### Fallible computations -/

/-- A computation that answers hands its value on. -/
theorem bind_eq_ok {ε α β : Type} {e : Except ε α} {f : α → Except ε β} {a : α} {b : β} (he : e = .ok a)
    (hf : f a = .ok b) : e >>= f = .ok b := by
  rw [he]; exact hf

/-- What a computation answers, its first part answered to its second. -/
theorem ok_of_bind_eq_ok {ε α β : Type} {e : Except ε α} {f : α → Except ε β} {b : β} (h : e >>= f = .ok b) :
    ∃ a, e = .ok a ∧ f a = .ok b := by
  cases e with
  | error t => cases h
  | ok a => exact ⟨a, rfl, h⟩

/-! ### Operands -/

/-- The operands a segment holds (R43). -/
theorem segAddr_eq_ok_iff {c : Core} {seg off n a : Nat} :
    segAddr c seg off n = .ok a ↔ off + n ≤ (c.seg.getD seg (0, 0)).2 ∧ (c.seg.getD seg (0, 0)).1 + off = a := by
  by_cases h : off + n ≤ (c.seg.getD seg (0, 0)).2 <;> simp only [segAddr, h, if_true, if_false] <;> simp

/-- Counting an issue moves no segment. -/
theorem segAddr_bumpDone {c : Core} {e seg off n a : Nat} (h : segAddr c seg off n = .ok a) :
    segAddr (bumpDone e c) seg off n = .ok a := by
  rw [segAddr_eq_ok_iff] at h ⊢; exact h

/-- A run of entries below the file's end lies in it (R63). -/
theorem accRange_eq_ok {c : Core} {a n : Nat} (h : a + n ≤ 32768) : accRange c a n = .ok () := if_pos h

/-- A transfer with room in its ring and queue goes on (R47, R54). -/
theorem staging_of_room {m : Mod} {s q n : Nat} (h : Room m s q n) (go : AccOut) : staging m s q n go = go := by
  obtain ⟨hring, hqueue⟩ := h
  have hlines : ¬ ringLines (siteOf m s).core q < n := by omega
  have hwait : ¬ (ringLines (siteOf m s).core q < stagedLines (siteOf m s).core q + n
      ∨ 64 ≤ ((siteOf m s).core.queues.getD q []).length) := by omega
  simp only [staging, if_neg hlines, if_neg hwait]

/-- Reading a transfer's source changes no issue count. -/
theorem scratchSource_issues {i : Issue} {n : Nat} {c c1 : Core} {ls : List Line} (h : scratchSource i n c = .ok (c1, ls)) :
    c1.done = c.done := by
  obtain ⟨a, -, h⟩ := ok_of_bind_eq_ok h
  obtain ⟨⟨c2, ws⟩, hread, h⟩ := ok_of_bind_eq_ok h
  cases h
  exact readWords_issues hread

/-! ### A command as a run of its engine -/

/-- A command without fuses answers the state with the module its meaning answers. -/
theorem exec_eq_withMod {c : Instr} {s : State} {f : Mod → Mod} {m : Mod} (hx : exec c s = lift f s) (hm : f s.mod = m) :
    exec c s = .next (s.withMod m) := by
  rw [hx, lift_withMod, hm]

section
variable {ins : Instr} {s : State} {op : Nat} {i : Issue} {x : Part} {c d d' : Core}

/-- An instruction that acts and completes, as a command. -/
theorem exec_compute_done {e : Nat} {bad : InstrWord → Bool} {f : Part → Core → Except (Core × Trap) Core}
    (hx : exec ins s = lift (fun m => runCompute m e op i false bad f) s) (h : Computes e op i s x c)
    (hb : bad i.word = false) (hf : f x c = .ok d) (hr : resumes e d = false) (hd : completeCore i.word d = .ok d') :
    exec ins s = .next (s.withMod (updCore s.mod i.site.val (fun _ => bumpDone e d'))) :=
  exec_eq_withMod hx (runCompute_done h hb hf hr hd)

/-- A function of the source values that is written and completes, as a command (R67). -/
theorem exec_vector_done {param : Bool} {g : Part → Core → List B32 → Except (Core × Trap) (Core × List B32)} {c1 c2 : Core}
    {vs ys : List B32} (hx : exec ins s = lift (fun m => runVector m op i param g) s) (h : Computes 3 op i s x c)
    (hb : badVecFmt i.word = false) (hv : vBounds param x i.word c = .ok ()) (hs : vSource i.scratch x i.word c = .ok (c1, vs))
    (hg : g x c1 vs = .ok (c2, ys)) (hd : vDest x i.word c2 ys = .ok d) (he : completeCore i.word d = .ok d') :
    exec ins s = .next (s.withMod (updCore s.mod i.site.val (fun _ => bumpDone 3 d'))) :=
  exec_compute_done hx h hb (bind_eq_ok hv (bind_eq_ok hs (bind_eq_ok hg hd))) rfl he

end

end Sys2Proof.Machine
end

section
/-! An instruction of a compute engine changes its own core only (R45, R53, R78). -/
namespace Sys2Proof.Machine
open Sys2Proof

/-- A command that is a run of a compute engine changes its own core only (R53). -/
theorem exec_compute_local {c : Instr} {s : State} {e op : Nat} {i : Issue} {late : Bool} {bad : InstrWord → Bool}
    {f : Part → Core → Except (Core × Trap) Core} (hx : exec c s = lift (fun m => runCompute m e op i late bad f) s) :
    ∃ t, exec c s = .next (s.withMod t) ∧ CoreOnly s.mod t i.site.val :=
  ⟨_, exec_eq_withMod hx rfl, coreOnly_runCompute s.mod e op i late bad f⟩

/-- So does one that is a function of the vector engine's source values (R67). -/
theorem exec_vector_local {c : Instr} {s : State} {op : Nat} {i : Issue} {param : Bool}
    {g : Part → Core → List B32 → Except (Core × Trap) (Core × List B32)}
    (hx : exec c s = lift (fun m => runVector m op i param g) s) :
    ∃ t, exec c s = .next (s.withMod t) ∧ CoreOnly s.mod t i.site.val :=
  exec_compute_local hx

/-- Settles O56: each of the 17 instructions is a run of a compute engine, which changes its own core only. -/
theorem engineInstructionsAreLocal : Obligations.EngineInstructionsAreLocal := by
  intro i s c hc
  simp only [List.mem_cons, List.not_mem_nil, or_false] at hc
  rcases hc with rfl | rfl | rfl | rfl | rfl | rfl | rfl | rfl | rfl | rfl | rfl | rfl | rfl | rfl | rfl | rfl | rfl
  -- MMUL to DEQUANT, the element-wise functions ADD to GATE, and ROPE, ACC_CLEAR and SETP
  iterate 6 exact exec_compute_local rfl
  iterate 8 exact exec_vector_local rfl
  iterate 3 exact exec_compute_local rfl

end Sys2Proof.Machine
end

section
/-! The access engine (R54-R56): streams, cache walks and writes. -/
namespace Sys2Proof.Machine
open Sys2Proof

/-- Settles O1: the operand lies in its segment and the ring has room, so the instruction is done and its list moves on. -/
theorem accessStreams : Obligations.AccessStreams := by
  refine ⟨?wstream, ?wfetch⟩
  case wstream =>
    intro i s x b pos a h hz ha hroom
    refine exec_eq_withMod (f := doWstream i) rfl ?_
    rw [doWstream]
    exact runAccess_done h (by simp [hz]) (by simp only [ha, staging_of_room hroom])
  case wfetch =>
    intro i s x b pos win h hz hroom hwin
    refine exec_eq_withMod (f := doWfetch i) rfl ?_
    rw [doWfetch]
    exact runAccess_done h (by simp [hz]) (by simp only [hwin, staging_of_room hroom])

/-- Settles O2: the operands can be read and the queue has room, so each instruction is done and its list moves on. -/
theorem accessWrites : Obligations.AccessWrites := by
  refine ⟨?vmwrite, ?kvread, ?kvappend⟩
  case vmwrite =>
    intro i s x b pos v a c1 ws h hz hv ha hr hroom
    refine exec_eq_withMod (f := doVmwrite i) rfl ?_
    rw [doVmwrite]
    refine runAccess_done h (by simp [hz]) ?_
    simp only [hv, ha, hr, bind, Except.bind, pure, Except.pure, staging_of_room hroom]
  case kvread =>
    intro i s x b pos p pl f h hb hz hp hpl hf hk hroom t hall
    refine exec_eq_withMod (f := doKvread i) rfl ?_
    rw [doKvread]
    refine runAccess_done h (by simp [hb, hz]) ?_
    simp only [hp, hpl, Option.bind_some, hf, hk, if_true, staging_of_room hroom, if_neg (Nat.not_le.mpr hroom.2), List.drop_zero]
    exact if_pos hall
  case kvappend =>
    intro i s x b pos a pl f c1 ls h hb hz hpl hf ha hr hroom
    refine exec_eq_withMod (f := doKvappend i) rfl ?_
    rw [doKvappend]
    refine runAccess_done h (by simp [hb, hz]) ?_
    simp only [hpl, Option.bind_some, hf, ha, hr, bind, Except.bind, staging_of_room hroom]

end Sys2Proof.Machine
end

section
/-! The matrix engine and the delta lane (R57-R66). -/
namespace Sys2Proof.Machine
open Sys2Proof

/-- Settles O4: the operands pass their checks in turn, and then the columns are multiplied. -/
theorem mmulResult : Obligations.MmulResult := by
  intro i s x c c1 d e fw q fmt a h hb hacc hfw hq hfmt ha hw hcols he
  refine exec_compute_done rfl h hb ?_ rfl he
  subst hfmt
  rw [← Nat.add_sub_cancel (fld i.word 50 6) 1] at hacc
  refine bind_eq_ok hacc ?_
  simp only [hfw, hq]
  exact bind_eq_ok ha (bind_eq_ok hw hcols)

/-- `DAPPLY` on the core, its activations in their segment. -/
theorem dapplyCore_eq_ok {i : Issue} {x : Part} {c d : Core} {a : Nat}
    (ha : segAddr c (fld i.word 71 3) (fld i.word 74 22)
      ((fld i.word 50 6 + 1) * operandWords (resolveFmt x c (wLayer i.word) (fld i.word 38 6)) (32 * fld i.word 96 16)) = .ok a)
    (hd : applyBlocks i x a c.deltaQ c = .ok d) : dapplyCore i x c = .ok d :=
  bind_eq_ok ha hd

/-- Settles O3: all blocks fit, so none is left for later; a `DAPPLY` goes on exactly where no last block was met. -/
theorem DeltaLane.deltaBlocks : Obligations.DeltaBlocks := by
  refine ⟨?delta, ?dapply⟩
  case delta =>
    intro i s x b pos h hn hmax hz hk hroom hfit
    refine exec_eq_withMod (f := doDelta i) rfl ?_
    rw [doDelta]
    refine runAccess_done h (by simp [hn, hmax, hz]) ?_
    simp only [hk, List.drop_zero, List.take_of_length_le hfit, staging_of_room hroom, if_true]
    exact if_neg (by simp)
  case dapply =>
    intro i s x c d a h hb ha hd
    refine ⟨fun hmore => ?_, fun e hlast he => ?_⟩
    · exact exec_eq_withMod rfl (runCompute_resumes h hb (dapplyCore_eq_ok ha hd) (by simpa [resumes] using hmore))
    · exact exec_compute_done rfl h hb (dapplyCore_eq_ok ha hd) (by simp [resumes, hlast]) he

end Sys2Proof.Machine
end

section
/-! The vector engine (R67-R71). -/
namespace Sys2Proof.Machine
open Sys2Proof

/-- Settles O5: the parameter operand is read where the function takes one, and the values are the function's. -/
theorem vectorElementwise : Obligations.VectorElementwise := by
  refine ⟨?add, ?mul, ?scale, ?act, ?gate⟩
  case add | mul | gate =>
    intro i s x c c1 vs c2 ps d e h hb hv hs hp hd he
    exact exec_vector_done rfl h hb hv hs (bind_eq_ok hp rfl) hd he
  case scale | act =>
    intro i s x c c1 vs d e h hb hv hs hd he
    exact exec_vector_done rfl h hb hv hs rfl hd he

/-- Settles O6, whatever values the free functions of log entry 10 take. -/
theorem vectorNormalise : Obligations.VectorNormalise := by
  refine ⟨?rmsnorm, ?layernorm, ?softmax⟩
  case rmsnorm | layernorm =>
    intro i s x c c1 vs c2 ps d e h hb hv hs hp hd he
    exact exec_vector_done rfl h hb hv hs (bind_eq_ok hp rfl) hd he
  case softmax =>
    intro i s x c c1 vs d e h hb hv hs hd he
    exact exec_vector_done rfl h hb hv hs rfl hd he

/-! ### Moves -/

/-- Settles O7: a `COPY` keeps lines in one case only, and every other one decodes and encodes as `DEQUANT` does. -/
theorem vectorMoves : Obligations.VectorMoves := by
  refine ⟨?nop, ?copyLines, ?copyValues, ?dequant, ?accClear, ?setp⟩
  case nop =>
    intro i s x c e h hb he
    exact exec_compute_done rfl h hb rfl rfl he
  case copyLines =>
    intro i s x c d e f h hb hsrc hdst hf16 hf32 hacc hdacc hd he
    exact exec_compute_done rfl h hb (by simp only [hsrc, hdst, hacc, hdacc]; simpa [hf16, hf32] using hd) rfl he
  case copyValues =>
    intro i s x c c1 d e vs h hb hconv hv hs hd he
    exact exec_compute_done rfl h hb ((if_neg (by tauto)).trans (bind_eq_ok hv (bind_eq_ok hs hd))) rfl he
  case dequant =>
    intro i s x c c1 d e vs h hb hv hs hd he
    exact exec_compute_done rfl h hb (bind_eq_ok hv (bind_eq_ok hs hd)) rfl he
  case accClear =>
    intro i s x c e h hb hr he
    exact exec_compute_done rfl h hb (bind_eq_ok (accRange_eq_ok hr) rfl) rfl he
  case setp =>
    intro i s x c e h hz he
    exact exec_compute_done rfl h (by simp [hz]) rfl rfl he

/-! ### Quantisation and rotation -/

/-- The key lines of an entry that holds them in its format are rotated into the destination (R266). -/
theorem ropeKeys_eq_ok {i : Issue} {x : Part} {c c1 d : Core} {f : Packed} {q b g0 : Nat} {e : QEntry}
    (hp : entryPlace f (max 1 (entryRun f (headerWord e 1))) (max 1 (fld i.word 48 22 / 9)) = (b, g0))
    (hr : readStaged i.scratch c q e (0 :: entryLinesOf f b g0 (vCount i.word)) = .ok c1)
    (hf : (entryLinesOf f b g0 (vCount i.word)).all (fun j => fmtMatch (tagFmt (e.lines.getD j 0)) f.code) = true)
    (hd : vDest x i.word c1 (rotateAll (fun j => headerWord e 2 + g0 / 128 + j) (entryKeys f e b g0 (vCount i.word))) = .ok d) :
    ropeKeys i x c f q e = .ok d := by
  have hnone : (entryLinesOf f b g0 (vCount i.word)).find? (fun j => !fmtMatch (tagFmt (e.lines.getD j 0)) f.code) = none := by
    simpa using hf
  rw [ropeKeys, hp]
  refine bind_eq_ok hr ?_
  simp only [hnone, hd]

/-- Settles O8: `QUANT` has one way to run, `ROPE` three, after where the positions come from. -/
theorem vectorQuantRope : Obligations.VectorQuantRope := by
  refine ⟨?quant, ?positions, ?queries, ?keys⟩
  case quant =>
    intro i s x c c1 e vs a h hb hz hv hs fmt static enc ha he
    refine exec_compute_done rfl h hb ?_ rfl he
    exact (if_neg (not_not_intro hz)).trans (bind_eq_ok hv (bind_eq_ok hs (bind_eq_ok ha rfl)))
  case positions =>
    intro i s x c c1 c2 d e vs ps h hb hq hv hs hp hd he
    refine exec_compute_done rfl h hb ?_ rfl he
    simp only [hq]
    exact bind_eq_ok hv (bind_eq_ok hs (bind_eq_ok hp hd))
  case queries =>
    intro i s x c c0 c1 d e vs q h hb hq hhead hsel hv hr hs hd he
    refine exec_compute_done rfl h hb ?_ rfl he
    simp only [hq, hhead, hsel]
    exact bind_eq_ok hv (bind_eq_ok hr (bind_eq_ok hs hd))
  case keys =>
    intro i s x c c1 d e q f b g0 h hb hq hhead hsel hf hacc hseg hp hr htag hd he
    have hkeys := ropeKeys_eq_ok hp hr htag hd
    refine exec_compute_done rfl h hb ?_ rfl he
    simp only [hq, hhead, hsel, hf, if_true]
    cases hdst : bit i.word 73 with
    | true => exact bind_eq_ok (hacc hdst) hkeys
    | false =>
      obtain ⟨a, ha⟩ := hseg hdst
      exact bind_eq_ok ha hkeys

end Sys2Proof.Machine
end

section
/-! The transfer engine (R74-R76, R190, R191). -/
namespace Sys2Proof.Machine
open Sys2Proof

/-- Settles O10: what a transfer reads changes no issue count, so its issue counts and its packets go out. -/
theorem transfers : Obligations.Transfers := by
  refine ⟨?send, ?recv, ?gread, ?gwrite⟩
  case send =>
    intro i s x c c1 ls h hfence h4 hz hsrc
    refine exec_eq_withMod (f := doSend i) rfl ?_
    rw [doSend]
    exact runTransfer_done _ h hfence (by simp [hz]) (by rw [hsrc]; rfl) (scratchSource_issues hsrc) h4
  case recv =>
    intro i s x c e h hlo hhi he
    exact exec_compute_done rfl h (by simp [hlo, hhi]) rfl rfl he
  case gread =>
    intro i s x c win a h hfence h4 hb hwin ha
    refine exec_eq_withMod (f := doGread i) rfl ?_
    rw [doGread]
    refine (runTransfer_done _ h hfence hb (by rw [ha]; rfl) rfl h4).trans ?_
    simp only [hwin, siteOf_updCore_same, segAddr_bumpDone ha]
  case gwrite =>
    intro i s x c c1 ls win h hfence h4 hb hwin hsrc
    refine exec_eq_withMod (f := doGwrite i) rfl ?_
    rw [doGwrite]
    refine (runTransfer_done _ h hfence hb (by rw [hsrc]; rfl) (scratchSource_issues hsrc) h4).trans ?_
    simp only [hwin]

end Sys2Proof.Machine
end

section
/-! BEAT_TIMEOUT with a partner whose answer is missing (R208, R370, R379): the partner its ledger entry names. -/
namespace Sys2Proof.Machine
open Sys2Proof

/-! ### Posting an event -/

theorem deliver_ledger (m : Mod) (e : Event) (lost : Option Nat) : (deliver m e lost).ledger = m.ledger :=
  forAll_keeps Mod.ledger (fun m h => by split <;> simp) m _

theorem deliver_partners (m : Mod) (e : Event) (lost : Option Nat) : (deliver m e lost).partners = m.partners :=
  forAll_keeps Mod.partners (fun m h => by split <;> simp) m _

@[simp] theorem post_partners (m : Mod) (code : Nat) (partition : Option Nat) (pl : BitVec 192) :
    (post m code partition pl).partners = m.partners := by
  simp only [post, postWith, deliver_partners]

/-- The payload of the newest ledger entry. -/
def lastPayload (m : Mod) : Option (BitVec 192) := m.ledger.entries.getLast?.map LedgerEntry.payload

/-- The entry just written is the newest, whatever the log drops to keep its length (R474). -/
theorem lastPayload_ledgerAdd (m : Mod) (event cls flags : Nat) (pl : BitVec 192) :
    lastPayload (ledgerAdd m event cls flags pl) = some pl := by
  have hdrop (l : List LedgerEntry) (e : LedgerEntry) : ((l ++ [e]).drop ((l ++ [e]).length - 4096)).getLast? = some e := by
    rw [List.getLast?_drop, if_neg (by simp), List.getLast?_concat]
  simp only [lastPayload, ledgerAdd, hdrop, Option.map_some]

theorem lastPayload_postLedger (m : Mod) (code : Nat) (partition : Option Nat) (cls flags : Nat) (pl : BitVec 192) :
    lastPayload (postLedger m code partition cls flags pl) = some pl := by
  have hlast := lastPayload_ledgerAdd m code cls flags pl
  simp only [lastPayload, postLedger, postWith, deliver_ledger] at hlast ⊢
  exact hlast

/-! ### Faulting a partition -/

/-- A partition whose host is there loses nothing when it stops (R314). -/
theorem lossStop_eq_self {m : Mod} {p : Nat} {x : Part} (hp : partOf? m p = some x) (hx : x.holdHost = false) :
    lossStop m p = m := by
  simp only [lossStop, hp, hx, Bool.false_and, Bool.false_eq_true, if_false]

theorem faultPart_partners {m : Mod} {p site code : Nat} {x : Part} (hp : partOf? m p = some x) (hx : x.holdHost = false) :
    (faultPart m p site code).partners = m.partners := by
  have hfaulted := partOf?_updPart_same m p (fun y => { y with
    frame0 := if y.frame0 = .idle then .idle else .faulted,
    firstSite := if y.frame0 = .faulted then y.firstSite else site,
    firstCode := if y.frame0 = .faulted then y.firstCode else code })
  rw [hp] at hfaulted
  rw [faultPart, lossStop_eq_self hfaulted hx, updPart_partners]

/-! ### The bits of a payload -/

theorem testBit_at (lo len v j : Nat) :
    (at_ lo len v).testBit j = (decide (lo ≤ j ∧ j < lo + len) && v.testBit (j - lo)) := by
  rw [at_, Nat.testBit_shiftLeft, Nat.testBit_mod_two_pow]
  by_cases hlo : lo ≤ j
  · have hlen : j - lo < len ↔ j < lo + len := by omega
    simp [hlo, hlen]
  · simp [hlo]

/-- A bit of a word of fields is a bit of some field there (R8). -/
theorem testBit_fields (fs : List (Nat × Nat × Nat)) (j : Nat) :
    (fields fs).testBit j = fs.any (fun f => decide (f.1 ≤ j ∧ j < f.1 + f.2.1) && f.2.2.testBit (j - f.1)) := by
  have hfold (a : Nat) : (fs.foldl (fun a f => a ||| at_ f.1 f.2.1 f.2.2) a).testBit j
      = (a.testBit j || fs.any (fun f => decide (f.1 ≤ j ∧ j < f.1 + f.2.1) && f.2.2.testBit (j - f.1))) := by
    induction fs generalizing a with
    | nil => simp
    | cons f fs ih => rw [List.foldl_cons, ih, Nat.testBit_or, testBit_at, List.any_cons, Bool.or_assoc]
  rw [fields, hfold, Nat.zero_testBit, Bool.false_or]

/-- Bits [15:8] of an Olix event's payload are the index of a partner table entry (R379). -/
theorem fld_olixPayload_index (m : Mod) (g k idx node cause lane p moduleId : Nat) :
    fld (olixPayload m g k idx node cause lane p moduleId) 8 8 = idx % 2 ^ 8 := by
  apply Nat.eq_of_testBit_eq
  intro j
  rw [fld, Nat.testBit_mod_two_pow, Nat.testBit_mod_two_pow, Nat.testBit_shiftRight, olixPayload, payload,
    BitVec.toNat_ofNat, Nat.testBit_mod_two_pow, testBit_fields]
  by_cases hj : j < 8
  · have hlow : ¬ 8 + j < 4 ∧ ¬ 8 + j < 6 := by omega
    have hhigh : ¬ 16 ≤ 8 + j ∧ ¬ 24 ≤ 8 + j ∧ ¬ 32 ≤ 8 + j ∧ ¬ 40 ≤ 8 + j ∧ ¬ 64 ≤ 8 + j ∧ ¬ 128 ≤ 8 + j := by omega
    have hin : 8 + j < 192 ∧ 8 + j < 16 := by omega
    simp [hj, hlow, hhigh, hin, timeField]
  · simp [hj]

/-! ### The obligation -/

/-- The module whose ledger BEAT_TIMEOUT writes to when the answer of a partner is missing (R208): the late cores are
recorded, FAB_FAULT is posted and the partition stands still. -/
def stalledByPartner (m : Mod) (p : Nat) (x : Part) : Mod :=
  let m1 := updPart (faultPart (forAll m (partRegions m x) (fun m r => fabFlag m r 5)) p (lateSite m x) 0x26) p (fun y => { y with
    late := lateCores m x })
  updPart (post m1 0x0306 none (fabPayload m1 0xFFFF p 0x26 0 0)) p (fun y => { y with faultStall := true })

/-- What the model does then: the ledger entry names the partner by its index in the partner table. -/
theorem doBeatTimeout_awaitsPartner {m : Mod} {p : Nat} {x : Part} {q : Request} (hp : partOf? m p = some x)
    (hrun : beatsRun x = true) (hpartner : x.holdPartner = false) (hseam : x.holdSeam = false)
    (hhw : hardwareFault m p = false) (hq : awaitsPartner m p = some q) :
    doBeatTimeout p m = (let m2 := stalledByPartner m p x
      postLedger m2 0x0708 none 6 0 (linkPayload m2 q.group q.link 0x2A 0 p (partnerOf m2 q.node))) := by
  simp only [doBeatTimeout, hp, hrun, hpartner, hseam, hhw, hq]
  rfl

/-- No entry of the partner table changes before the ledger entry is written. -/
theorem partnerOf_stalledByPartner {m : Mod} {p : Nat} {x : Part} (hp : partOf? m p = some x) (hx : x.holdHost = false)
    (node : Nat) : partnerOf (stalledByPartner m p x) node = partnerOf m node := by
  have hflagged : partOf? (forAll m (partRegions m x) (fun m r => fabFlag m r 5)) p = some x :=
    (forAll_keeps (partOf? · p) (fun m r => partOf?_updRegion m r _ p) m _).trans hp
  have hpartners : (stalledByPartner m p x).partners = m.partners := by
    simp only [stalledByPartner, updPart_partners, post_partners, faultPart_partners hflagged hx]
    exact forAll_keeps Mod.partners (fun m r => updRegion_partners m r _) m _
  rw [partnerOf, partnerOf, hpartners]

/-- Partner 0 of the module, PRESENT with node id 1. -/
def refutingPartner : Partner :=
  { index := 0, moduleId := 7, node := 1, role := 0, state := .present, caps := 0, links := 0, capacity := 0, bandwidth := 0,
    joined := 0, imageGen := 0, images := [], order := 0, lastHello := 0, poison := 0 }

/-- A plan request of partition 0 to that partner. -/
def refutingRequest : Request :=
  { tag := 0, group := 0, link := 0, node := 1, moduleId := 7, write := false, cls := 0, addr := 0, lines := 1, data := [],
    part := 0, site := none, rtag := 0, doff := 0, kept := false }

/-- A partition whose beats run. -/
def refutingPart : Part := { Part.create Mod.reset 0 [] .latency false with inStep := true, frame0 := .run }

/-- A module in which that partition awaits that partner. -/
def refutingState : State :=
  State.reset.withMod { Mod.reset with
    parts := [(0, refutingPart)], partners := [refutingPartner], requests := [refutingRequest] }

/-- Refutes O11: where a partner's answer is missing, the ledger entry of BEAT_TIMEOUT names the partner by its index in the
partner table, here 0, and the statement has 0xFF, which stands for no entry. -/
theorem not_beats : ¬ Obligations.Beats := by
  rintro ⟨-, htimeout⟩
  obtain ⟨-, hstated, -⟩ := htimeout 0 refutingState refutingPart rfl rfl rfl rfl
  have hhw : hardwareFault refutingState.mod 0 = false := rfl
  have hawaits : awaitsPartner refutingState.mod 0 = some refutingRequest := rfl
  have hmodel := exec_eq_withMod (c := .beatTimeout 0) (s := refutingState) rfl
    (doBeatTimeout_awaitsPartner rfl rfl rfl rfl hhw hawaits)
  have hnext := Host.Outcome.next.inj (hmodel.symm.trans (hstated refutingRequest hhw hawaits))
  have hindex := congrArg (fun s : State => (lastPayload s.mod).map (fld · 8 8)) hnext
  have hpartner : partnerOf (stalledByPartner refutingState.mod 0 refutingPart) refutingRequest.node = some refutingPartner :=
    partnerOf_stalledByPartner rfl rfl 1
  simp only [State.withMod, lastPayload_postLedger, linkPayload, fld_olixPayload_index, Option.map_some, Fin.val_zero,
    hpartner] at hindex
  exact absurd hindex (by decide)

end Sys2Proof.Machine
end

section
/-! The codes of the packed formats (R83-R87): E8M0 scales, and the elements in units of the element grid. -/
namespace Sys2Proof.Machine
open Sys2Proof

/-! ### Scales -/

/-- The layout of a packed format carries the format's own code (R80). -/
theorem packedOf_code {code : Nat} {f : Packed} (h : packedOf code = some f) : f.code = code := by
  unfold packedOf at h
  split at h
  all_goals cases h
  all_goals rfl

/-- NB3 (code 8) alone has a scale other than E8M0; an E8M0 code up to 254 is biased by 127 (R83). -/
theorem scaleExp_e8m0 {f : Packed} (hf : f.code ≠ 8) {c : Nat} (hc : c ≤ 254) : scaleExp f c = some ((c : Int) - 127) := by
  have hnan : c ≠ 255 := by omega
  rw [scaleExp, if_neg hf, if_neg hnan]

/-- The last E8M0 code has no exponent (R83). -/
theorem scaleExp_e8m0_nan {f : Packed} (hf : f.code ≠ 8) : scaleExp f 0xFF = none := by
  rw [scaleExp, if_neg hf, if_pos rfl]

/-- A scale adds its exponent to that of the element grid. -/
@[simp] theorem scaled_num (f : Packed) (v e : Int) :
    scaled f (.num v) (some e) = .fin (decide (v < 0)) v.natAbs (f.g + e) := rfl

/-- Under a scale without an exponent every element is NaN (R83). -/
@[simp] theorem scaled_none (f : Packed) (el : Elem) : scaled f el none = .nan := rfl

/-! ### The obligation -/

/-- Settles O54: of the packed formats only NB3 has no E8M0 scale, and each element table is evaluated code by code. -/
theorem elementValues : Obligations.ElementValues := by
  refine ⟨?scales, ?e2m1, ?e2m3, ?e3m2⟩
  case scales =>
    intro code f h hcode
    have hf : f.code ≠ 8 := packedOf_code h ▸ hcode
    have hnan : scaleExp f 0xFF = none := scaleExp_e8m0_nan hf
    refine ⟨fun c => scaleExp_e8m0 hf, hnan, ?num, ?nan⟩
    case num =>
      rintro _ v e rfl
      exact scaled_num f v e
    case nan =>
      intro el
      rw [hnan, scaled_none]
  case e2m1 | e2m3 | e3m2 =>
    rintro f ⟨⟩
    exact ⟨rfl, by decide⟩

end Sys2Proof.Machine
end

section
/-! The error watch (R125-R141, R453): captured tiles, scores, the end of a window, pending rises, the time at level 3. -/
namespace Sys2Proof.Machine
open Sys2Proof

/-! ### A captured tile -/

theorem doCheckTile_posts {m : Mod} {s p : Nat} {fs : List MemFault} {e : CheckEntry} (hp : partAtSite m s = some p)
    (he : (siteOf m s).core.reserve.find? (fun e => !e.results.isEmpty) = some e)
    (hr : (regionAt m (regionOf s)).fwRestart = false) :
    doCheckTile s fs m =
      let r := readLines m s e.source (tileLines e) fs
      updPart (updCore r.1 s (fun c => { c with reserve := c.reserve.erase e, checkDone := c.checkDone + 1 })) p
        (fun x => { x with scores := x.scores ++ [scoreTile s e r.2] }) := by
  simp only [doCheckTile, hp, he, hr, Bool.false_eq_true, if_false]

/-! ### The oldest score -/

/-- The layer's counter of non-finite tiles goes up by one (R127). -/
def countNonFinite (p layer : Nat) (m : Mod) : Mod :=
  updLayer m p layer (fun l => { l with nonfinite := sat16 (l.nonfinite + 1) })

/-- While the active Ringmaster member lives, the oldest score `sc` of partition `p` is of a layer the watch knows: its entry
in the plan is `e`, its state `l`. -/
structure ScoreAhead (m : Mod) (p : Nat) (x : Part) (sc : Score) (rest : List Score) (e : LayerEntry) (l : LayerSt) : Prop where
  alive : rmAlive m = true
  part : partOf? m p = some x
  oldest : x.scores = sc :: rest
  entry : layerEntry x sc.layer = some e
  layer : mget? x.layers sc.layer = some l

section
variable {m : Mod} {p : Nat} {x : Part} {sc : Score} {rest : List Score} {e : LayerEntry} {l : LayerSt}

/-- A tile that is not gross counts by its score, if it was taken at the layer's level (R127, R136). -/
theorem doScore_divergence (h : ScoreAhead m p x sc rest e l) (hg : sc.gross = none) {d : Nat} (hd : sc.score = some d) :
    doScore p m =
      let m1 := updPart m p (fun y => { y with scores := rest })
      if l.level = sc.level then takeScore m1 p e sc.layer d else countNonFinite p sc.layer m1 := by
  by_cases hl : l.level = sc.level
  · simp [doScore, h.part, h.alive, h.oldest, h.entry, h.layer, hg, hd, hl]
  · simp [doScore, h.part, h.alive, h.oldest, h.entry, h.layer, hg, hl, countNonFinite]

/-- Without a value a tile counts as non-finite at every level (R127). -/
theorem doScore_noValue (h : ScoreAhead m p x sc rest e l) (hg : sc.gross = none) (hd : sc.score = none) :
    doScore p m = countNonFinite p sc.layer (updPart m p (fun y => { y with scores := rest })) := by
  simp only [doScore, h.part, h.alive, h.oldest, h.entry, h.layer, hg, hd, countNonFinite, if_true, ite_self]

/-- A gross tile is recorded at every level (R130). -/
theorem doScore_gross (h : ScoreAhead m p x sc rest e l) {g : Nat} (hg : sc.gross = some g) (hd : sc.score = none) :
    doScore p m =
      let m1 := takeGross (updPart m p (fun y => { y with scores := rest })) p x l.level sc g
      if l.level = sc.level then m1 else countNonFinite p sc.layer m1 := by
  by_cases hl : l.level = sc.level
  · simp [doScore, h.part, h.alive, h.oldest, h.entry, h.layer, hg, hd, hl]
  · simp [doScore, h.part, h.alive, h.oldest, h.entry, h.layer, hg, hl, countNonFinite]

/-- Only a gross tile can retire its site (R131). -/
theorem doScoreReceived_notGross (h : ScoreAhead m p x sc rest e l) (hg : sc.gross = none) (fz : Fuses) :
    doScoreReceived fz p m = doScore p m := by
  simp only [doScoreReceived, h.part, Option.bind_some, h.oldest, List.head?_cons, hg, Option.isSome_none, Bool.and_false,
    Bool.false_and, Bool.false_eq_true, if_false]

/-- A gross tile retires its site when it is counted there and is the third within 600 s (R131, R453). -/
theorem doScoreReceived_gross (h : ScoreAhead m p x sc rest e l) {g : Nat} (hg : sc.gross = some g) (fz : Fuses) :
    doScoreReceived fz p m =
      if (siteOf (doScore p m) sc.site).env.gross ≠ (siteOf m sc.site).env.gross ∧ 3 ≤ grossRecent (doScore p m) sc.site then
        takeFault fz (doScore p m) p { site := sc.site, code := 0, cls := .core, partner := false }
      else doScore p m := by
  simp only [doScoreReceived, h.part, Option.bind_some, h.oldest, List.head?_cons, h.alive, hg, Option.isSome_some, Bool.true_and,
    Bool.and_eq_true, bne_iff_ne, decide_eq_true_eq]

end

/-! ### Windows, pending rises and the time at level 3 -/

section
variable {m : Mod} {p layer : Nat} {x : Part} {l : LayerSt}

theorem doQuantWindow_over (ha : rmAlive m = true) (hp : partOf? m p = some x) (hw : windowOver x = true) :
    doQuantWindow p m = forAll m (x.layers.map Prod.fst) (endWindow p) := by
  simp only [doQuantWindow, hp, ha, hw, Bool.and_self, if_true]

theorem doPending_free (ha : rmAlive m = true) (hp : partOf? m p = some x) (hl : mget? x.layers layer = some l)
    (hpend : l.pending = true) (hfree : levelFree x l = true) : doPending p layer m = trigger m p layer 4 := by
  simp only [doPending, hp, Option.bind_some, hl, ha, hpend, hfree, Bool.and_self, if_true]

theorem doLevel3_calm (ha : rmAlive m = true) (hp : partOf? m p = some x) (hl : mget? x.layers layer = some l)
    (h3 : l.level = 3) (hcalm : max l.changeStep l.calmStep + 65536 ≤ x.stepCount) :
    doLevel3 p layer m = narrow m p layer 6 := by
  simp only [doLevel3, hp, Option.bind_some, hl]
  exact if_pos ⟨ha, h3, hcalm⟩

end

/-! ### The obligation -/

/-- Settles O12: each command meets its guard, and the oldest score has three kinds: a value, no value, a gross ratio. -/
theorem errorWatchCommands : Obligations.ErrorWatchCommands := by
  refine ⟨?tile, ?score, ?window, ?layers⟩
  case tile =>
    intro i fs s p e hp he hr
    exact exec_eq_withMod (f := doCheckTile i.val fs) rfl (doCheckTile_posts hp he hr)
  case score =>
    intro p s x sc rest e l ha hp hx he hl
    have h : ScoreAhead s.mod p.val x sc rest e l := ⟨ha, hp, hx, he, hl⟩
    refine ⟨fun d hg hd => ?value, fun hg hd => ?noValue, fun g hg hd => ?gross⟩
    case value =>
      exact exec_eq_withMod (f := doScoreReceived s.fuses p.val) rfl
        ((doScoreReceived_notGross h hg _).trans (doScore_divergence h hg hd))
    case noValue =>
      exact exec_eq_withMod (f := doScoreReceived s.fuses p.val) rfl
        ((doScoreReceived_notGross h hg _).trans (doScore_noValue h hg hd))
    case gross =>
      refine exec_eq_withMod (f := doScoreReceived s.fuses p.val) rfl ?_
      rw [doScoreReceived_gross h hg, doScore_gross h hg hd]
      rfl
  case window =>
    intro p s x ha hp hw
    exact exec_eq_withMod (f := doQuantWindow p.val) rfl (doQuantWindow_over ha hp hw)
  case layers =>
    intro p layer s x l ha hp hl
    refine ⟨fun hpend hfree => ?pending, fun h3 hcalm => ?level3⟩
    case pending => exact exec_eq_withMod (f := doPending p.val layer.val) rfl (doPending_free ha hp hl hpend hfree)
    case level3 => exact exec_eq_withMod (f := doLevel3 p.val layer.val) rfl (doLevel3_calm ha hp hl h3 hcalm)

end Sys2Proof.Machine
end

section
/-! Maintenance of the vertical memory (R158-R162, R165, R166): scrub visits, row copies and refresh. -/
namespace Sys2Proof.Machine
open Sys2Proof

theorem sliceRuns_of_ready {m : Mod} {s : Nat} (h : (siteOf m s).slice.state = .ready) : sliceRuns m s = true :=
  decide_eq_true h

/-! ### Scrub -/

theorem doPatrolScrub_ready {m : Mod} {s : Nat} (h : (siteOf m s).slice.state = .ready) (fs : List MemFault) :
    doPatrolScrub m s fs =
      let u := (siteOf m s).slice.scrubPos
      updSlice (scrubUnit m s u fs) s (fun x => if u + 1 = unitsPerSlice then newPass x else { x with scrubPos := u + 1 }) :=
  if_pos (sliceRuns_of_ready h)

theorem doEarlyScrub_queued {m : Mod} {s u : Nat} {us : List Nat} (h : (siteOf m s).slice.state = .ready)
    (hq : (siteOf m s).slice.scrubQ = u :: us) (fs : List MemFault) :
    doEarlyScrub m s fs =
      updSlice (scrubUnit m s u fs) s (fun x => { x with scrubQ := x.scrubQ.filter (fun v => v != u) }) := by
  simp only [doEarlyScrub, sliceRuns_of_ready h, hq]

/-! ### Refresh -/

theorem doPeriodicRefresh_ready {m : Mod} {s : Nat} (h : (siteOf m s).slice.state = .ready) (ch b : Nat) :
    doPeriodicRefresh m s ch b = updBank m s (8 * ch + b) (fun x => { x with refreshRow := (x.refreshRow + 1) % 2069 }) :=
  if_pos (sliceRuns_of_ready h)

theorem doRefreshIntervalEnd_ready {m : Mod} {s : Nat} (h : (siteOf m s).slice.state = .ready) (ch b : Nat) :
    doRefreshIntervalEnd m s ch b = updBank m s (8 * ch + b) (fun x => { x with counters := [] }) :=
  if_pos (sliceRuns_of_ready h)

/-- The activation counters of a bank that reached `TR_THRESHOLD` (R166). -/
def dueCounters (m : Mod) (s k : Nat) : List (Nat × Nat) :=
  (bankOf (siteOf m s).slice k).counters.filter (fun p => (regionAt m (regionOf s)).trThreshold ≤ p.2)

theorem doTargetedRefresh_due {m : Mod} {s ch b : Nat} (h : (siteOf m s).slice.state = .ready)
    (hd : dueCounters m s (8 * ch + b) ≠ []) :
    doTargetedRefresh m s ch b =
      updSlice (updBank m s (8 * ch + b) (fun x => { x with
          counters := x.counters.filter (fun p => p.2 < (regionAt m (regionOf s)).trThreshold) }))
        s (fun x => { x with tref := x.tref + (dueCounters m s (8 * ch + b)).length }) := by
  have hgo : ¬ ((dueCounters m s (8 * ch + b)).isEmpty = true ∨ ¬ sliceRuns m s = true) :=
    not_or.mpr ⟨mt List.isEmpty_iff.mp hd, not_not_intro (sliceRuns_of_ready h)⟩
  exact if_neg hgo

/-- Whether a slice is hot once its hotter sensor shows `t` °C: between 82 and 85 °C it stays as it was (R165). -/
def hotAt (t : Nat) (was : Bool) : Bool := if 85 < t then true else if t < 82 then false else was

/-- Of a powered slice each change is posted; the payload's time is that of the sample (R165). -/
theorem doMemHotRefresh_powered {m : Mod} {s : Nat} (h : slicePowered (siteOf m s).slice = true) (lo hi : Nat) :
    doMemHotRefresh m s lo hi =
      let hot := hotAt (max lo hi) (siteOf m s).slice.hot
      let m1 := updSlice m s (fun x => { x with tempLower := lo, tempUpper := hi, hot := hot })
      if hot = (siteOf m s).slice.hot then m1
      else post m1 0x0207 none (memPayload m1 s 0x3F 0 0 0xFF 0 (b2n hot)) := by
  simp only [doMemHotRefresh, h, Bool.not_true, Bool.false_or, beq_iff_eq]
  rfl

/-! ### The obligation -/

/-- Settles O13: each command meets its guard; the end of a row copy goes through the steps the statement lists. -/
theorem memoryMaintenance : Obligations.MemoryMaintenance := by
  refine ⟨⟨?patrol, ?early, ?rowCopy⟩, ?refresh, ?hot⟩
  case patrol =>
    intro i fs s h
    exact exec_eq_withMod (f := (doPatrolScrub · i.val fs)) rfl (doPatrolScrub_ready h fs)
  case early =>
    intro i fs s u us h hq
    exact exec_eq_withMod (f := (doEarlyScrub · i.val fs)) rfl (doEarlyScrub_queued h hq fs)
  case rowCopy =>
    intro i ch b s rc hc
    refine exec_eq_withMod (f := (doRowCopyDone · i.val ch.val b.val)) rfl ?_
    simp only [doRowCopyDone, hc, Bool.not_eq_true]
  case refresh =>
    intro i ch b s h
    refine ⟨?row, ?interval, fun hd => ?targeted⟩
    case row =>
      exact exec_eq_withMod (f := (doPeriodicRefresh · i.val ch.val b.val)) rfl (doPeriodicRefresh_ready h _ _)
    case interval =>
      exact exec_eq_withMod (f := (doRefreshIntervalEnd · i.val ch.val b.val)) rfl (doRefreshIntervalEnd_ready h _ _)
    case targeted =>
      exact exec_eq_withMod (f := (doTargetedRefresh · i.val ch.val b.val)) rfl (doTargetedRefresh_due h hd)
  case hot =>
    rintro i lo hi s _ hp rfl
    exact exec_eq_withMod (f := (doMemHotRefresh · i.val lo.val hi.val)) rfl (doMemHotRefresh_powered hp _ _)

end Sys2Proof.Machine
end

section
/-! The fabric (R177-R217): packets and acknowledgements on their way, the epoch drain, the seam and mesh links. -/
namespace Sys2Proof.Machine
open Sys2Proof

/-! ### A packet at a router input -/

/-- The module once the packet `f` has left its input at site `s`, `fixed` of its flits corrected and those in `hits` lost:
the flits are counted, and a lost one is flagged (R177). -/
def leftInput (m : Mod) (s fixed : Nat) (f : Flight) (hits : List (Fin 33 × BitVec 144)) : Mod :=
  let m1 := updRouter { m with fabric := { m.fabric with flights := m.fabric.flights.erase f } } s
    (fun r => { r with flitCE := sat32 (r.flitCE + fixed), flitUE := sat32 (r.flitUE + hits.length) })
  if hits.isEmpty then m1 else fabFlag m1 (regionOf s) 0

/-- Where a packet with a sound header goes from site `s` (R183, R197, R198). -/
def moveOn (m : Mod) (s port slot : Nat) (pkt : Packet) : Mod :=
  if hCorridor pkt.header then
    if hDest pkt.header = s then corridorArrive m s port slot pkt else corridorStep m s pkt
  else match port, (siteOf m s).router.redirect, partAtSite m s with
    | 4, some d, some _ => corridorStep m s (toCorridor pkt d)
    | _, _, _ => forwardScheduled m s port slot pkt

/-- A packet whose outputs are free leaves its input: a router fault, or on its way. -/
theorem doPacketForward_free {m : Mod} {s port slot fixed : Nat} {f : Flight} {bad : List (Fin 33 × BitVec 144)}
    (hf : m.fabric.flights.find? (fun f => f.site = s && f.port = port && f.slot = slot) = some f)
    (ho : outputsFree m s port f.pkt = true) :
    doPacketForward s port slot fixed bad m =
      let hits := bad.filter (fun b => b.1.val < packetFlits f.pkt)
      let m3 := leftInput m s fixed f hits
      if hits.any (fun b => b.1.val = 0) then routerFault m3 s port slot f.pkt.header 0x24
      else if 6 ≤ hKind f.pkt.header then routerFault m3 s port slot f.pkt.header 0x20
      else moveOn m3 s port slot (poisonFlits f.pkt hits) := by
  simp only [doPacketForward, hf, ho]
  rfl

section
variable {m : Mod} {s port slot : Nat} {pkt : Packet}

theorem moveOn_corridorEnd (hc : hCorridor pkt.header = true) (hd : hDest pkt.header = s) :
    moveOn m s port slot pkt = corridorArrive m s port slot pkt :=
  (if_pos hc).trans (if_pos hd)

theorem moveOn_corridor (hc : hCorridor pkt.header = true) (hd : hDest pkt.header ≠ s) :
    moveOn m s port slot pkt = corridorStep m s pkt :=
  (if_pos hc).trans (if_neg hd)

/-- A scheduled packet enters the corridor only from the local port of a redirected site that holds a role (R197). -/
theorem moveOn_scheduled (hc : hCorridor pkt.header = false)
    (h : port ≠ 4 ∨ (siteOf m s).router.redirect = none ∨ partAtSite m s = none) :
    moveOn m s port slot pkt = forwardScheduled m s port slot pkt := by
  simp only [moveOn, hc, Bool.false_eq_true, if_false]
  split
  next hredirect hpart => simp [hredirect, hpart] at h
  next => rfl

theorem moveOn_redirected {d q : Nat} (hc : hCorridor pkt.header = false) (hr : (siteOf m s).router.redirect = some d)
    (hp : partAtSite m s = some q) : moveOn m s 4 slot pkt = corridorStep m s (toCorridor pkt d) := by
  simp only [moveOn, hc, hr, hp, Bool.false_eq_true, if_false]

end

/-! ### Acknowledgements and the epoch drain -/

theorem doPacketAck_free {m : Mod} {s : Nat} {a : Ack}
    (ha : m.fabric.acks.find? (fun a => a.src = s && ackFree m a) = some a) :
    doPacketAck s m =
      let m1 := { m with fabric := { m.fabric with acks := m.fabric.acks.erase a } }
      if a.kind = 0 ∨ a.kind = 3 then takeAck m1 s a.seq else m1 := by
  simp only [doPacketAck, ha]

/-- The old epoch of partition `p` has drained: its bank is released, `EPOCH_SWITCHED` posted, and a switch that waited
staged (R184). -/
def drainEnds (m : Mod) (p : Nat) (x : Part) : Mod :=
  let m1 := forAll m (concerned m p x) (fun n t => updRouter n t (fun r =>
    if partEpoch m x then { r with routesA := releaseBank p r.routesA } else { r with routesB := releaseBank p r.routesB }))
  let m2 := forAll m1 (partRegions m1 x) (fun m r => updRegion m r (fun y => { y with switchPending := false }))
  let m3 := post m2 0x0301 none (fabPayload m2 0xFFFF p 0 0 0)
  if x.epochDue then stageEpoch m3 p else m3

/-- A router without old flits that is still awaited is struck off; the last one ends the drain. -/
theorem doEpochDrain_awaited {m : Mod} {p s : Nat} {x : Part} (hp : partOf? m p = some x) (hd : x.draining.contains s = true)
    (ho : oldFlits m s (fun f => hPart f.pkt.header == p) = 0) :
    doEpochDrain p s m =
      let left := x.draining.filter (fun t => t != s)
      let m1 := updPart m p (fun y => { y with draining := left })
      if left.isEmpty then drainEnds m1 p x else m1 := by
  simp only [doEpochDrain, hp, hd, ho, not_true, ne_eq, or_self, if_false]
  rfl

/-! ### Mesh links -/

/-- A link that retrains is trained again, a crossing only while the seam is up (R202, R214). -/
theorem doLinkRetrained_down {m : Mod} {l : Nat} (h : l ∈ m.fabric.linkDown) :
    doLinkRetrained l m =
      let m1 := { m with fabric := { m.fabric with linkDown := m.fabric.linkDown.filter (fun k => k != l) } }
      if isSeamLink l = true ∧ m.fabric.seamDown = true then m1 else markLink m1 l true := by
  simp only [doLinkRetrained, List.contains_iff_mem.mpr h, if_true, Bool.and_eq_true]

/-! ### The obligation -/

/-- Settles O14: each command meets its guard; a packet that leaves its input has a lost header, a reserved kind or a sound
header, and with the last the way `moveOn` says. -/
theorem fabric : Obligations.Fabric := by
  refine ⟨⟨?forward, ?ack, ?drain⟩, ?seamDown, ?seamUp, ?linkDown, ?retrain⟩
  case forward =>
    intro i port slot fixed bad s f hf ho hits m2 m pkt
    have hfree := doPacketForward_free (fixed := fixed) (bad := bad) hf ho
    have hmoves (hheader : hits.any (fun b => b.1.val = 0) = false) (hkind : hKind f.pkt.header < 6) :
        doPacketForward i.val port.val slot.val fixed bad s.mod = moveOn m i.val port.val slot.val pkt :=
      hfree.trans ((if_neg (ne_true_of_eq_false hheader)).trans (if_neg (Nat.not_le.mpr hkind)))
    refine ⟨fun hlost => ?lostHeader, fun hheader hkind => ?reservedKind, fun hheader hkind =>
      ⟨fun hc hd => ?corridorEnd, fun hc hd => ?corridor, fun hc hway => ?scheduled, fun d q hc hport hr hp => ?redirected⟩⟩
    all_goals refine exec_eq_withMod (f := doPacketForward i.val port.val slot.val fixed bad) rfl ?_
    case lostHeader => exact hfree.trans (if_pos hlost)
    case reservedKind => exact hfree.trans ((if_neg (ne_true_of_eq_false hheader)).trans (if_pos hkind))
    case corridorEnd => exact (hmoves hheader hkind).trans (moveOn_corridorEnd hc hd)
    case corridor => exact (hmoves hheader hkind).trans (moveOn_corridor hc hd)
    case scheduled => exact (hmoves hheader hkind).trans (moveOn_scheduled hc hway)
    case redirected =>
      rw [hmoves hheader hkind, hport]
      exact moveOn_redirected hc hr hp
  case ack =>
    intro i s a ha
    exact exec_eq_withMod (f := doPacketAck i.val) rfl (doPacketAck_free ha)
  case drain =>
    intro p i s x hp hd ho
    have hreport := doEpochDrain_awaited hp hd ho
    refine ⟨fun hleft => ?_, fun hleft => ?_⟩
    · exact exec_eq_withMod (f := doEpochDrain p.val i.val) rfl (hreport.trans (if_neg (mt List.isEmpty_iff.mp hleft)))
    · exact exec_eq_withMod (f := doEpochDrain p.val i.val) rfl (hreport.trans (if_pos (List.isEmpty_iff.mpr hleft)))
  case seamDown =>
    intro west s hup
    exact exec_eq_withMod (f := doSeamDown west) rfl (if_neg (ne_true_of_eq_false hup))
  case seamUp =>
    intro s hdown hon hwest heast hsclk
    exact exec_eq_withMod (f := doSeamUp) rfl (if_neg (by simp [hdown, hon, hwest, heast, hsclk]))
  case linkDown =>
    intro l s hdown hdead
    exact exec_eq_withMod (f := doLinkDown l.val) rfl (if_neg (by simp [hdown, hdead]))
  case retrain =>
    intro l s hdown
    refine ⟨?_, ?_⟩
    · exact exec_eq_withMod (f := doLinkRetrained l.val) rfl (doLinkRetrained_down hdown)
    · exact exec_eq_withMod (f := doLinkRetrainFail l.val) rfl (if_pos (List.contains_iff_mem.mpr hdown))

end Sys2Proof.Machine
end

section
/-! Commands of a ring at a step boundary: SEQ_PAUSE, SEQ_RESUME and SEQ_CLOSE (R254, R284, R302). -/
namespace Sys2Proof.Machine
open Sys2Proof

/-! ### A command of a ring -/

/-- A command of a ring that is taken answers the module its meaning answers (R297). -/
theorem exec_taken {ins : Instr} {r : RingRef} {e : SqEntry} {h : HostSide} {op : Nat} {s : State} {m : Mod} {c : Cmd}
    {f : Mod → RingRef → Cmd → Mod} (hx : exec ins s = lift (takeCmd r e h op f) s) (t : Taken r e h op s m c) :
    exec ins s = .next (s.withMod (f m r c)) :=
  exec_eq_withMod hx (takeCmd_taken t f)

/-! ### The commands on their sequence -/

section
variable {m : Mod} {r : RingRef} {c : Cmd} {p : Nat} {x : Part} {q : Seq}

/-- SEQ_PAUSE on its sequence while the plan runs. -/
theorem runSeqPause_onSeq (hq : OnSeq m r p x q c) (hs : planStopped x = false)
    (hc : entryClean c.entry true false false [] = true) :
    runSeqPause m r c =
      if x.inStep then waitCmd (closeGates m p) r c
      else if q.state = .opened ∨ q.state = .active then
        completeSeq (updSeq m p q.handle (fun s => { s with state := .paused, hold := false })) r c q .ok
      else completeQ m r c .notPermitted := by
  rw [runSeqPause, hc]
  exact onSeq_on hq (.inr hs) _

/-- SEQ_RESUME on its sequence while the plan runs. -/
theorem runSeqResume_onSeq (hq : OnSeq m r p x q c) (hs : planStopped x = false)
    (hc : entryClean c.entry true false false [] = true) :
    runSeqResume m r c = atStep m r c x (
      if q.state = .paused then
        kick (completeSeq (updSeq m p q.handle (fun s => { s with
          state := if s.pending.isEmpty then .opened else .active })) r c q .ok) p
      else completeQ m r c .notPermitted) := by
  rw [runSeqResume, hc]
  exact onSeq_on hq (.inr hs) _

/-- SEQ_CLOSE on its sequence, whatever stops the plan, waits only for a step that can still go on with it (R302). -/
theorem runSeqClose_onSeq (hq : OnSeq m r p x q c) (hc : entryClean c.entry true false false [] = true)
    (hstep : x.inStep = false ∨ stepStopped x = true ∧ ((memberNow x q.handle).isNone = true ∨ x.repair.isSome = true)) :
    runSeqClose m r c = complete (poolCheck (closeSeq (abortEarlier m p q.handle c.fetchNo) p q.handle) p) r
      { compl c.entry.cid .ok with handle := q.handle } := by
  have hgo : ¬ (x.inStep = true ∧ ¬ (stepStopped x = true ∧ ((memberNow x q.handle).isNone = true ∨ x.repair.isSome = true))) := by
    rintro ⟨hin, hwait⟩
    exact hstep.elim (fun hout => ne_true_of_eq_false hout hin) hwait
  rw [runSeqClose, hc]
  exact (onSeq_on hq (.inl rfl) _).trans (if_neg hgo)

/-- While no step runs a command that acts at a step boundary acts. -/
theorem atStep_boundary (h : x.inStep = false) (act : Mod) : atStep m r c x act = act :=
  if_neg (ne_true_of_eq_false h)

end

/-! ### The obligation -/

/-- Settles O17: each command reaches its sequence, and there a step in progress or the sequence's state decides. -/
theorem sequenceStates : Obligations.SequenceStates := by
  refine ⟨?pause, ?resume, ?close, ?inStep⟩
  case pause =>
    intro r e h s m c p x q t hq hs hc hstep hstate
    obtain rfl := taken_entry t
    rw [exec_taken (ins := .seqPause r c.entry h) rfl t, runSeqPause_onSeq hq hs hc, if_neg (ne_true_of_eq_false hstep),
      if_pos hstate]
  case resume =>
    intro r e h s m c p x q t hq hs hc hstep hstate
    obtain rfl := taken_entry t
    rw [exec_taken (ins := .seqResume r c.entry h) rfl t, runSeqResume_onSeq hq hs hc, atStep_boundary hstep, if_pos hstate]
  case close =>
    intro r e h s m c p x q t hq hc hstep
    obtain rfl := taken_entry t
    rw [exec_taken (ins := .seqClose r c.entry h) rfl t, runSeqClose_onSeq hq hc hstep]
  case inStep =>
    intro r e h s m c p x q hq hs hc hstep
    refine ⟨fun t => ?_, fun t => ?_⟩
    all_goals obtain rfl := taken_entry t
    · rw [exec_taken (ins := .seqPause r c.entry h) rfl t, runSeqPause_onSeq hq hs hc, if_pos hstep]
    · rw [exec_taken (ins := .seqResume r c.entry h) rfl t, runSeqResume_onSeq hq hs hc, atStep, if_pos hstep]

end Sys2Proof.Machine
end

section
/-! FRAME_CONTROL (R209-R211) and ABORT (R310-R312). -/
namespace Sys2Proof.Machine
open Sys2Proof

/-! ### FRAME_CONTROL -/

/-- `c` is a FRAME_CONTROL with action `a` that passes its checks: its arguments are clean and name a frame of the
partition `p` of its ring, which stands at `x`. -/
structure FrameCall (a : Nat) (m : Mod) (r : RingRef) (c : Cmd) (p : Nat) (x : Part) : Prop where
  part : OnPart m r p x
  action : argN c.entry 0 1 = a
  clean : entryClean c.entry false false false [(0, 8), (16, 16)] = true
  frame : argN c.entry 2 2 < frameCount x

section
variable {m : Mod} {r : RingRef} {c : Cmd} {p : Nat} {x : Part}

theorem frameCmd_call {a : Nat} (h : FrameCall a m r c p x) (ha : a ≤ 2) (f : Nat → Part → Nat → Mod) :
    frameCmd a m r c f = f p x (argN c.entry 2 2) := by
  simp [frameCmd, h.action, h.clean, onPart_on h.part, Nat.not_lt.mpr ha, Nat.not_le.mpr h.frame]

theorem runFrameStart_idle (h : FrameCall 0 m r c p x) (hzero : argN c.entry 2 2 = 0) (hidle : x.frame0 = .idle)
    (hplan : x.plan.isSome = true) :
    runFrameStart m r c =
      kick (completeBeat (settleHold (markCores (updPart m p (fun y => { y with frame0 := .run })) p .run) p) r c p) p := by
  have hgo : ¬ (argN c.entry 2 2 ≠ 0 ∨ x.frame0 ≠ .idle ∨ x.plan.isNone = true) := by
    simp [hzero, hidle, Option.isSome_iff_ne_none.mp hplan]
  exact (frameCmd_call h (by decide) _).trans (if_neg hgo)

theorem runFrameHold_call (h : FrameCall 1 m r c p x) :
    runFrameHold m r c =
      let m1 := settleHold (updPart m p (fun y => { y with
        frameHolds := if y.frameHolds.contains (argN c.entry 2 2) then y.frameHolds else y.frameHolds ++ [argN c.entry 2 2] })) p
      if actsNow m x then completeBeat m1 r c p else waitCmd m1 r c :=
  frameCmd_call h (by decide) _

/-- RESUME is refused only to a partition that its plan or a dead link has FAULTED (R211). -/
theorem runFrameResume_call (h : FrameCall 2 m r c p x)
    (hfault : x.frame0 = .faulted → x.faultPlan = false ∧ x.faultLink = false) :
    runFrameResume m r c =
      if actsNow m x then
        kick (completeBeat (settleHold (updPart m p (fun y => clearSummary { y with
          frameHolds := y.frameHolds.filter (fun g => g != argN c.entry 2 2) })) p) r c p) p
      else waitCmd m r c := by
  have hgo : ¬ (x.frame0 = .faulted ∧ (x.faultPlan = true ∨ x.faultLink = true)) := by
    rintro ⟨hf, hcause⟩
    simp [hfault hf] at hcause
  exact (frameCmd_call h (by decide) _).trans (if_neg hgo)

end

/-! ### ABORT -/

/-- What an ABORT `c` of a pair of partition `t` does once its fate is decided (R311, R312). -/
def endAbort (m : Mod) (t : PartId) (k : Fin 64) (c : Cmd) (x : Part) : AbortOut → Mod
  | .wait => waitCmd (updCmd (closeGates m t.val) (.part t (Fin.ofNat 64 (argN c.entry 0 1))) (BitVec.ofNat 16 (argN c.entry 2 2))
      (fun d => { d with abortBy := some (.part t k, c.entry.cid) })) (.part t k) c
  | .fixed => completeS m (.part t k) c.entry.cid .alreadyComplete
  | .stop m1 => if x.repair.isSome then waitCmd (closeGates m t.val) (.part t k) c
      else kick (completeS m1 (.part t k) c.entry.cid .ok) t.val

/-- An ABORT of a known command that has not completed and is no ABORT itself decides. -/
theorem runAbort_known {m : Mod} {t : PartId} {k : Fin 64} {c d : Cmd} {x : Part}
    (hc : entryClean c.entry false false false [(0, 6), (16, 16)] = true) (hp : partOf? m t.val = some x)
    (hd : cmdOf? m (.part t (Fin.ofNat 64 (argN c.entry 0 1))) (BitVec.ofNat 16 (argN c.entry 2 2)) = some d)
    (hop : d.entry.opcode ≠ 0x1F) (hph : d.phase ≠ .completed) :
    runAbort m (.part t k) c =
      endAbort m t k c x (abortTarget m t.val x (.part t (Fin.ofNat 64 (argN c.entry 0 1))) d) := by
  simp only [runAbort, targetRing, hc, hp, hd, hop, hph, Bool.not_true, Bool.false_eq_true, if_false]
  rfl

/-! ### The obligation -/

/-- Settles O24: each action of FRAME_CONTROL passes its checks, and ABORT does what was decided on its target. -/
theorem framesAndAbort : Obligations.FramesAndAbort := by
  refine ⟨?start, ?hold, ?resume, ?abort⟩
  case start =>
    intro r e h s m c p x t hp ha hc hfr hzero hidle hplan
    obtain rfl := taken_entry t
    rw [exec_taken (ins := .frameStart r c.entry h) rfl t, runFrameStart_idle ⟨hp, ha, hc, hfr⟩ hzero hidle hplan]
  case hold =>
    intro r e h s m c p x t hp ha hc hfr
    obtain rfl := taken_entry t
    rw [exec_taken (ins := .frameHold r c.entry h) rfl t, runFrameHold_call ⟨hp, ha, hc, hfr⟩]
  case resume =>
    intro r e h s m c p x t hp ha hc hfr hfault
    obtain rfl := taken_entry t
    rw [exec_taken (ins := .frameResume r c.entry h) rfl t, runFrameResume_call ⟨hp, ha, hc, hfr⟩ hfault]
  case abort =>
    intro t k e h s m c d x ht hc hp hd hop hph
    obtain rfl := taken_entry ht
    rw [exec_taken (ins := .abort (.part t k) c.entry h) rfl ht, runAbort_known hc hp hd hop hph]
    refine ⟨fun m1 hstop hrepair => ?stop, fun hwait => ?wait, fun hfixed => ?fixed⟩
    case stop => rw [hstop, endAbort, hrepair]; rfl
    case wait => rw [hwait, endAbort]
    case fixed => rw [hfixed, endAbort]

end Sys2Proof.Machine
end

section
/-! Plans on a partition: PLAN_LOAD, the weight chunks and PLAN_UNLOAD (R206, R241-R245, R303). Log entry 37 gives
NOT_PERMITTED for a PLAN_UNLOAD without a plan and the refusal of a load on its weight header. -/
namespace Sys2Proof.Machine
open Sys2Proof

/-! ### PLAN_LOAD -/

/-- `c` is a PLAN_LOAD whose arguments pass: it belongs to the partition `p` of its ring, which stands at `x` (R241). -/
structure PlanCall (m : Mod) (r : RingRef) (c : Cmd) (p : Nat) (x : Part) : Prop where
  part : OnPart m r p x
  clean : entryClean c.entry false true true [(0, 64), (64, 64), (128, 64), (192, 8), (200, 8)] = true
  values : argN c.entry 24 1 ≤ 64
  source : argN c.entry 25 1 ≤ 1
  valuesAligned : argN c.entry 16 8 % 8 = 0
  weightsAligned : argN c.entry 25 1 = 0 → argN c.entry 0 8 % 8 = 0
  record : 64 ≤ c.entry.len1.toNat

/-- The plan image an entry names. -/
def planImage (m : Mod) (r : RingRef) (e : SqEntry) : List Byte :=
  hostRead (hostOf m (ringHost m r)) e.addr0.toNat e.len0.toNat

/-- The patch values an entry names. -/
def planValues (m : Mod) (r : RingRef) (e : SqEntry) : List Nat :=
  (List.range (argN e 24 1)).map (fun i => leNat (hostRead (hostOf m (ringHost m r)) (argN e 16 8 + 8 * i) 8))

/-- WEIGHTS_AT of an entry names a partner that is a store. -/
def weightsInStore (m : Mod) (e : SqEntry) : Bool :=
  match (remoteNode m (argN e 0 8)).bind (partnerOf m) with
  | some q => q.role == 2
  | none => false

theorem weightsInStore_eq_any (m : Mod) (e : SqEntry) :
    weightsInStore m e = ((remoteNode m (argN e 0 8)).bind (partnerOf m)).any (fun q => q.role == 2) := by
  rw [weightsInStore]
  cases (remoteNode m (argN e 0 8)).bind (partnerOf m) with
  | none => rfl
  | some q => rfl

/-- What a PLAN_LOAD does once its image is checked (R241, R242). -/
def answerPlan (fz : Fuses) (m : Mod) (r : RingRef) (c : Cmd) (p : Nat) (x : Part) : Check → Mod
  | .error why => refuseLoad m p r c.entry.cid c.entry.addr1.toNat why
  | .ok _ =>
    if argN c.entry 25 1 = 1 ∧ ¬ weightsInStore m c.entry then
      refuseLoad m p r c.entry.cid c.entry.addr1.toNat (refuse 0x15 0xFFFFFFFF 0 0)
    else
      beginLoad m r c p x
        (buildPlan fz m p x (planImage m r c.entry) (planValues m r c.entry) (argN c.entry 25 1) (argN c.entry 0 8)
          (argN c.entry 8 8))
        (secIdx (planImage m r c.entry) 0x0033 0xFFFFFFFF)

section
variable {m : Mod} {r : RingRef} {c : Cmd} {p : Nat} {x : Part}

/-- A PLAN_LOAD whose arguments pass runs on its partition. -/
theorem runPlanLoad_call (h : PlanCall m r c p x) (fz : Fuses) :
    runPlanLoad fz m r c =
      if x.plan.isSome || x.load.isSome then completeS m r c.entry.cid .notPermitted
      else if !planBuffers (hostOf m (ringHost m r)) c.entry then completeS m r c.entry.cid .badDescriptor
      else answerPlan fz m r c p x
        (planChecks fz m p x (planImage m r c.entry) c.entry.len0.toNat (planValues m r c.entry)) := by
  have hweights := h.weightsAligned
  rw [runPlanLoad]
  refine (if_neg ?arguments).trans ((if_neg ?record).trans (onPart_on h.part c _))
  case arguments => simpa [h.clean, h.values, h.source, h.valuesAligned] using hweights
  case record => exact Nat.not_lt.mpr h.record

theorem runPlanLoad_occupied (h : PlanCall m r c p x) (hx : x.plan.isSome = true ∨ x.load.isSome = true) (fz : Fuses) :
    runPlanLoad fz m r c = completeS m r c.entry.cid .notPermitted :=
  (runPlanLoad_call h fz).trans (if_pos (Bool.or_eq_true_iff.mpr hx))

theorem runPlanLoad_free (h : PlanCall m r c p x) (hp : x.plan = none) (hl : x.load = none)
    (hb : planBuffers (hostOf m (ringHost m r)) c.entry = true) (fz : Fuses) :
    runPlanLoad fz m r c =
      answerPlan fz m r c p x
        (planChecks fz m p x (planImage m r c.entry) c.entry.len0.toNat (planValues m r c.entry)) :=
  (runPlanLoad_call h fz).trans ((if_neg (by simp [hp, hl])).trans (if_neg (by simp [hb])))

theorem answerPlan_noStore (hsrc : argN c.entry 25 1 = 1) (hstore : weightsInStore m c.entry = false) (fz : Fuses) :
    answerPlan fz m r c p x (.ok ()) = refuseLoad m p r c.entry.cid c.entry.addr1.toNat (refuse 0x15 0xFFFFFFFF 0 0) :=
  if_pos ⟨hsrc, ne_true_of_eq_false hstore⟩

theorem answerPlan_begins (h : argN c.entry 25 1 = 0 ∨ weightsInStore m c.entry = true) (fz : Fuses) :
    answerPlan fz m r c p x (.ok ()) =
      beginLoad m r c p x
        (buildPlan fz m p x (planImage m r c.entry) (planValues m r c.entry) (argN c.entry 25 1) (argN c.entry 0 8)
          (argN c.entry 8 8))
        (secIdx (planImage m r c.entry) 0x0033 0xFFFFFFFF) := by
  have hgo : ¬ (argN c.entry 25 1 = 1 ∧ ¬ weightsInStore m c.entry = true) := by
    rintro ⟨hsrc, hstore⟩
    simp [hsrc, hstore] at h
  exact if_neg hgo

end

/-! ### Weight chunks -/

/-- The load `l` of partition `p`, which stands at `x`, has all the bytes it has asked a store for (R374). -/
structure Delivered (m : Mod) (p : Nat) (x : Part) (l : Load) : Prop where
  part : partOf? m p = some x
  load : x.load = some l
  answered : l.plan.source = 1 → m.requests.any (fun q => q.part = p && q.cls = 2 && !q.write) = false

/-- The bytes of a chunk cannot be used: their read failed, or their length or CRC is not the chunk's (R245). -/
def ChunkBad (failed : Bool) (bs : List Byte) (k : Chunk) : Prop :=
  failed = true ∨ bs.length ≠ 72 * k.lines ∨ crc32c bs ≠ k.crc

section
variable {m : Mod} {p : Nat} {x : Part} {l : Load} {failed : Bool} {bs : List Byte} {k : Chunk}

theorem Delivered.not_awaited (h : Delivered m p x l) :
    ¬ (l.plan.source = 1 ∧ m.requests.any (fun q => q.part = p && q.cls = 2 && !q.write) = true) :=
  fun ⟨hstore, hopen⟩ => ne_true_of_eq_false (h.answered hstore) hopen

/-- The first bytes of a load are the head of its weight image. -/
theorem doWeightChunk_head (h : Delivered m p x l) (hdue : l.headerDue = true) :
    doWeightChunk p bs failed m = if failed then failLoad m p (refuse 0x19 0 0 0) else takeHead m p bs := by
  simp only [doWeightChunk, h.part, h.load, h.not_awaited, hdue, if_true, if_false]

theorem doWeightChunk_bad (h : Delivered m p x l) (hdue : l.headerDue = false) (hk : l.plan.chunks[l.next]? = some k)
    (hbad : ChunkBad failed bs k) :
    doWeightChunk p bs failed m =
      if l.tries < 2 then
        askBytes (updPart m p (fun y => { y with load := some { l with tries := l.tries + 1 } })) p x l.plan.source
          (l.plan.weightAddr + k.offset) (72 * k.lines)
      else failLoad m p { refuse 0x1A l.next 0 0 with vcore := k.vcore } := by
  simp only [doWeightChunk, h.part, h.load, h.not_awaited, hdue, hk, Bool.false_eq_true, if_false]
  exact if_pos hbad

theorem doWeightChunk_good {site : Nat} {vc : VCore} (h : Delivered m p x l) (hdue : l.headerDue = false)
    (hk : l.plan.chunks[l.next]? = some k) (hgood : ¬ ChunkBad failed bs k) (hsite : l.plan.sites[k.vcore]? = some site)
    (hvc : l.plan.vcores[k.vcore]? = some vc) :
    doWeightChunk p bs failed m =
      awaitChunk (writeLines (updPart m p (fun y => { y with load := some (saveSlice m site l) })) site
        (vc.vsegBase.getD k.vseg 0 + k.voff) (bytesLines bs) []) p (l.next + 1) := by
  simp only [doWeightChunk, h.part, h.load, h.not_awaited, hdue, hk, hsite, hvc, Bool.false_eq_true, if_false]
  exact if_neg hgood

end

/-! ### PLAN_UNLOAD -/

/-- A PLAN_UNLOAD whose arguments pass runs on its partition. -/
theorem runPlanUnload_call {m : Mod} {r : RingRef} {c : Cmd} {p : Nat} {x : Part} (hp : OnPart m r p x)
    (hc : entryClean c.entry false false false [] = true) :
    runPlanUnload m r c =
      if x.load.isSome then completeS (abortLoad m p) r c.entry.cid .ok
      else if x.plan.isNone then completeS m r c.entry.cid .notPermitted
      else if unloadNow m x then completeS (unloadPlan m p) r c.entry.cid .ok
      else waitCmd (setGates m p true) r c := by
  rw [runPlanUnload]
  exact (if_neg (by simp [hc])).trans (onPart_on hp c _)

/-! ### The obligation -/

/-- Settles O25: a PLAN_LOAD that passes its arguments meets the plan, the checks and the store in turn; the bytes a load
has are its head, a bad chunk or a good one; a PLAN_UNLOAD meets the load, the plan and the boundary in turn. -/
theorem planCommands : Obligations.PlanCommands := by
  refine ⟨?load, ?head, ?chunk, ?unload⟩
  case load =>
    intro r e h s m c p x t hp hclean hvalues hsource hvaligned hwaligned hrecord
    obtain rfl := taken_entry t
    have hcall : PlanCall m r c p x := ⟨hp, hclean, hvalues, hsource, hvaligned, hwaligned, hrecord⟩
    rw [exec_taken (ins := .planLoad r c.entry h) rfl t]
    refine ⟨fun hoccupied => ?occupied, fun hplan hload hbuffers => ?free⟩
    case occupied => rw [runPlanLoad_occupied hcall hoccupied]
    case free =>
      rw [runPlanLoad_free hcall hplan hload hbuffers]
      refine ⟨fun why hwhy => ?refused, fun hok hsrc hstore => ?noStore, fun hok hplace => ?begins⟩
      case refused => rw [planImage, planValues, hwhy, answerPlan]
      case noStore =>
        rw [← weightsInStore_eq_any] at hstore
        rw [planImage, planValues, hok, answerPlan_noStore hsrc hstore]
      case begins =>
        rw [← weightsInStore_eq_any] at hplace
        rw [planImage, planValues, hok, answerPlan_begins hplace, planImage, planValues]
  case head =>
    intro p bs failed s x l hp hl hdue hanswered
    exact exec_eq_withMod (f := doWeightChunk p.val bs failed) rfl (doWeightChunk_head ⟨hp, hl, hanswered⟩ hdue)
  case chunk =>
    intro p bs failed s x l k hp hl hdue hk hanswered
    have hdelivered : Delivered s.mod p.val x l := ⟨hp, hl, hanswered⟩
    refine ⟨fun site vc hread hlen hcrc hsite hvc => ?good, fun hbad htries => ?again, fun hbad htries => ?fails⟩
    all_goals refine exec_eq_withMod (f := doWeightChunk p.val bs failed) rfl ?_
    case good => exact doWeightChunk_good hdelivered hdue hk (by simp [ChunkBad, hread, hlen, hcrc]) hsite hvc
    case again => exact (doWeightChunk_bad hdelivered hdue hk hbad).trans (if_pos htries)
    case fails => exact (doWeightChunk_bad hdelivered hdue hk hbad).trans (if_neg (Nat.not_lt.mpr htries))
  case unload =>
    intro r e h s m c p x t hp hc
    obtain rfl := taken_entry t
    rw [exec_taken (ins := .planUnload r c.entry h) rfl t, runPlanUnload_call hp hc]
    refine ⟨fun hload => ?aborts, fun hload hplan hnow => ?acts, fun hload hplan hnow => ?waits,
      fun hload hplan => ?noPlan⟩
    case aborts => rw [if_pos hload]
    case acts | waits => simp [hload, Option.isSome_iff_ne_none.mp hplan, hnow]
    case noPlan => simp [hload, hplan]

end Sys2Proof.Machine
end

section
/-! SEQ_OPEN, SEQ_APPEND and SEQ_GENERATE (R252, R254, R273, R281, R282, R303). -/
namespace Sys2Proof.Machine
open Sys2Proof

/-! ### SEQ_OPEN -/

/-- `c` is a SEQ_OPEN whose arguments pass: it belongs to the partition `p` of its ring, which stands at `x` and runs the
plan `pl`. A state record brings its own class and binding, so the entry leaves those 0 (R281). -/
structure OpenCall (m : Mod) (r : RingRef) (c : Cmd) (p : Nat) (x : Part) (pl : Plan) : Prop where
  part : OnPart m r p x
  plan : x.plan = some pl
  runs : planStopped x = false
  clean : entryClean c.entry false true false [(0, 64), (64, 32), (96, 3), (104, 1), (112, 16), (128, 8), (144, 16)] = true
  record : bit c.entry.args 104 = true → fld c.entry.args 96 3 = 0 ∧ argN c.entry 14 6 = 0
  whole : openShort (hostOf m (ringHost m r)) c.entry = false
  area : areaOk m x (argN c.entry 0 8) (argN c.entry 8 4) = true

/-- The sampler parameter block an entry names (R338). -/
def openBlock (m : Mod) (r : RingRef) (e : SqEntry) : BitVec 2048 :=
  BitVec.ofNat 2048 (leNat (hostRead (hostOf m (ringHost m r)) e.addr0.toNat 256))

/-- Bytes of the token lists of a block (R339). -/
def listBytes (b : BitVec 2048) : Nat := 4 * sStops b + 8 * sBiases b

/-- The state record an entry names (R280). -/
def openedRecord (m : Mod) (r : RingRef) (e : SqEntry) : List Byte :=
  hostRead (hostOf m (ringHost m r)) e.addr0.toNat e.len0.toNat

section
variable {m : Mod} {r : RingRef} {c : Cmd} {p : Nat} {x : Part} {pl : Plan}

theorem openShort_block {hs : HostSite} {e : SqEntry} (hform : bit e.args 104 = false) (hlen : 256 ≤ e.len0.toNat) :
    openShort hs e = false := by
  simp [openShort, hform, hlen]

theorem openShort_record {hs : HostSite} {e : SqEntry} (hform : bit e.args 104 = true) (hhead : 128 ≤ e.len0.toNat)
    (hlen : recordLen hs e ≤ e.len0.toNat) : openShort hs e = false := by
  simp [openShort, hform, hhead, hlen]

/-- A SEQ_OPEN whose arguments pass opens from its record or from its block. -/
theorem runSeqOpen_call (h : OpenCall m r c p x pl) :
    runSeqOpen m r c = if bit c.entry.args 104 then openRecord m r c p x pl else openFresh m r c p x pl := by
  have hrecord := h.record
  rw [runSeqOpen]
  refine (onPart_on h.part c _).trans ((if_neg ?arguments).trans ?runs)
  case arguments => simpa [h.clean, h.whole, h.area] using hrecord
  case runs => simp only [h.plan, h.runs, Bool.false_eq_true, if_false]

/-- A block that passes R338 and R339, with a binding that stands and a free slot, enters a new sequence. -/
theorem openFresh_enters {b : BitVec 2048} {tab : SMap Word} {v slot : Nat} (hb : openBlock m r c.entry = b)
    (hread : rejected (hostOf m (ringHost m r)) c.entry.addr0.toNat 256 = false) (hblock : blockOk b false = true)
    (hlists : listBytes b = 0 ∨
      sListAddr b % 8 = 0 ∧ rejected (hostOf m (ringHost m r)) (sListAddr b) (listBytes b) = false)
    (htab : listsTable b (hostRead (hostOf m (ringHost m r)) (sListAddr b) (listBytes b)) = some tab)
    (hbind : bindCheck x pl (argN c.entry 14 2) (argN c.entry 16 1) (argN c.entry 18 2) false = .ok v)
    (hslot : freeSlot x = some slot) :
    openFresh m r c p x pl =
      let t : Sampler := { block := b, counter := 0, table := tab, ring := [], fill := 0 }
      let g := enterSeq x slot none (newSeq 0 (fld c.entry.args 96 3) (argN c.entry 0 8) (argN c.entry 8 4)
        (argN c.entry 14 2) (argN c.entry 16 1) v t m.time)
      completeOpen (updPart m p (fun _ => g.1)) r c g.2 0 := by
  rw [openBlock] at hb
  rw [listBytes] at hlists htab
  rw [openFresh]
  refine (if_neg (ne_true_of_eq_false hread)).trans ?_
  simp only [hb]
  refine (if_neg ?checks).trans ?enters
  case checks =>
    rcases hlists with hnone | ⟨haligned, hhost⟩
    · simp [hblock, hnone]
    · simp [hblock, haligned, hhost]
  case enters => simp only [htab, hbind, hslot]

/-- A record that passes the checks of R281 enters the sequence it describes. -/
theorem openRecord_enters {bs : List Byte} {v : Nat} {g : Part × BitVec 32} (hbs : openedRecord m r c.entry = bs)
    (hread : rejected (hostOf m (ringHost m r)) c.entry.addr0.toNat c.entry.len0.toNat = false)
    (hrecord : recordOk (bs.take (leAt bs 8 8)) (recordSampler bs).1 (recordSampler bs).2 = true)
    (hformat : leAt bs 28 1 = pl.cacheFormat) (hdigest : (bs.drop 64).take 32 = pairDigest pl)
    (hcount : leAt bs 32 4 = (if pl.pairs.isEmpty then 0 else cdiv (leAt bs 20 4) 256))
    (hbind : bindCheck x pl (leAt bs 56 2) (leAt bs 60 1) (leAt bs 58 2) true = .ok v)
    (hpages : pagesNamed x (BitVec.ofNat 32 (leAt bs 16 4)) (recordLeaves bs) = true)
    (henter : enterShared x (handleParity (BitVec.ofNat 32 (leAt bs 16 4)))
      (recordSeq bs (argN c.entry 0 8) (argN c.entry 8 4) v m.time) = some g) :
    openRecord m r c p x pl = completeOpen (updPart m p (fun _ => g.1)) r c g.2
      (seqCode (recordSeq bs (argN c.entry 0 8) (argN c.entry 8 4) v m.time).state) := by
  rw [openedRecord] at hbs
  rw [openRecord]
  refine (if_neg (ne_true_of_eq_false hread)).trans ?_
  simp only [hbs]
  refine (if_neg (not_not_intro hrecord)).trans ((if_neg ?fits).trans ?enters)
  case fits =>
    rintro (hne | hne | hne)
    · exact hne hformat
    · exact hne hdigest
    · exact hne hcount
  case enters =>
    simp only [hbind, hpages, henter]
    rfl

end

/-- Settles O15: the arguments pass, and then the block or the record passes its checks in turn. -/
theorem sequenceOpens : Obligations.SequenceOpens := by
  refine ⟨?block, ?record⟩
  case block =>
    intro r e h s m c p x pl tab v slot t hp hpl hs hform hc harea hlen hread b n hblock hlists htab hbind hslot
    obtain rfl := taken_entry t
    have hcall : OpenCall m r c p x pl :=
      ⟨hp, hpl, hs, hc, fun hrec => absurd hrec (ne_true_of_eq_false hform), openShort_block hform hlen, harea⟩
    rw [exec_taken (ins := .seqOpen r c.entry h) rfl t, runSeqOpen_call hcall, if_neg (ne_true_of_eq_false hform),
      openFresh_enters (b := b) rfl hread hblock hlists htab hbind hslot]
  case record =>
    intro r e h s m c p x pl v g t hp hpl hs hform hc harea hcls hargs hhead hlen hread bs q hrecord hformat hdigest hcount
      hbind hpages henter
    obtain rfl := taken_entry t
    have hcall : OpenCall m r c p x pl := ⟨hp, hpl, hs, hc, fun _ => ⟨hcls, hargs⟩, openShort_record hform hhead hlen, harea⟩
    rw [exec_taken (ins := .seqOpen r c.entry h) rfl t, runSeqOpen_call hcall, if_pos hform,
      openRecord_enters (bs := bs) rfl hread hrecord hformat hdigest hcount hbind hpages henter]

/-! ### SEQ_APPEND and SEQ_GENERATE -/

/-- A SEQ_APPEND or SEQ_GENERATE whose arguments pass: a FAULTED frame 0 completes it HELD, and else its sequence takes it
even while the plan is stopped (R302). -/
def joinSeq (m : Mod) (r : RingRef) (c : Cmd) (f : Nat → Part → Seq → Mod) : Mod :=
  onPart m r c (fun _ x =>
    if x.frame0 = .faulted ∧ (seqOf? x c.entry.handle).isSome then completeQ m r c .held else onSeq m r c true f)

/-- A token buffer of a SEQ_APPEND has a length it may have (R303). -/
def AppendLength (e : SqEntry) : Prop := 4 ≤ e.len0.toNat ∧ e.len0.toNat ≤ 2 ^ 26 ∧ e.len0.toNat % 4 = 0

/-- The tokens a SEQ_APPEND brings. -/
def appendTokens (m : Mod) (r : RingRef) (e : SqEntry) : List (BitVec 32) :=
  (List.range (e.len0.toNat / 4)).map (fun k =>
    BitVec.ofNat 32 (leNat (hostRead (hostOf m (ringHost m r)) (e.addr0.toNat + 4 * k) 4)))

section
variable {m : Mod} {r : RingRef} {c : Cmd} {p : Nat} {x : Part} {q : Seq}

theorem joinSeq_faulted (hp : OnPart m r p x) (hq : seqOf? x c.entry.handle = some q) (hf : x.frame0 = .faulted)
    (f : Nat → Part → Seq → Mod) : joinSeq m r c f = completeQ m r c .held :=
  (onPart_on hp c _).trans (if_pos ⟨hf, by rw [hq]; rfl⟩)

theorem joinSeq_on (hq : OnSeq m r p x q c) (hf : x.frame0 ≠ .faulted) (f : Nat → Part → Seq → Mod) :
    joinSeq m r c f = f p x q :=
  (onPart_on hq.1 c _).trans ((if_neg (fun h => hf h.1)).trans (onSeq_on hq (.inl rfl) f))

theorem runSeqAppend_call (hc : entryClean c.entry true true false [] = true) (hlen : AppendLength c.entry) :
    runSeqAppend m r c = joinSeq m r c (fun p _ q =>
      if !takesSteps q then completeQ m r c .notPermitted
      else if rejected (hostOf m (ringHost m r)) c.entry.addr0.toNat c.entry.len0.toNat then completeSeq m r c q .badDescriptor
      else if badToken ((appendTokens m r c.entry).headD 0) then completeSeq m r c q .badDescriptor
      else acceptRun m r c p (appendTokens m r c.entry)) := by
  obtain ⟨hmin, hmax, hwords⟩ := hlen
  rw [runSeqAppend]
  exact if_neg (by simpa [hc, hmin, hwords] using hmax)

theorem runSeqGenerate_call (hc : entryClean c.entry true true false [(0, 32), (32, 16)] = true)
    (hsome : 0 < maxTokens c.entry) (hmax : maxTokens c.entry ≤ 2 ^ 24) :
    runSeqGenerate m r c =
      if c.entry.len0.toNat < 8 + 4 * maxTokens c.entry then
        complete m r { compl c.entry.cid .refusedResources with handle := c.entry.handle, result1 := 8 + 4 * maxTokens c.entry }
      else joinSeq m r c (fun p _ q => if !takesSteps q then completeQ m r c .notPermitted else acceptRun m r c p []) := by
  rw [runSeqGenerate]
  exact if_neg (by simpa [hc, Nat.ne_of_gt hsome] using hmax)

end

/-- Settles O16: the arguments pass, the buffer of a SEQ_GENERATE holds its tokens or not, and then frame 0 decides. -/
theorem sequenceRuns : Obligations.SequenceRuns := by
  refine ⟨?append, ?generate, ?faulted, ?short⟩
  case append =>
    intro r e h s m c p x q t hq hf htakes hc hmin hmax hwords hread toks htok
    obtain rfl := taken_entry t
    have hgood : badToken ((appendTokens m r c.entry).headD 0) = false := htok
    rw [exec_taken (ins := .seqAppend r c.entry h) rfl t, runSeqAppend_call hc ⟨hmin, hmax, hwords⟩, joinSeq_on hq hf,
      if_neg (by simp [htakes]), if_neg (ne_true_of_eq_false hread), if_neg (ne_true_of_eq_false hgood)]
    rfl
  case generate =>
    intro r e h s m c p x q t hq hf htakes hc hsome hmax hroom
    obtain rfl := taken_entry t
    rw [exec_taken (ins := .seqGenerate r c.entry h) rfl t, runSeqGenerate_call hc hsome hmax, if_neg (Nat.not_lt.mpr hroom),
      joinSeq_on hq hf, if_neg (by simp [htakes])]
  case faulted =>
    intro r e h s m c p x q hp hq hf
    refine ⟨fun t hc hmin hmax hwords => ?_, fun t hc hsome hmax hroom => ?_⟩
    all_goals obtain rfl := taken_entry t
    · rw [exec_taken (ins := .seqAppend r c.entry h) rfl t, runSeqAppend_call hc ⟨hmin, hmax, hwords⟩, joinSeq_faulted hp hq hf]
    · rw [exec_taken (ins := .seqGenerate r c.entry h) rfl t, runSeqGenerate_call hc hsome hmax, if_neg (Nat.not_lt.mpr hroom),
        joinSeq_faulted hp hq hf]
  case short =>
    intro r e h s m c t hc hsome hmax hshort
    obtain rfl := taken_entry t
    rw [exec_taken (ins := .seqGenerate r c.entry h) rfl t, runSeqGenerate_call hc hsome hmax, if_pos hshort]

end Sys2Proof.Machine
end

section
/-! SEQ_PARK, SEQ_UNPARK, SEQ_SNAPSHOT and SEQ_TRUNCATE (R274, R276, R277, R280, R283). -/
namespace Sys2Proof.Machine
open Sys2Proof

/-- The store area a SEQ_PARK leaves its sequence, base and pages: the one its entry names, or the sequence's own (R276). -/
def parkArea (e : SqEntry) (q : Seq) : Nat × Nat :=
  if argN e 0 8 = 0 ∧ argN e 8 4 = 0 then (q.storeBase, q.storePages) else (argN e 0 8, argN e 8 4)

/-- An entry of a SEQ_PARK names no store area, or one that can be used (R373). -/
def ParkAreaOk (m : Mod) (x : Part) (e : SqEntry) : Prop :=
  (argN e 0 8 = 0 ∧ argN e 8 4 = 0) ∨ argN e 0 8 ≠ 0 ∧ argN e 8 4 ≠ 0 ∧ storeAreaOk m x (argN e 0 8) = true

/-- The sequence an unparking goes on with, and its partition: what a LOST one can be salvaged to (R283). -/
def unparkFrom (x : Part) (q : Seq) : Part × Seq := if q.state = .lost then salvage x q else (x, q)

/-- The snapshot a SEQ_SNAPSHOT takes of its sequence (R280). -/
def snapOf (m : Mod) (r : RingRef) (c : Cmd) (x : Part) (q : Seq) : Snap :=
  { ring := r, cid := c.entry.cid, seq := q, code := seqCode q.state, time := m.time,
    copies := (List.range (seqPages x q)).map (copyOf x q), held := [] }

section
variable {m : Mod} {r : RingRef} {c : Cmd} {p : Nat} {x : Part} {q : Seq}

theorem runSeqPark_parks (hq : OnSeq m r p x q c) (hs : planStopped x = false)
    (hc : entryClean c.entry true false false [(0, 64), (64, 32)] = true) (hstate : q.state = .opened ∨ q.state = .paused)
    (harea : ParkAreaOk m x c.entry) (hsome : (parkArea c.entry q).2 ≠ 0) (hroom : seqPages x q ≤ (parkArea c.entry q).2) :
    runSeqPark m r c =
      parkNext (updSeq (runningCmd m r c) p q.handle (fun s => { s with
        storeBase := (parkArea c.entry q).1, storePages := (parkArea c.entry q).2, state := .parking,
        pausedBefore := decide (q.state = .paused) })) p q.handle := by
  have hstate' : ¬ (q.state ≠ .opened ∧ q.state ≠ .paused) := by tauto
  rw [runSeqPark, hc]
  refine (onSeq_on hq (.inr hs) _).trans ?_
  by_cases hkeep : argN c.entry 0 8 = 0 ∧ argN c.entry 8 4 = 0
  · simp only [parkArea, if_pos hkeep] at hsome hroom ⊢
    simp [hkeep, hstate', hsome, Nat.not_lt.mpr hroom]
  · obtain ⟨hbase, hpages, hok⟩ := harea.resolve_left hkeep
    simp only [parkArea, if_neg hkeep] at hsome hroom ⊢
    simp [hbase, hpages, hok, hstate', Nat.not_lt.mpr hroom]

theorem runSeqUnpark_unparks (hq : OnSeq m r p x q c) (hs : planStopped x = false)
    (hc : entryClean c.entry true false false [] = true) (hstate : q.state = .parked ∨ q.state = .lost)
    (hroom : storedLeaves (unparkFrom x q).2 ≤ freePages x) :
    runSeqUnpark m r c =
      let y := putSeq (unparkFrom x q).1 { (unparkFrom x q).2 with state := .unparking, wasLost := decide (q.state = .lost) }
      unparkNext (writeTables (poolCheck (updPart (runningCmd m r c) p (fun w => { y with
        reserved := y.reserved ++ [(q.handle, storedLeaves (unparkFrom x q).2)], pairs := w.pairs })) p) p) p q.handle := by
  have hstate' : ¬ (q.state ≠ .parked ∧ q.state ≠ .lost) := by tauto
  rw [runSeqUnpark, hc]
  exact (onSeq_on hq (.inr hs) _).trans ((if_neg hstate').trans (if_neg (Nat.not_lt.mpr hroom)))

/-- SEQ_SNAPSHOT at a boundary or on a step that stands still, its buffer large enough (R280, R302). -/
theorem runSeqSnapshot_takes {pl : Plan} (hq : OnSeq m r p x q c) (hc : entryClean c.entry true true false [(0, 1)] = true)
    (hstep : x.inStep = false ∨ stepStopped x = true) (hstate : takesSteps q = true ∨ q.state = .parked)
    (hpl : x.plan = some pl) (hroom : recordSize (seqPages x q) ≤ c.entry.len0.toNat)
    (hstore : bit c.entry.args 0 = false ∨ q.storePages ≠ 0 ∨ (snapOf m r c x q).copies.any (fun c => c.isNone) = false) :
    runSeqSnapshot m r c =
      if bit c.entry.args 0 then
        snapNext (updPart (runningCmd m r c) p (fun y => { y with snaps := y.snaps ++ [snapOf m r c x q] })) p (snapOf m r c x q)
      else finishSnap m pl (snapOf m r c x q) 0 := by
  have hgo : ¬ (x.inStep = true ∧ ¬ stepStopped x = true) := by
    rintro ⟨hin, hmoves⟩
    exact hstep.elim (fun hout => ne_true_of_eq_false hout hin) hmoves
  have hstate' : ¬ (!(takesSteps q || q.state == .parked)) = true := by
    rcases hstate with htakes | hparked
    · simp [htakes]
    · simp [hparked]
  rw [runSeqSnapshot, hc]
  refine (onSeq_on hq (.inl rfl) _).trans ((if_neg hgo).trans ((if_neg hstate').trans ?_))
  simp only [hpl, Nat.not_lt.mpr hroom, if_false]
  cases hflush : bit c.entry.args 0 with
  | false => rfl
  | true =>
    have hcan : ¬ (q.storePages = 0 ∧ (snapOf m r c x q).copies.any (fun c => c.isNone) = true) := by
      rintro ⟨hnone, hmissing⟩
      simp [hflush, hnone, hmissing] at hstore
    exact if_neg hcan

end

/-- Settles O18: each command passes its checks on its sequence and begins its transfer. -/
theorem sequenceParking : Obligations.SequenceParking := by
  refine ⟨?park, ?unpark, ?snapshot⟩
  case park =>
    intro r e h s m c p x q t hq hs hc hstate keep base pages harea hsome hroom
    obtain rfl := taken_entry t
    have hbase : base = (parkArea c.entry q).1 := by rw [parkArea, apply_ite Prod.fst]
    have hpages : pages = (parkArea c.entry q).2 := by rw [parkArea, apply_ite Prod.snd]
    rw [hpages] at hsome hroom
    rw [hbase, hpages, exec_taken (ins := .seqPark r c.entry h) rfl t, runSeqPark_parks hq hs hc hstate harea hsome hroom]
  case unpark =>
    intro r e h s m c p x q t hq hs hc hstate z hroom
    obtain rfl := taken_entry t
    rw [exec_taken (ins := .seqUnpark r c.entry h) rfl t, runSeqUnpark_unparks hq hs hc hstate hroom]
    rfl
  case snapshot =>
    intro r e h s m c p x q pl t hq hc hstep hstate hpl hroom snap hstore
    obtain rfl := taken_entry t
    rw [exec_taken (ins := .seqSnapshot r c.entry h) rfl t, runSeqSnapshot_takes hq hc hstep hstate hpl hroom hstore]
    rfl

/-! ### SEQ_TRUNCATE -/

section
variable {m : Mod} {r : RingRef} {c : Cmd} {p : Nat} {x : Part} {q : Seq}

/-- `c` is a SEQ_TRUNCATE at a step boundary of a sequence that may be cut (R274, R302). -/
structure TruncCall (m : Mod) (r : RingRef) (c : Cmd) (p : Nat) (x : Part) (q : Seq) : Prop where
  seq : OnSeq m r p x q c
  runs : planStopped x = false
  clean : entryClean c.entry true false false [(0, 8), (8, 1), (32, 32), (64, 32), (96, 32)] = true
  boundary : x.inStep = false
  state : q.state = .opened ∨ q.state = .paused ∨ q.state = .parked

theorem TruncCall.may_cut (h : TruncCall m r c p x q) :
    ¬ (q.state ≠ .opened ∧ q.state ≠ .paused ∧ q.state ≠ .parked) := by
  have hstate := h.state
  tauto

theorem runSeqTruncate_tail (h : TruncCall m r c p x q) (hform : argN c.entry 0 1 = 0) (hkeep : bit c.entry.args 8 = false)
    (ha : argN c.entry 8 4 = 0) (hb : argN c.entry 12 4 = 0) (hlen : argN c.entry 4 4 ≤ q.length) :
    runSeqTruncate m r c =
      completeSeq (writeTables (updPart m p (fun y => truncTail y q.handle (argN c.entry 4 4))) p) r c
        { q with length := argN c.entry 4 4 } .ok := by
  rw [runSeqTruncate]
  refine (if_neg (by simp [h.clean, hform, hkeep, ha, hb])).trans ((onSeq_on h.seq (.inr h.runs) _).trans ?_)
  refine (atStep_boundary h.boundary _).trans ((if_neg h.may_cut).trans ((if_neg ?inRange).trans ?cut))
  case inRange => simp [hform, hkeep, hlen]
  case cut => simp only [hform, if_true]

theorem runSeqTruncate_pages (h : TruncCall m r c p x q) (hform : argN c.entry 0 1 = 1) (hn : argN c.entry 4 4 = 0)
    (hab : argN c.entry 8 4 ≤ argN c.entry 12 4)
    (hkeep : bit c.entry.args 8 = true → argN c.entry 8 4 = 0 ∧ q.posOffset + 256 * argN c.entry 12 4 < 2 ^ 31)
    (hlen : 256 * argN c.entry 12 4 ≤ q.length) :
    runSeqTruncate m r c =
      completeSeq (writeTables (updPart m p (fun y =>
          truncDrop y q.handle (argN c.entry 8 4) (argN c.entry 12 4) (bit c.entry.args 8))) p) r c
        { q with length := q.length - 256 * (argN c.entry 12 4 - argN c.entry 8 4) } .ok := by
  have hfirst : bit c.entry.args 8 = true → argN c.entry 8 4 = 0 := fun hk => (hkeep hk).1
  have hpos : bit c.entry.args 8 = true → q.posOffset + 256 * argN c.entry 12 4 < 2 ^ 31 := fun hk => (hkeep hk).2
  rw [runSeqTruncate]
  refine (if_neg ?arguments).trans ((onSeq_on h.seq (.inr h.runs) _).trans ?_)
  case arguments => simpa [h.clean, hform, hn, hab] using hfirst
  refine (atStep_boundary h.boundary _).trans ((if_neg h.may_cut).trans ((if_neg ?inRange).trans ?cut))
  case inRange => simpa [hform, hlen] using hpos
  case cut => simp only [hform, Nat.one_ne_zero, if_false]

end

/-- Settles O20: at a step boundary the form decides what is cut. -/
theorem sequenceTruncate : Obligations.SequenceTruncate := by
  refine ⟨?tail, ?pages⟩
  case tail =>
    intro r e h s m c p x q t hq hs hc hstep hstate hform hkeep ha hb hlen
    obtain rfl := taken_entry t
    rw [exec_taken (ins := .seqTruncate r c.entry h) rfl t,
      runSeqTruncate_tail ⟨hq, hs, hc, hstep, hstate⟩ hform hkeep ha hb hlen]
  case pages =>
    intro r e h s m c p x q t hq hs hc hstep hstate hform hn hab hkeep hlen
    obtain rfl := taken_entry t
    rw [exec_taken (ins := .seqTruncate r c.entry h) rfl t,
      runSeqTruncate_pages ⟨hq, hs, hc, hstep, hstate⟩ hform hn hab hkeep hlen]

end Sys2Proof.Machine
end

section
/-! What the stores answer, masked walks and the epoch (R263, R271, R275-R278). -/
namespace Sys2Proof.Machine
open Sys2Proof

/-! ### A store acknowledges -/

/-- The page of an acknowledged record: its copy is current unless the page changed meanwhile, and the reference of the
transfer goes (R276, R278). -/
def recordWritten (bad : Bool) (w : StoreWrite) (rest : List StoreWrite) (y : Part) : Part :=
  dropRef (updPage { y with storeWrites := rest } w.slotPage (fun g =>
    if !bad && !w.stale && (g.state == .filling || g.state == .full) then
      { g with copy := some { location := w.location, slot := w.slot, crc := w.crc, positions := w.positions } }
    else g)) w.slotPage

theorem doStoreWriteAck_journal {m : Mod} {p : Nat} {x : Part} {w : StoreWrite} {rest : List StoreWrite} (hp : partOf? m p = some x)
    (hdone : m.requests.any (fun q => q.part = p && q.write && q.cls = 2) = false) (hw : x.storeWrites = w :: rest)
    (hjournal : w.purpose = 1) (bad : Bool) : doStoreWriteAck p bad m = updPart m p (recordWritten bad w rest) := by
  simp only [doStoreWriteAck, hp, hdone, hw, hjournal, Bool.false_eq_true, if_false, if_true]
  rfl

/-! ### A record arrives -/

/-- The partition `p`, which stands at `x` with the plan `pl`, waits for no more of the oldest record it reads, `t` (R277, R373). -/
structure RecordRead (m : Mod) (p : Nat) (x : Part) (pl : Plan) (t : StoreRead) (rest : List StoreRead) : Prop where
  part : partOf? m p = some x
  answered : m.requests.any (fun q => q.part = p && !q.write && q.cls = 2) = false
  oldest : x.storeReads = t :: rest
  plan : x.plan = some pl

/-- A page taken for the record `t` out of those its SEQ_UNPARK has reserved (R277). -/
def pageForRecord (x : Part) (t : StoreRead) (rest : List StoreRead) : Part × Nat :=
  allocPage { x with
    storeReads := rest, reserved := x.reserved.map (fun r => if r.1 = t.handle then (r.1, r.2 - 1) else r) } t.handle

/-- That page holds the record's positions, has the record as its copy and is the leaf it was read for (R275, R277). -/
def recordEntered (x : Part) (t : StoreRead) (rest : List StoreRead) : Part :=
  let a := pageForRecord x t rest
  pSeq (updPage a.1 a.2 (fun g => { g with
      positions := t.copy.positions, copy := some t.copy, state := if t.copy.positions = 256 then .full else .filling }))
    t.handle (fun q => setLeaf q t.page (.resident a.2))

theorem updPage_of_mget? {x : Part} {g : Nat} {y : PageSlot} (h : mget? x.pages g = some y) (f : PageSlot → PageSlot) :
    updPage x g f = { x with pages := mset x.pages g (f y) } := by
  simp only [updPage, h]

theorem mget?_allocPage (x : Part) (h : BitVec 32) :
    mget? (allocPage x h).1.pages (allocPage x h).2 =
      some { state := .filling, count := 1, epoch := 0, positions := 0, filler := h, copy := none } :=
  mget?_mset_same _ _ _

theorem recordEntered_storeReads (x : Part) (t : StoreRead) (rest : List StoreRead) :
    (recordEntered x t rest).storeReads = rest := by
  simp only [recordEntered, pageForRecord, updPage_of_mget? (mget?_allocPage _ _)]
  rfl

theorem mget?_recordEntered (x : Part) (t : StoreRead) (rest : List StoreRead) :
    ∃ pg, mget? (recordEntered x t rest).pages (pageForRecord x t rest).2 = some pg ∧ pg.copy = some t.copy
      ∧ pg.positions = t.copy.positions := by
  simp only [recordEntered, pageForRecord, updPage_of_mget? (mget?_allocPage _ _)]
  exact ⟨_, mget?_mset_same _ _ _, rfl, rfl⟩

section
variable {m : Mod} {p : Nat} {x : Part} {pl : Plan} {t : StoreRead} {rest : List StoreRead} {failed : Bool} {bs : List Byte}

theorem doStoreReadData_unusable (h : RecordRead m p x pl t rest) (hbad : failed = true ∨ recordVerifies pl bs = false) :
    doStoreReadData p failed bs m =
      if t.tries < 2 then
        askRecord (updPart m p (fun y => { y with storeReads := { t with tries := t.tries + 1 } :: rest })) p x pl t.copy
      else
        let m1 := updPart m p (fun y => { y with storeReads := rest })
        storeWork (unparkLost (post m1 0x0503 (some p) (kvPayload m1 t.handle.toNat t.page p 0 0xFFFF 0)) p x t.handle t.page) p := by
  simp only [doStoreReadData, h.part, h.answered, h.oldest, h.plan, Bool.false_eq_true, if_false]
  exact if_pos (by simpa using hbad)

theorem doStoreReadData_fills {f : Packed} {r : RingRef} {c : Cmd} (h : RecordRead m p x pl t rest)
    (hverifies : recordVerifies pl bs = true) (hfits : recordFits pl t.copy bs = true) (hf : packedOf pl.cacheFormat = some f)
    (hrun : runningOf p x 7 t.handle = some (r, c)) :
    doStoreReadData p false bs m =
      storeWork (updCmd (fillPage (updPart m p (fun _ => recordEntered x t rest)) pl f (pageForRecord x t rest).2 bs) r c.entry.cid
        (fun d => { d with done := d.done + 1 })) p := by
  simp only [doStoreReadData, h.part, h.answered, h.oldest, h.plan, Bool.false_eq_true, if_false]
  refine (if_neg (by simp [hverifies])).trans ((if_neg (by simp [hfits])).trans ?_)
  simp only [hf, hrun, recordEntered, pageForRecord, h.plan]

end

/-! ### Masked walks and the epoch -/

/-- The leaf of a masked page is lost, and its reference goes (R263). -/
def pageMasked (q : Seq) (page : Nat) (x : Part) : Part :=
  match residentPage q page with
  | some g => dropRef (putSeq x (setLeaf q page .lost)) g
  | none => putSeq x (setLeaf q page .lost)

theorem doKvMaskReport_loses {m : Mod} {p page reason site : Nat} {x : Part} {q : Seq} {h : BitVec 32}
    {rest : List (BitVec 32 × Nat × Nat × Nat)} (hp : partOf? m p = some x)
    (hreports : x.maskReports = (h, page, reason, site) :: rest) (hq : seqOf? x h = some q) (hopen : q.state ≠ .lost) :
    doKvMaskReport p m =
      let m1 := updPart m p (fun y => { y with
        maskReports := rest, batch := y.batch.map (fun b => if b.handle = h then { b with masked := true } else b) })
      let m2 := post m1 0x0501 (some p) (kvPayload m1 h.toNat page p reason site 0)
      writeTables (loseSeq (updPart m2 p (pageMasked q page)) p site h) p := by
  simp only [doKvMaskReport, hp, hreports, hq, hopen, if_false]
  rfl

theorem doEpochTick_advances {m : Mod} {p : Nat} {x : Part} (hp : partOf? m p = some x) (hstep : x.inStep = false)
    (hpl : x.plan.isSome = true) : doEpochTick p m = poolCheck (updPart m p (advanceEpoch m.time)) p := by
  simp only [doEpochTick, hp]
  exact if_neg (by simp [hstep, Option.isSome_iff_ne_none.mp hpl])

/-- Settles O21: each row finds what it answers for at the head of its queue, and a record's bytes decide. -/
theorem storesWalksEpoch : Obligations.StoresWalksEpoch := by
  refine ⟨?ack, ?fills, ?unusable, ?masked, ?tick⟩
  case ack =>
    intro p bad s x w rest hp hdone hw hjournal
    refine exec_eq_withMod (f := fun m => shutWork (doStoreWriteAck p.val bad m)) rfl ?_
    rw [doStoreWriteAck_journal hp hdone hw hjournal]
    rfl
  case fills =>
    intro p bs s x pl t rest f r c hp hdone ht hpl hverifies hfits hf hrun
    exact exec_eq_withMod (f := doStoreReadData p.val false bs) rfl
      (doStoreReadData_fills ⟨hp, hdone, ht, hpl⟩ hverifies hfits hf hrun)
  case unusable =>
    intro p failed bs s x pl t rest hp hdone ht hpl hbad
    have hread := doStoreReadData_unusable ⟨hp, hdone, ht, hpl⟩ hbad
    refine ⟨fun htries => ?again, fun htries => ?lost⟩
    all_goals refine exec_eq_withMod (f := doStoreReadData p.val failed bs) rfl (hread.trans ?_)
    case again => exact if_pos htries
    case lost => exact if_neg (Nat.not_lt.mpr htries)
  case masked =>
    intro p s x q h page reason site rest hp hreports hq hopen
    exact exec_eq_withMod (f := doKvMaskReport p.val) rfl (doKvMaskReport_loses hp hreports hq hopen)
  case tick =>
    intro p s x hp hstep hpl
    exact exec_eq_withMod (f := doEpochTick p.val) rfl (doEpochTick_advances hp hstep hpl)

end Sys2Proof.Machine
end

section
/-! Switched domains and ramps (R408, R409, R420, R424, R425), references, PLLs and the fabric clock (R202, R430, R433). The
management PLL only clears its lock, and the loss of the seam clock takes every crossing (log entry 64). -/
namespace Sys2Proof.Machine
open Sys2Proof

/-! ### Posting an event -/

/-- An event reaches the host sites and counts itself; what neither touches stands. -/
theorem post_keeps {β : Type} (g : Mod → β) (hhost : ∀ m h f, g (updHost m h f) = g m)
    (hseq : ∀ m n, g { m with eventSeq := n } = g m) (m : Mod) (code : Nat) (partition : Option Nat) (pl : BitVec 192) :
    g (post m code partition pl) = g m := by
  rw [post, postWith, deliver]
  refine (forAll_keeps g (fun m h => ?_) _ _).trans (hseq m _)
  split
  · exact hhost _ _ _
  · rfl

@[simp] theorem post_clk (m : Mod) (code : Nat) (partition : Option Nat) (pl : BitVec 192) :
    (post m code partition pl).clk = m.clk :=
  post_keeps Mod.clk (fun _ _ _ => rfl) (fun _ _ => rfl) m code partition pl

@[simp] theorem post_thm (m : Mod) (code : Nat) (partition : Option Nat) (pl : BitVec 192) :
    (post m code partition pl).thm = m.thm :=
  post_keeps Mod.thm (fun _ _ _ => rfl) (fun _ _ => rfl) m code partition pl

@[simp] theorem regionAt_post (m : Mod) (code : Nat) (partition : Option Nat) (pl : BitVec 192) (k : Nat) :
    regionAt (post m code partition pl) k = regionAt m k :=
  post_keeps (fun m => regionAt m k) (fun _ _ _ => rfl) (fun _ _ => rfl) m code partition pl

@[simp] theorem regionAt_pwrFlag (m : Mod) (b k : Nat) : regionAt (pwrFlag m b) k = regionAt m k := rfl

/-! ### Domains and ramps -/

@[simp] theorem cmdAnswer_groups (m : Mod) (reason : Nat) : (cmdAnswer m reason).groups = m.groups := rfl

/-- The domain of a port group that is neither enabled nor owned is switched (R408). -/
theorem doDomainCmd_group {m : Mod} {v : BitVec 32} (hlo : 128 ≤ fld v 0 8) (hhi : fld v 0 8 < 144)
    (henable : (groupOf m (fld v 0 8 - 128)).enable = false) (howner : (groupOf m (fld v 0 8 - 128)).owner = none) :
    doDomainCmd v m = cmdAnswer (updGroup m (fld v 0 8 - 128) (fun z => { z with domainOn := bit v 8 })) 0 := by
  have hmax : ¬ 151 < fld v 0 8 := by omega
  have hcore : ¬ fld v 0 8 < 64 := by omega
  simp [doDomainCmd, hmax, hcore, hlo, hhi, henable, howner]

/-- Clock, voltage and guard of a region leave its core domain as it is. -/
theorem core_retargetRegion (m : Mod) (r : Nat) :
    (regionAt (retargetRegion m r) r).power.core = (regionAt m r).power.core := by
  rw [retargetRegion, retargetClock]
  split <;> simp [retargetGuard]

theorem regionAt_lightSites (fz : Fuses) (m : Mod) (r k : Nat) : regionAt (lightSites fz m r) k = regionAt m k :=
  forAll_keeps (fun m => regionAt m k) (fun m s => by split <;> simp) m _

/-- A region whose soft start holds, before the next of its quadrant starts: a spare is WARM, and a region with a role is ON
(R420, R424). -/
def rampEnded (fz : Fuses) (m : Mod) (r : Nat) : Mod :=
  if isSpareRegion r && !(regionAt m r).standin then retargetRegion (updPower (liftCap m r) r (fun y => { y with core := .warm })) r
  else retargetRegion (lightSites fz (updPower (liftCap m r) r (fun y => { y with core := .on })) r) r

theorem doRampDone_holds {m : Mod} {r : Nat} (h : (regionAt m r).power.core = .ramp) (fz : Fuses) :
    doRampDone fz r false m = startNext (rampEnded fz m r) (quadrantOf r) := by
  simp only [doRampDone, h, rampEnded, if_true, Bool.false_eq_true, if_false]
  split <;> rfl

theorem core_rampEnded (fz : Fuses) (m : Mod) (r : Nat) :
    (regionAt (rampEnded fz m r) r).power.core = if isSpareRegion r && !(regionAt m r).standin then .warm else .on := by
  rw [rampEnded]
  split
  · rw [core_retargetRegion, regionAt_updPower_same]
  · rw [core_retargetRegion, regionAt_lightSites, regionAt_updPower_same]

/-- A region gives up its 10 % (R420). -/
def capRegion (m : Mod) (r : Nat) : Mod := updPower m r (fun y => { y with capped := true })

theorem capped_capRegion {m : Mod} {r k : Nat} (h : k = r ∨ (regionAt m k).power.capped = true) :
    (regionAt (capRegion m r) k).power.capped = true := by
  by_cases hk : k = r
  · subst hk
    rw [capRegion, regionAt_updPower_same]
  · rw [capRegion, updPower, regionAt_updRegion_ne _ _ _ _ hk]
    exact h.resolve_left hk

theorem capped_forAll_capRegion {k : Nat} (l : List Nat) (m : Mod) (h : k ∈ l ∨ (regionAt m k).power.capped = true) :
    (regionAt (forAll m l capRegion) k).power.capped = true := by
  induction l generalizing m with
  | nil => exact h.resolve_left List.not_mem_nil
  | cons r l ih =>
    refine ih (capRegion m r) ?_
    rw [List.mem_cons, or_assoc, or_left_comm] at h
    exact h.imp_right capped_capRegion

/-- After 50 ms every other powered region of the quadrant is capped (R420). -/
theorem capped_doHeadroomCap {m : Mod} {r k : Nat} (hwait : (regionAt m r).power.core = .wait)
    (hk : k ∈ quadRegions (quadrantOf r)) (hne : k ≠ r) (hup : coreUp m k = true) :
    (regionAt (doHeadroomCap r m) k).power.capped = true := by
  rw [doHeadroomCap, if_pos hwait, regionAt_post, regionAt_pwrFlag]
  exact capped_forAll_capRegion _ _ (.inl (List.mem_filter.mpr ⟨hk, by simp [hne, hup]⟩))

/-! ### References (R430) -/

/-- The module without the reference in use. -/
def refGone (m : Mod) : Mod :=
  { m with clk := if m.clk.sel1 then { m.clk with ref1 := false } else { m.clk with ref0 := false } }

theorem clk_otherRef (m : Mod) : (otherRef m).clk = { m.clk with sel1 := !m.clk.sel1, refLoss := sat32 (m.clk.refLoss + 1) } := by
  rw [otherRef, post_clk]

/-- With the other reference present every PLL changes to it. -/
theorem doRefLoss_other {m : Mod} (hin : refPresent m.clk = true)
    (hother : (if m.clk.sel1 then m.clk.ref0 else m.clk.ref1) = true) : doRefLoss m = otherRef (refGone m) := by
  rw [doRefLoss, if_neg (by simp [hin])]
  exact if_pos hother

theorem clk_smbWatch (f : Mod → Mod) (m : Mod) : (smbWatch f m).clk = (f m).clk := by
  rw [smbWatch]
  simp only
  split <;> rfl

/-- Reference 1 or reference 0 is present. -/
def refHere (ref1 : Bool) (c : Clk) : Bool := if ref1 then c.ref1 else c.ref0

/-- Changing to the other reference takes no reference away. -/
theorem refHere_otherRef (ref1 : Bool) (m : Mod) : refHere ref1 (otherRef m).clk = refHere ref1 m.clk := by
  rw [clk_otherRef]; rfl

/-- A reference that returns to a running module counts as present. -/
theorem refHere_doRefReturn {m : Mod} (hon : m.pwr.mgmtOn ≠ 0) (hwait : waitingAt m 2 = none) (fz : Fuses) (ref1 : Bool) :
    refHere ref1 (doRefReturn fz ref1 m).clk = true := by
  have hback : refHere ref1 (if ref1 then { m.clk with ref1 := true } else { m.clk with ref0 := true }) = true := by
    cases ref1 <;> rfl
  rw [doRefReturn, if_neg hon]
  simp only
  split
  · next env henv => cases henv.symm.trans hwait
  · split
    · rw [refHere_otherRef]; exact hback
    · exact hback

/-! ### The fabric clock (R433) -/

/-- A half runs at the reduced clock. -/
def reducedHalf (m : Mod) (east : Bool) : Bool := if east then m.thm.fabricE else m.thm.fabricW
/-- The fabric clock of a half. -/
def halfMhz (m : Mod) (east : Bool) : Nat := if east then m.clk.eMhz else m.clk.wMhz
/-- The fabric PLL of a half is locked. -/
def halfLocked (m : Mod) (east : Bool) : Bool := if east then m.clk.fclkELock else m.clk.fclkWLock

/-- A half whose PLL is locked changes between 750 MHz and 1,500 MHz. -/
theorem setFabric_changes {m : Mod} {east reduced : Bool} (hlock : halfLocked m east = true) (hnew : reducedHalf m east ≠ reduced) :
    reducedHalf (setFabric m east reduced) east = reduced
      ∧ halfMhz (setFabric m east reduced) east = if reduced then 750 else 1500 := by
  have hchange : ¬ (if east then m.thm.fabricE else m.thm.fabricW) = reduced := hnew
  rw [setFabric, if_neg hchange]
  simp only [reducedHalf, halfMhz, post_clk, post_thm]
  cases east with
  | true => exact ⟨rfl, if_pos hlock⟩
  | false => exact ⟨rfl, if_pos hlock⟩

theorem doFabricClock_hot {m : Mod} {east : Bool} (hfull : reducedHalf m east = false) (hhot : halfAt m east 384 = true) :
    doFabricClock east m = setFabric m east true :=
  (if_neg (ne_true_of_eq_false hfull)).trans (if_pos hhot)

theorem doFabricClock_cooled {m : Mod} {east : Bool} (hred : reducedHalf m east = true) (hmin : m.thm.minclk = false)
    (hcool : halfAt m east 360 = false) (hsecond : coolFor m (if east then 1 else 0) = true) :
    doFabricClock east m = setFabric m east false :=
  (if_pos hred).trans (if_pos (by rw [hmin, hcool, hsecond]; rfl))

/-! ### The obligation -/

/-- A command without fuses answers some module of which all holds that holds of what its meaning answers. -/
theorem exec_exists {c : Instr} {s : State} {f : Mod → Mod} {P : Mod → Prop} (hx : exec c s = lift f s) (h : P (f s.mod)) :
    ∃ t, exec c s = .next (s.withMod t) ∧ P t :=
  ⟨f s.mod, exec_eq_withMod hx rfl, h⟩

/-- Settles O60: each row does what it does where its conditions hold, and its own effect shows in the fields named. -/
theorem loadsPowerAndClocksComplete : Obligations.LoadsPowerAndClocksComplete := by
  refine ⟨⟨?record, ?load⟩, ⟨?chunk, ?unload⟩, ⟨?domain, ?ramp, ?headroom, ?quadrant⟩, ?refLoss, ?refReturn, ?lockLoss, ?relock,
    ?fabric⟩
  case record =>
    intro p bs s x pl t rest f r c hp hdone ht hpl hverifies hfits hf hrun
    obtain ⟨pg, hpg, hcopy, hpositions⟩ := mget?_recordEntered x t rest
    refine ⟨_, recordEntered x t rest, (pageForRecord x t rest).2, pg,
      exec_eq_withMod (f := doStoreReadData p.val false bs) rfl
        (doStoreReadData_fills ⟨hp, hdone, ht, hpl⟩ hverifies hfits hf hrun),
      ?_, recordEntered_storeReads x t rest, hpg, hcopy, hpositions⟩
    rw [partOf?_updPart_same, hp]; rfl
  case load =>
    intro r e h s m c p x t hp hclean hvalues hsource hvaligned hwaligned hrecord hplan hload hbuffers img vals hok
    obtain rfl := taken_entry t
    have hcall : PlanCall m r c p x := ⟨hp, hclean, hvalues, by omega, hvaligned, fun _ => hwaligned, hrecord⟩
    have hok' : planChecks s.fuses m p x (planImage m r c.entry) c.entry.len0.toNat (planValues m r c.entry) = .ok () := hok
    rw [exec_taken (ins := .planLoad r c.entry h) rfl t, runPlanLoad_free hcall hplan hload hbuffers, hok',
      answerPlan_begins (.inl hsource), hsource]
    rfl
  case chunk =>
    intro p bs s x l k site vc hp hl hdue hk hsource hlen hcrc hsite hvc
    refine ⟨updPart s.mod p.val (fun y => { y with load := some (saveSlice s.mod site l) }), ?_, ?_⟩
    · rw [partOf?_updPart_same, hp]; rfl
    · have hdelivered : Delivered s.mod p.val x l := ⟨hp, hl, fun hstore => by omega⟩
      exact exec_eq_withMod (f := doWeightChunk p.val bs false) rfl
        (doWeightChunk_good hdelivered hdue hk (by simp [ChunkBad, hlen, hcrc]) hsite hvc)
  case unload =>
    intro r e h s m c p x t hp hc hload hplan hnow
    obtain rfl := taken_entry t
    rw [exec_taken (ins := .planUnload r c.entry h) rfl t, runPlanUnload_call hp hc]
    simp [hload, Option.isSome_iff_ne_none.mp hplan, hnow]
  case domain =>
    intro v s hlo hhi henable howner
    refine exec_exists (f := doDomainCmd v) rfl ?_
    rw [doDomainCmd_group hlo hhi henable howner]
    exact ⟨rfl, rfl, cmdAnswer_groups _ _⟩
  case ramp =>
    intro r s hramp
    exact ⟨rampEnded s.fuses s.mod r.val,
      exec_eq_withMod (f := doRampDone s.fuses r.val false) rfl (doRampDone_holds hramp s.fuses),
      core_rampEnded s.fuses s.mod r.val⟩
  case headroom =>
    intro r s hwait
    exact exec_exists (f := doHeadroomCap r.val) rfl (fun k hk hne hup => capped_doHeadroomCap hwait hk hne hup)
  case quadrant =>
    intro q w s
    exact ⟨{ s.mod with pwr := { s.mod.pwr with quadW := s.mod.pwr.quadW.set q.val (sat16 w) } }, rfl, rfl⟩
  case refLoss =>
    intro s hin hother
    refine exec_exists (f := doRefLoss) rfl ?_
    rw [doRefLoss_other hin hother, clk_otherRef, refGone]
    cases hsel : s.mod.clk.sel1 <;> simp [hsel]
  case refReturn =>
    intro ref1 s hon hwait
    refine exec_exists (f := smbWatch (doRefReturn s.fuses ref1)) rfl ?_
    rw [clk_smbWatch]
    exact refHere_doRefReturn hon hwait s.fuses ref1
  case lockLoss =>
    intro k s
    match k with
    | 0 | 1 | 2 | 3 => exact ⟨_, rfl, by simp⟩
  case relock =>
    intro k s
    refine exec_exists (f := doRelock k.val) rfl ?_
    match k with
    | 0 | 1 | 2 | 3 => simp [doRelock]
  case fabric =>
    intro east s red mhz hlock
    refine ⟨fun hfull hhot => ?hot, fun hred hmin hcool hsecond => ?cooled⟩
    all_goals refine exec_exists (f := doFabricClock east) rfl ?_
    case hot =>
      rw [doFabricClock_hot hfull hhot]
      exact setFabric_changes hlock (ne_of_eq_of_ne hfull Bool.false_ne_true)
    case cooled =>
      rw [doFabricClock_cooled hred hmin hcool hsecond]
      exact setFabric_changes hlock (ne_of_eq_of_ne hred Bool.true_eq_false.mp)

end Sys2Proof.Machine
end

section
/-! A step takes the front command (R301, R495): it answers a next state with the rest of the queue, but for a message whose
lines are not those its header counts, which no link delivers (R359; log entry 80). -/
namespace Sys2Proof.Machine
open Sys2Proof

/-! ### A command leaves the queue -/

/-- Blowing a fuse leaves the queue (R396). -/
@[simp] theorem doFuseDone_pending (s : State) : (doFuseDone s).pending = s.pending := by
  unfold doFuseDone
  split <;> rfl

/-- A command that can reach the block answers a next state with the queue as it was. -/
theorem exec_of_wellFormed {c : Instr} (hc : c.wellFormed = true) (s : State) :
    ∃ t, exec c s = .next t ∧ t.pending = s.pending := by
  rcases exec_withMod c s hc with ⟨m, hm⟩ | rfl
  · exact ⟨s.withMod m, hm, rfl⟩
  · exact ⟨doFuseDone s, rfl, doFuseDone_pending s⟩

/-- Only WRITE and READ_DATA carry lines, so only they can have a wrong number of them (R359). -/
theorem exec_of_illFormed {c : Instr} (hc : c.wellFormed = false) (s : State) : exec c s = .fault .illFormed := by
  cases c
  case write g k hd lines h => exact if_neg (beq_eq_false_iff_ne.mp hc)
  case readData g k hd lines => exact if_neg (beq_eq_false_iff_ne.mp hc)
  all_goals exact nomatch hc

/-! ### A step -/

theorem step_of_pending_nil {s : State} (h : s.pending = []) : step s = tick s := by
  rw [step, h]

theorem step_of_pending_cons {c : Instr} {rest : List Instr} {s : State} (h : s.pending = c :: rest) :
    step s = exec c { s with pending := rest } := by
  rw [step, h]

/-- All a step can do: it takes what stands in front of the queue, if anything does, or it stops there at an ill-formed
message. -/
theorem step_cases (s : State) :
    (∃ t, step s = .next t ∧ t.pending = s.pending.tail)
      ∨ ∃ c rest, s.pending = c :: rest ∧ c.wellFormed = false ∧ step s = .fault .illFormed := by
  cases hs : s.pending with
  | nil => exact .inl ⟨_, step_of_pending_nil hs, hs⟩
  | cons c rest =>
    rw [step_of_pending_cons hs]
    cases hc : c.wellFormed with
    | true => exact .inl (exec_of_wellFormed hc _)
    | false => exact .inr ⟨c, rest, rfl, hc, exec_of_illFormed hc _⟩

/-- A queue without its front command is as good as before. -/
theorem QueueOk.of_tail {s t : State} (h : QueueOk s) (ht : t.pending = s.pending.tail) : QueueOk t :=
  fun c hc => h c (List.mem_of_mem_tail (ht ▸ hc))

/-! ### The obligation -/

/-- Settles O57: `step_cases` says what a step can do, and a well-formed queue rules the stop out. -/
theorem everyStepAnswers : Obligations.EveryStepAnswers := by
  refine ⟨fun s hq => ?answers, fun s f hf => ?stops, fun s r hr => ?refuses⟩
  all_goals rcases step_cases s with ⟨t, hstep, htail⟩ | ⟨c, rest, hs, hc, hstep⟩
  case answers.inl => exact ⟨t, hstep, htail, hq.of_tail htail⟩
  case answers.inr =>
    have hfront : c.wellFormed = true := hq c (hs ▸ List.mem_cons_self)
    exact absurd hc (ne_false_of_eq_true hfront)
  case stops.inl => exact nomatch hstep.symm.trans hf
  case stops.inr => exact ⟨by injection hf.symm.trans hstep, c, rest, hs, hc⟩
  case refuses.inl => exact nomatch hstep.symm.trans hr
  case refuses.inr => exact nomatch hstep.symm.trans hr

end Sys2Proof.Machine
end

section
/-! Register writes over a host site's link (R500, R508), and the service of a ring pair: its doorbells, its fetches and its
completions (R294-R299, R312, R315, R318). -/
namespace Sys2Proof.Machine
open Sys2Proof

/-! ### Writes over the link -/

/-- A write to a pair's registers acts while the link of its host site is up; one to an admin pair is a write to `GLB` (R500,
R508). -/
theorem viaRing_up {m : Mod} {r : RingRef} (h : ringLink m r = true) (f : Mod → Mod) : viaRing r f m = f (glbClosed m r) := by
  cases r with
  | admin k => exact if_pos h
  | part p q => exact if_pos h

/-- Such a write, as a command. -/
theorem exec_ringWrite {ins : Instr} {s : State} {r : RingRef} {f : Mod → Mod} {m : Mod}
    (hx : exec ins s = lift (viaRing r f) s) (hup : ringLink s.mod r = true) (hf : f (glbClosed s.mod r) = m) :
    exec ins s = .next (s.withMod m) :=
  exec_eq_withMod hx ((viaRing_up hup f).trans hf)

/-! ### Doorbells (R296, R297) -/

section
variable {m : Mod} {r : RingRef} {v : Nat}

/-- A tail on the ring that leaves one entry free is taken. -/
theorem doSqTail_sets (hactive : (pairOf m r).state = .active) (hring : v < sqSize (pairOf m r))
    (hroom : ringDist (sqSize (pairOf m r)) (pairOf m r).sqTail v
      ≤ sqSize (pairOf m r) - 1 - ringDist (sqSize (pairOf m r)) (pairOf m r).sqHead (pairOf m r).sqTail) :
    doSqTail r v m = updPair m r (fun q => { q with sqTail := v }) :=
  (if_neg (not_not_intro hactive)).trans ((if_neg (Nat.not_le.mpr hring)).trans (if_neg (Nat.not_lt.mpr hroom)))

theorem doSqTail_offRing (hactive : (pairOf m r).state = .active) (hring : sqSize (pairOf m r) ≤ v) :
    doSqTail r v m = pairError m r 3 :=
  (if_neg (not_not_intro hactive)).trans (if_pos hring)

/-- The entries before the new head are consumed: their completions and the commands known only for them are forgotten. -/
def consumeCompls (v d : Nat) (q : Pair) : Pair :=
  let q1 := { q with cqHead := v, posted := q.posted.drop d, cqFull := q.cqFull && d == 0 }
  { q1 with cmds := q1.cmds.filter (stillKnown q1) }

/-- A head on the ring that does not pass the entries written is taken. -/
theorem doCqHead_consumes (hactive : (pairOf m r).state = .active) (hring : v < cqSize (pairOf m r))
    (hwritten : ringDist (cqSize (pairOf m r)) (pairOf m r).cqHead v
      ≤ ringDist (cqSize (pairOf m r)) (pairOf m r).cqHead (pairOf m r).cqTail) :
    doCqHead r v m = updPair m r (consumeCompls v (ringDist (cqSize (pairOf m r)) (pairOf m r).cqHead v)) :=
  (if_neg (not_not_intro hactive)).trans ((if_neg (Nat.not_le.mpr hring)).trans (if_neg (Nat.not_lt.mpr hwritten)))

theorem doCqHead_offRing (hactive : (pairOf m r).state = .active) (hring : cqSize (pairOf m r) ≤ v) :
    doCqHead r v m = pairError m r 3 :=
  (if_neg (not_not_intro hactive)).trans (if_pos hring)

end

/-! ### Fetches and completions (R297-R299, R318) -/

section
variable {m : Mod} {r : RingRef}

theorem canFetch_iff : canFetch m r = true ↔
    (pairOf m r).state = .active ∧ rmAlive m = true ∧ (pairOf m r).sqHead ≠ (pairOf m r).sqTail ∧ ringLink m r = true
      ∧ outstanding (pairOf m r) < cqSize (pairOf m r) - 1 := by
  simp [canFetch, and_assoc]

/-- An entry that the host bus hands over is decoded, and the head moves on. -/
theorem fetchEntry_accepted (h : rejected (hostOf m (ringHost m r)) (headAddr (pairOf m r)) 64 = false) (e : SqEntry) :
    fetchEntry m r e = decodeFetched (updPair m r (fun q => { q with sqHead := (q.sqHead + 1) % sqSize q })) r e :=
  if_neg (ne_true_of_eq_false h)

end

/-! ### The obligation -/

/-- Settles O26: each doorbell, fetch and completion meets its guard on an active pair. -/
theorem ringService : Obligations.RingService := by
  refine ⟨⟨?tail, ?head⟩, ?fetch, ?post, ?coalesce⟩
  case tail =>
    intro r v s hup hactive
    refine ⟨fun hring hroom => ?_, fun hring => ?_⟩
    · exact exec_ringWrite (f := doSqTail r v.toNat) rfl hup (doSqTail_sets hactive hring hroom)
    · exact exec_ringWrite (f := doSqTail r v.toNat) rfl hup (doSqTail_offRing hactive hring)
  case head =>
    intro r v s hup hactive
    refine ⟨fun hring hwritten => ?_, fun hring => ?_⟩
    · exact exec_ringWrite (f := doCqHead r v.toNat) rfl hup (doCqHead_consumes hactive hring hwritten)
    · exact exec_ringWrite (f := doCqHead r v.toNat) rfl hup (doCqHead_offRing hactive hring)
  case fetch =>
    intro r h s m p hactive halive hentries hup hroom haccepted
    have hcan : canFetch m r = true := canFetch_iff.mpr ⟨hactive, halive, hentries, hup, hroom⟩
    exact exec_eq_withMod (f := doSqEntryFetch r h) rfl ((if_pos hcan).trans (fetchEntry_accepted haccepted _))
  case post =>
    intro r h s c rest m p tail fire hout hactive hfree hup horder hroom haccepted
    have hgo : ¬ ((pairOf m r).state ≠ .active ∨ pairHeld m r = true ∨ ¬ ringLink m r = true
        ∨ targetUnwritten m r c = true) := by
      simp [show (pairOf m r).state = .active from hactive, hfree, hup, horder]
    refine exec_eq_withMod (f := doCompletionPost r h) rfl ?_
    change postOne r m = _
    rw [postOne]
    simp only [show (pairOf m r).outbox = c :: rest from hout]
    exact (if_neg hgo).trans ((if_neg hroom).trans (if_neg (ne_true_of_eq_false haccepted)))
  case coalesce =>
    intro r s hwaits
    exact exec_eq_withMod (f := doIrqTimeout r) rfl (if_neg hwaits.ne')

end Sys2Proof.Machine
end

section
/-! Sessions and ring pairs opened and closed (R293-R295, R316, R319), over the link of their host site (R500, R508). -/
namespace Sys2Proof.Machine
open Sys2Proof

/-! ### Sessions (R293, R316) -/

/-- A write to a partition's function acts while the link of the host site is up (R500). -/
theorem exec_siteWrite {ins : Instr} {s : State} {h : Nat} {f : Mod → Mod} {m : Mod} (hx : exec ins s = lift (viaSite h f) s)
    (hup : (hostOf s.mod h).linkUp = true) (hf : f s.mod = m) : exec ins s = .next (s.withMod m) :=
  exec_eq_withMod hx ((if_pos hup).trans hf)

section
variable {m : Mod} {h p : Nat} {x : Part}

/-- ATTACH of an IDLE session takes the cookie, unless it is 0. -/
theorem doAttach_idle (hp : partOf? m p = some x) (hh : partHost x = h) (hs : x.session = .idle) :
    doAttach h p m = updPart m p (fun y =>
      if x.cookieReg = 0 then { y with cookieBad := true }
      else { y with session := .active, cookie := y.cookieReg, cookieBad := false }) := by
  simp only [doAttach, hp, hh, hs, ne_eq, not_true_eq_false, if_false]
  split <;> rfl

/-- ATTACH of a LOST session asks for the cookie it had. -/
theorem doAttach_lost (hp : partOf? m p = some x) (hh : partHost x = h) (hs : x.session = .lost) :
    doAttach h p m = updPart m p (fun y =>
      if x.cookieReg = x.cookie then { y with session := .reattach, cookieBad := false }
      else { y with cookieBad := true }) := by
  simp only [doAttach, hp, hh, hs, ne_eq, not_true_eq_false, if_false]
  split <;> rfl

theorem doDetach_active (hp : partOf? m p = some x) (hh : partHost x = h) (hs : x.session = .active)
    (hoff : x.pairs.all (fun q => !q.2.enable) = true) :
    doDetach h p m = updPart m p (fun y => { y with session := .idle, cookie := 0 }) := by
  simp only [doDetach, hp]
  exact if_pos ⟨hh, hs, hoff⟩

end

/-! ### Ring pairs (R294, R295, R319) -/

section
variable {m : Mod} {r : RingRef}

/-- The sizes and units of a pair are ones it can be put into service with (R294, R295). -/
def setupOk (p : Pair) : Bool :=
  6 ≤ p.sqLog2 && p.sqLog2 ≤ 16 && 6 ≤ p.cqLog2 && p.cqLog2 ≤ 16 && 1 ≤ p.units && p.units ≤ 16

/-- Enabling a disabled pair that may be enabled: its set-up and the units left at its site decide. -/
theorem doRpEnable_disabled (hoff : (pairOf m r).enable = false) (hmay : mayEnable m r = true) :
    doRpEnable r m =
      if !setupOk (pairOf m r) then pairError (updPair m r (fun q => { q with enable := true })) r 5
      else if 1024 < unitsUsed m (ringHost m r) r + (pairOf m r).units then
        pairError (updPair m r (fun q => { q with enable := true })) r 4
      else updPair m r startPair := by
  have hgo : ¬ ((pairOf m r).enable || !mayEnable m r) = true := by simp [hoff, hmay]
  exact if_neg hgo

/-- The pair once it is disabled: its output is dropped, and it stays in service while commands have yet to complete. -/
def disabledPair (left : List Cmd) (q : Pair) : Pair :=
  { q with
    enable := false, outbox := [], heldWrites := [], posted := [], cqFull := false, cmds := left,
    sentWrites := [], sentCompls := [],
    state := if left.isEmpty then .off else q.state, reserve := if left.isEmpty then 0 else q.reserve }

theorem doRpDisable_admin {k : HostId} (hon : (pairOf m (.admin k)).enable = true) :
    doRpDisable (.admin k) m = updPair m (.admin k) (disabledPair (liveCmds (pairOf m (.admin k)))) :=
  if_neg (by simp [hon])

theorem doRpDisable_part {n : PartId} {k : Fin 64} (hon : (pairOf m (.part n k)).enable = true) :
    doRpDisable (.part n k) m =
      let left := liveCmds (pairOf m (.part n k))
      left.foldl (fun m c => stopSoon m n.val (.part n k) c) (updPair m (.part n k) (disabledPair left)) :=
  if_neg (by simp [hon])

end

/-! ### The obligation -/

/-- Settles O27: the link is up, so each write reaches its session or pair and meets its guard there. -/
theorem ringAndSessionControl : Obligations.RingAndSessionControl := by
  refine ⟨⟨?attach, ?resume⟩, ?enable, ?disable⟩
  case attach =>
    intro h p s x hup hp hh
    refine ⟨fun hidle => ?_, fun hlost => ?_, fun hactive hoff => ?_⟩
    · exact exec_siteWrite (f := doAttach h.val p.val) rfl hup (doAttach_idle hp hh hidle)
    · exact exec_siteWrite (f := doAttach h.val p.val) rfl hup (doAttach_lost hp hh hlost)
    · exact exec_siteWrite (f := doDetach h.val p.val) rfl hup (doDetach_active hp hh hactive hoff)
  case resume =>
    intro h p side s x hup hp hh hsession
    have hgo : ¬ (partHost x ≠ h.val ∨ x.session ≠ .reattach) := by simp [hh, hsession]
    refine exec_siteWrite (f := doResume h.val p.val side) rfl hup ?_
    rw [doResume]
    simp only [hp]
    exact if_neg hgo
  case enable =>
    intro r s hup m p ok hoff hmay
    exact exec_ringWrite (f := doRpEnable r) rfl hup (doRpEnable_disabled hoff hmay)
  case disable =>
    intro r s hup hon
    refine exec_ringWrite (f := doRpDisable r) rfl hup ?_
    cases r with
    | admin k => exact doRpDisable_admin hon
    | part n k => exact doRpDisable_part hon

end Sys2Proof.Machine
end

section
/-! Host links (R287, R288, R313-R317), the reset of a site's banked registers (R499), and the class table (R321, R388). -/
namespace Sys2Proof.Machine
open Sys2Proof

/-- A function-level reset of the function of one of the site's partitions is a loss for that partition (R317). -/
theorem doFlr_partition {m : Mod} {h : HostId} {fn : Nat} {x : Part} (hfn : fn ≠ 0)
    (hp : partOf? (hostFlag m h.val 5) (fn - 1) = some x) (hh : partHost x = h.val) :
    doFlr h fn m = hostLoss (hostFlag m h.val 5) h.val 3 [fn - 1] := by
  have hown : (partOf? (hostFlag m h.val 5) (fn - 1)).any (fun x => partHost x == h.val) = true := by simp [hp, hh]
  exact (if_neg hfn).trans (if_pos hown)

/-! ### The obligation -/

/-- Settles O28: a link that is up falls, a reset finds its function's partition, and a UCIe event is one of five. -/
theorem hostLinks : Obligations.HostLinks := by
  refine ⟨?down, ?reset, ?events, ?up, ?classes⟩
  case down =>
    intro h hot s hup
    exact exec_eq_withMod (f := doLinkLoss h hot) rfl (if_pos hup)
  case reset =>
    intro h fn s
    refine ⟨fun hfn => ?_, fun x hfn hp hh => ?_⟩
    · exact exec_eq_withMod (f := doFlr h fn.val) rfl (if_pos hfn)
    · exact exec_eq_withMod (f := doFlr h fn.val) rfl (doFlr_partition hfn hp hh)
  case events =>
    intro h k n s
    refine ⟨?_, ?_, ?_, ?_, ?_⟩
    all_goals exact exec_eq_withMod (f := doUcieRetrain h _) rfl rfl
  case up =>
    intro h modules gt32 s hmodules
    exact exec_eq_withMod (f := doUcieUp h.val modules gt32) rfl (if_neg hmodules)
  case classes =>
    intro p c ftl s
    exact exec_eq_withMod (f := doClassWrite p.val c.val ftl) rfl rfl

end Sys2Proof.Machine
end

section
/-! The six sampler stages (R341-R346). -/
namespace Sys2Proof.Machine
open Sys2Proof

/-- A stage issued for a sampled member acts on its working state and completes (R344). -/
theorem runStage_done {op k : Nat} {i : Issue} {s : State} {x : Part} {c c1 e : Core} {q : Sampler} {w w' : SampWork}
    {f : Sampler → SampWork → SampWork} (h : Computes 3 op i s x c) (hb : badVecFmt i.word = false)
    (hw : WorkNow i x k c c1 q w) (hf : f q w = w') (he : completeCore i.word (setWork c1 k w') = .ok e) :
    runStage op k i s.mod f = updCore s.mod i.site.val (fun _ => bumpDone 3 e) := by
  subst hf
  obtain ⟨hq, ⟨hheld, rfl⟩ | ⟨hnone, vs, hsrc, rfl⟩⟩ := hw
  · exact runCompute_done h hb (by simp only [hq, hheld]; rfl) rfl he
  · exact runCompute_done h hb (by simp only [hq, hnone]; exact bind_eq_ok hsrc rfl) rfl he

/-- Settles O9: SAMP_BIAS reads the logits anew, and every other stage finds its member's working state. -/
theorem samplerStages : Obligations.SamplerStages := by
  refine ⟨?bias, ?penalty, ?filter, ?draw, ?count, ?stop⟩
  case bias =>
    intro i k s x c c1 e q vs h hb hq hsrc he
    exact exec_compute_done rfl h hb (by simp only [hq]; exact bind_eq_ok hsrc rfl) rfl he
  case penalty =>
    intro i k s x c c1 e q w h hb hw he
    exact exec_eq_withMod (f := doSampPenalty i k.val) rfl (runStage_done h hb hw rfl he)
  case filter =>
    intro i k s x c c1 e q w h hb hw he
    exact exec_eq_withMod (f := doSampFilter i k.val) rfl (runStage_done h hb hw rfl he)
  case draw =>
    intro i k s x c c1 e q w h hb hw he
    refine exec_eq_withMod (f := doSampDraw i k.val) rfl (runStage_done h hb hw ?drawn he)
    obtain ⟨logits, cands, token, counted, stop⟩ := w
    cases token with
    | none => rfl
    | some t => rfl
  case count =>
    intro i k s x c c1 e q w h hb hw he
    exact exec_eq_withMod (f := doSampCount i k.val) rfl (runStage_done h hb hw rfl he)
  case stop =>
    intro i k s x c c1 e q w h hb hw he
    refine exec_eq_withMod (f := doSampStop i k.val) rfl (runStage_done h hb hw ?stops he)
    cases w.token.bind (tabEntry? q.table) with
    | none => rfl
    | some entry => rfl

end Sys2Proof.Machine
end

section
/-! SEQ_FORK (R273, R347): the child's sampler is its parent's but for the seed. -/
namespace Sys2Proof.Machine
open Sys2Proof

/-! ### Entering a sequence -/

theorem mem_insertSeq_self (q : Seq) (l : List Seq) : q ∈ insertSeq q l := by
  induction l with
  | nil => exact List.mem_singleton_self q
  | cons r rs ih =>
    rw [insertSeq]
    split
    · exact List.mem_cons_self
    · exact List.mem_cons_of_mem r ih

theorem growLeaves_samp {x x1 : Part} {q q1 : Seq} {n : Nat} (h : growLeaves x q n = some (x1, q1)) : q1.samp = q.samp := by
  simp only [growLeaves] at h
  split at h
  · cases h; rfl
  · split at h
    · cases h
    · cases h; rfl

/-- A sequence that is entered stands under the handle it gets, with the sampler it came with. -/
theorem mem_seqs_enterSeq (x : Part) (slot : Nat) (par : Option Nat) (q : Seq) :
    ∃ child ∈ (enterSeq x slot par q).1.seqs, child.handle = (enterSeq x slot par q).2 ∧ child.samp = q.samp :=
  ⟨_, mem_insertSeq_self _ _, rfl, rfl⟩

/-- So does one that is entered with shared pages: its new leaf tables leave the sampler. -/
theorem mem_seqs_enterShared {x : Part} {par : Nat} {q : Seq} {g : Part × BitVec 32} (h : enterShared x par q = some g) :
    ∃ child ∈ g.1.seqs, child.handle = g.2 ∧ child.samp = q.samp := by
  simp only [enterShared] at h
  split at h
  · cases h
  · split at h
    · cases h
    · split at h
      · cases h
      · rename_i x1 q1 hgrow
        cases h
        rw [← growLeaves_samp hgrow]
        exact mem_seqs_enterSeq _ _ _ q1

/-! ### The command -/

/-- The seed SEED_MODE selects for the child of `q` (R347). -/
def forkSeed (e : SqEntry) (q : Seq) : Nat :=
  if argN e 0 1 = 0 then sSeed q.samp.block else if argN e 0 1 = 1 then argN e 8 8 else argN e 8 8 ^^^ sSeed q.samp.block

/-- The child of `q`, before it has a handle, leaf tables and references (R273). -/
def forkChild (e : SqEntry) (x : Part) (q : Seq) : Seq :=
  { q with
    state := if q.state = .parked then .parked else .opened, pending := [], hold := false, holdTarget := false,
    storeBase := argN e 16 8, storePages := argN e 24 4, leafTables := [], leaves := q.leaves.take (seqPages x q),
    pausedBefore := false, written := false, tableReady := true,
    samp := { q.samp with block := putFld q.samp.block 0 64 (forkSeed e q) } }

theorem forkSeed_lt (e : SqEntry) (q : Seq) : forkSeed e q < 2 ^ 64 := by
  have hold : sSeed q.samp.block < 2 ^ 64 := fld_lt _ _ _
  have hnew : argN e 8 8 < 2 ^ 64 := fld_lt _ _ _
  rw [forkSeed]
  split
  · exact hold
  · split
    · exact hnew
    · exact Nat.xor_lt_two_pow hnew hold

theorem sSeed_forkChild (e : SqEntry) (x : Part) (q : Seq) : sSeed (forkChild e x q).samp.block = forkSeed e q :=
  (fld_putFld _ 0 64 _ (by decide)).trans (Nat.mod_eq_of_lt (forkSeed_lt e q))

section
variable {m : Mod} {r : RingRef} {c : Cmd} {p : Nat} {x : Part} {q : Seq} {g : Part × BitVec 32}

/-- `c` is a SEQ_FORK at a step boundary whose arguments pass, of a sequence that may be forked (R273, R347). -/
structure ForkCall (m : Mod) (r : RingRef) (c : Cmd) (p : Nat) (x : Part) (q : Seq) : Prop where
  seq : OnSeq m r p x q c
  runs : planStopped x = false
  clean : entryClean c.entry true false false [(0, 8), (64, 64), (128, 64), (192, 32)] = true
  mode : argN c.entry 0 1 ≤ 2
  noSeed : argN c.entry 0 1 = 0 → argN c.entry 8 8 = 0
  area : areaOk m x (argN c.entry 16 8) (argN c.entry 24 4) = true
  boundary : x.inStep = false
  state : takesSteps q = true ∨ q.state = .parked

theorem runSeqFork_forks (h : ForkCall m r c p x q)
    (hg : enterShared x (handleParity q.handle) (forkChild c.entry x q) = some g) :
    runSeqFork m r c = completeOpen (updPart m p (fun _ => g.1)) r c g.2 0 := by
  have hseed := h.noSeed
  have hstate := h.state
  rw [runSeqFork]
  refine (if_neg ?arguments).trans ((onSeq_on h.seq (.inr h.runs) _).trans ((if_neg ?area).trans ?_))
  case arguments => simpa [h.clean, h.mode] using hseed
  case area => simp [h.area]
  refine (atStep_boundary h.boundary _).trans ((if_neg ?state).trans ?forks)
  case state => simpa using fun htakes => hstate.resolve_left (ne_true_of_eq_false htakes)
  case forks =>
    rw [forkChild, forkSeed] at hg
    simp only [hg]

/-- SEED_MODE is 0, 1 or 2, and mode 0 takes no SEED (R347). -/
theorem runSeqFork_badSeed (h : 2 < argN c.entry 0 1 ∨ argN c.entry 0 1 = 0 ∧ argN c.entry 8 8 ≠ 0) :
    runSeqFork m r c = completeQ m r c .badDescriptor := by
  rw [runSeqFork]
  refine if_pos ?_
  rcases h with hmode | ⟨hzero, hseed⟩
  · simp [hmode]
  · simp [hzero, hseed]

end

/-- Settles O19: the child is entered with its parent's sampler but for the seed, which fits its field. -/
theorem forkSeeds : Obligations.ForkSeeds := by
  refine ⟨?forks, ?badSeed⟩
  case forks =>
    intro r e h s m c p x q g t hq hs hc hmode hnoSeed harea hstep hstate seed henter
    obtain rfl := taken_entry t
    obtain ⟨child, hmem, hhandle, hsamp⟩ := mem_seqs_enterShared henter
    refine ⟨?answer, child, hmem, hhandle, by rw [hsamp], ?seed⟩
    case answer =>
      rw [exec_taken (ins := .seqFork r c.entry h) rfl t,
        runSeqFork_forks ⟨hq, hs, hc, hmode, hnoSeed, harea, hstep, hstate⟩ henter]
    case seed => rw [hsamp]; exact sSeed_forkChild c.entry x q
  case badSeed =>
    intro r e h s m c t hbad
    obtain rfl := taken_entry t
    rw [exec_taken (ins := .seqFork r c.entry h) rfl t, runSeqFork_badSeed hbad]

end Sys2Proof.Machine
end

section
/-! ADAPTER_LOAD and ADAPTER_RETIRE (R329, R332, R333, R336). -/
namespace Sys2Proof.Machine
open Sys2Proof

section
variable {m : Mod} {r : RingRef} {c : Cmd} {p : Nat} {x : Part} {pl : Plan}

/-- `c` is an adapter command, with a buffer or without, whose arguments pass, on the partition `p` of its ring, which stands
at `x` and runs the plan `pl` (R329). -/
structure AdapterCall (buffer : Bool) (m : Mod) (r : RingRef) (c : Cmd) (p : Nat) (x : Part) (pl : Plan) : Prop where
  part : OnPart m r p x
  plan : x.plan = some pl
  runs : planStopped x = false
  clean : entryClean c.entry false buffer false [(0, 16), (16, 16)] = true
  id : argN c.entry 0 2 < pl.maxAdapters

/-- The version an ADAPTER_LOAD of the blocks `blocks` places (R333; their lines by log entry 73). -/
def placedVersion (r : RingRef) (e : SqEntry) (x : Part) (pl : Plan) (blocks : List DeltaBlk) : Adapter :=
  { id := argN e 0 2, version := argN e 2 2, retiring := false, loading := true, addr := e.addr0.toNat, len := e.len0.toNat,
    blocks := blocks, places := adapterPlaces x pl blocks, written := false, cmd := some (r, e.cid) }

/-- The partition with the version an ADAPTER_RETIRE names marked (R336). -/
def retireVersion (r : RingRef) (e : SqEntry) (y : Part) : Part :=
  { y with adapters := y.adapters.map (fun d =>
      if d.id = argN e 0 2 && d.version = argN e 2 2 then { d with retiring := true, cmd := some (r, e.cid) } else d) }

theorem runAdapterLoad_places {bs : List Byte} (h : AdapterCall true m r c p x pl)
    (hread : rejected (hostOf m (ringHost m r)) c.entry.addr0.toNat c.entry.len0.toNat = false)
    (hbs : hostRead (hostOf m (ringHost m r)) c.entry.addr0.toNat c.entry.len0.toNat = bs) (himage : imageOk pl bs = true)
    (hnew : x.adapters.any (fun a => a.id = argN c.entry 0 2 && a.version = argN c.entry 2 2) = false)
    (hfew : (x.adapters.filter (fun a => a.id = argN c.entry 0 2)).length < 8)
    (hroom : adapterRoom x pl (imageBlocks bs) = true) :
    runAdapterLoad m r c =
      let m1 := writeAdapters (updPart (runningCmd m r c) p (fun y => { y with
        adapters := y.adapters ++ [placedVersion r c.entry x pl (imageBlocks bs)] })) p
      if x.inStep then m1 else adapterBoundary m1 p := by
  subst hbs
  rw [runAdapterLoad]
  refine (if_neg ?arguments).trans ((onPart_on h.part c _).trans ?_)
  case arguments => simp [h.clean]
  simp only [h.plan]
  refine (if_neg ?runs).trans ((if_neg ?id).trans ((if_neg ?image).trans ((if_neg ?version).trans ((if_neg ?room).trans rfl))))
  case runs => exact ne_true_of_eq_false h.runs
  case id => exact Nat.not_le.mpr h.id
  case image => simp [hread, himage]
  case version => exact ne_true_of_eq_false hnew
  case room => simp [Nat.not_le.mpr hfew, hroom]

theorem runAdapterRetire_marks {a : Adapter} (h : AdapterCall false m r c p x pl)
    (ha : x.adapters.find? (fun a =>
      a.id = argN c.entry 0 2 && a.version = argN c.entry 2 2 && !a.retiring && !a.loading) = some a) :
    runAdapterRetire m r c =
      let m1 := updPart (runningCmd m r c) p (retireVersion r c.entry)
      let m2 := if versionRefs x a = 0 then m1
        else completeS (updCmd m1 r c.entry.cid (fun d => { d with done := 1 })) r c.entry.cid .deferred
      if x.inStep then m2 else settleAdapters m2 p := by
  rw [runAdapterRetire]
  refine (if_neg ?arguments).trans ((onPart_on h.part c _).trans ?_)
  case arguments => simp [h.clean]
  simp only [h.plan]
  refine (if_neg (ne_true_of_eq_false h.runs)).trans ((if_neg (Nat.not_le.mpr h.id)).trans ?marks)
  case marks =>
    simp only [ha]
    rfl

end

/-- Settles O22: the arguments pass, and then the image is sound, new and has room, or the version named is in force. -/
theorem adapterCommands : Obligations.AdapterCommands := by
  refine ⟨?load, ?retire⟩
  case load =>
    intro r e h s m c p x pl t hp hpl hs hc hid hread bs himage hnew hfew hroom
    obtain rfl := taken_entry t
    rw [exec_taken (ins := .adapterLoad r c.entry h) rfl t,
      runAdapterLoad_places ⟨hp, hpl, hs, hc, hid⟩ hread (bs := bs) rfl himage hnew hfew hroom]
    rfl
  case retire =>
    intro r e h s m c p x pl a t hp hpl hs hc hid ha
    obtain rfl := taken_entry t
    rw [exec_taken (ins := .adapterRetire r c.entry h) rfl t, runAdapterRetire_marks ⟨hp, hpl, hs, hc, hid⟩ ha]
    rfl

end Sys2Proof.Machine
end

section
/-! Olix links (R351-R358): training, coming up, dropped lanes, and flits put back into their order. -/
namespace Sys2Proof.Machine
open Sys2Proof

/-! ### Links and lanes (R351, R353, R354) -/

section
variable {m : Mod} {g k : Nat}

/-- A link as it begins with fresh sequence numbers (R358). -/
def clearedLink (x : Link) : Link :=
  { x with
    txSeq := 0, rxNext := 0, unackedRx := 0, nakDue := false, replay := [], sent := [], replayTimes := 0,
    credits := [128, 128, 128], freed := [0, 0, 0], units := [], early := [] }

/-- A link that has come UP on the lanes of `mask`, with fresh sequence numbers unless it retrained. -/
def risenLink (mask : BitVec 16) (x : Link) : Link :=
  if x.state = .retrain then { x with state := .up, mask := mask } else { clearedLink x with state := .up, mask := mask }

/-- Whether a link begins afresh is decided before it comes UP. -/
theorem cleared_then_up (mask : BitVec 16) (x : Link) :
    { (if x.state = .retrain then x else clearedLink x) with state := .up, mask := mask } = risenLink mask x := by
  unfold risenLink
  split <;> rfl

/-- The group whose link `k`, with the lanes `all`, has come UP on those of `mask`: its dropped lanes have rejoined. -/
def risenGroup (k : Nat) (all mask : BitVec 16) (z : PortGroup) : PortGroup :=
  { z with lock := (z.lock &&& ~~~all) ||| mask, dropped := z.dropped &&& ~~~all, links := lupd z.links k (risenLink mask) }

/-- A link of an enabled group comes UP on those of its lanes that locked. -/
theorem doOlixUp_rises {lanes all : BitVec 16} (hall : linkLanes (groupOf m g).bondInForce k = all)
    (hon : (groupOf m g).enable = true) (hdomain : (groupOf m g).domainOn = true)
    (hk : k < bondLinks (groupOf m g).bondInForce) (hl : (linkAt m g k).state ≠ .up) (hlanes : lanes &&& all ≠ 0) :
    doOlixUp g k lanes m =
      let m1 := pgFlag (updGroup m g (risenGroup k all (lanes &&& all))) g 1
      let m2 := if (linkAt m g k).rate = 1 then pgFlag m1 g 3 else m1
      pumpAll (post m2 0x0701 none (linkPayload m2 g k (linkAt m g k).rate 0 0 (linkPartner m2 (linkAt m2 g k)))) := by
  subst hall
  have hlink := funext (cleared_then_up (lanes &&& linkLanes (groupOf m g).bondInForce k))
  unfold risenGroup
  rw [doOlixUp, ← hlink]
  exact if_neg (by simpa [hon, hdomain, hl, Nat.not_le.mpr hk] using hlanes)

/-- A lane of a link that is UP is dropped once it lost lock or has more than 16 uncorrectable codewords. -/
theorem doLaneDrop_drops {lane bad : Nat} {m1 : Mod} (hk : lane / lanesPer (groupOf m g).bondInForce = k)
    (hm1 : updLink m g k (fun l => { l with fecUncorr := sat32 (l.fecUncorr + bad) }) = m1)
    (hup : (linkAt m1 g k).state = .up) (hlane : bit (linkAt m1 g k).mask lane = true) (hbad : bad = 0 ∨ 16 < bad) :
    doLaneDrop g lane bad m =
      let m2 := updGroup m1 g (fun z => { z with
        lock := if bad = 0 then setBit z.lock lane false else z.lock, dropped := setBit z.dropped lane true })
      let m3 := updLink m2 g k (fun l =>
        let l1 := replayLink { l with mask := setBit l.mask lane false }
        if l1.mask = 0 ∧ l1.state = .up then retrainLink l1 else l1)
      post (pgFlag m3 g 2) 0x0703 none (linkPayload m3 g k 0 lane 0 (linkPartner m3 (linkAt m3 g k))) := by
  subst hk hm1
  have hfew : ¬ (0 < bad ∧ bad ≤ 16) := by omega
  exact if_neg (by simp [hup, hlane, hfew])

/-- Only a link that retrains goes DOWN for not returning (R358). -/
theorem doOlixDown_retrain (h : (linkAt m g k).state = .retrain) : doOlixDown g k m = dropLink m g k 1 := if_pos h

end

/-! ### Flits (R355-R358) -/

section
variable {m : Mod} {g k : Nat} {f : BitVec 1280}

/-- How far a flit is ahead of the one a link expects next, modulo 4,096 (R356). -/
def flitLead (f : BitVec 1280) (l : Link) : Nat := (fld f 1170 12 + 4096 - l.rxNext) % 4096

theorem orderFlit_next (h : flitLead f (linkAt m g k) = 0) :
    orderFlit g k f m = drainEarly g k (linkAt m g k).early.length (acceptFlit g k f m) :=
  if_pos h

theorem orderFlit_ahead (hpos : 0 < flitLead f (linkAt m g k)) (hnear : flitLead f (linkAt m g k) < 1024)
    (hnew : (linkAt m g k).early.any (fun e => e.1 = fld f 1170 12) = false) :
    orderFlit g k f m = updLink m g k (fun l => { l with early := l.early ++ [(fld f 1170 12, f)] }) :=
  (if_neg hpos.ne').trans (if_pos ⟨hnear, ne_true_of_eq_false hnew⟩)

theorem orderFlit_repeated (hfar : 1024 ≤ flitLead f (linkAt m g k)) : orderFlit g k f m = m := by
  have hpos : 0 < flitLead f (linkAt m g k) := by omega
  exact (if_neg hpos.ne').trans (if_neg fun hnear => Nat.not_lt.mpr hfar hnear.1)

/-- After a flit: an acknowledgement is due once 64 flits have none, and messages that waited may go out. -/
def afterFlit (g k : Nat) (m : Mod) : Mod :=
  pumpAll (if 64 ≤ (linkAt m g k).unackedRx then updLink m g k sendAck else m)

theorem doFlitReceive_damaged (hup : (linkAt m g k).state = .up) (hbad : flitOk f = false) :
    doFlitReceive g k f m =
      updLink m g k (fun l => sendAck { l with crcErr := sat32 (l.crcErr + 1), nakDue := true }) :=
  (if_neg (not_not_intro hup)).trans (if_pos (by simp [hbad]))

/-- An intact flit without a NAK is counted, its acknowledgement taken, and then it takes its place in the order. -/
theorem doFlitReceive_intact {m2 : Mod} (hup : (linkAt m g k).state = .up) (hok : flitOk f = true) (hnak : bit f 1195 = false)
    (hplace : orderFlit g k f (updLink m g k (fun l => takeFlitAck f { l with rx := l.rx + 1 })) = m2) :
    doFlitReceive g k f m = afterFlit g k m2 := by
  subst hplace
  refine (if_neg (not_not_intro hup)).trans ((if_neg (by simp [hok])).trans ?_)
  simp only [hnak, Bool.false_eq_true, if_false]
  rfl

end

/-! ### The obligation -/

/-- Settles O29: each event meets its guard, and a flit is damaged or has one of three places in the order. -/
theorem olixLinks : Obligations.OlixLinks := by
  refine ⟨?timers, ?up, ?lane, ?flit⟩
  case timers =>
    intro g k s
    refine ⟨?_, ?_, fun hretrain => ?_⟩
    · exact exec_eq_withMod (f := doTrainTimeout g.val k.val) rfl rfl
    · exact exec_eq_withMod (f := doAckTimer g.val k.val) rfl rfl
    · exact exec_eq_withMod (f := doOlixDown g.val k.val) rfl (doOlixDown_retrain hretrain)
  case up =>
    intro g k lanes s y l all hon hdomain hk hl hlanes
    refine exec_eq_withMod (f := doOlixUp g.val k.val lanes) rfl ?_
    exact doOlixUp_rises rfl hon hdomain hk hl hlanes
  case lane =>
    intro g lane bad s k m1 l hup hlane hbad
    exact exec_eq_withMod (f := doLaneDrop g.val lane.val bad) rfl (doLaneDrop_drops rfl rfl hup hlane hbad)
  case flit =>
    intro g k f s hup
    refine ⟨fun hbad => ?_, fun hok hnak => ?_⟩
    · exact exec_eq_withMod (f := doFlitReceive g.val k.val f) rfl (doFlitReceive_damaged hup hbad)
    · refine ⟨fun hnext => ?_, fun hpos hnear hnew => ?_, fun hfar => ?_⟩
      all_goals refine exec_eq_withMod (f := doFlitReceive g.val k.val f) rfl (doFlitReceive_intact hup hok hnak ?_)
      · exact orderFlit_next hnext
      · exact orderFlit_ahead hpos hnear hnew
      · exact orderFlit_repeated hfar

end Sys2Proof.Machine
end

section
/-! Port groups (R351, R353, R375, R467): what a write of `PG_CTRL` does. -/
namespace Sys2Proof.Machine
open Sys2Proof

section
variable {m : Mod} {g : Nat} {v : BitVec 32}

/-- The fields of `PG_CTRL` that are locked while the group is enabled or assigned. -/
def pgSettings (v : BitVec 32) (z : PortGroup) : PortGroup :=
  { z with bond := if fld v 0 2 = 3 then z.bond else fld v 0 2, rate100 := bit v 3, media := bit v 4 }

theorem doPgCtrl_disabled (hoff : (groupOf m g).enable = false) (howner : (groupOf m g).owner = none) :
    doPgCtrl g v m =
      let m1 := updGroup m g (pgSettings v)
      let m2 := if bit v 2 then enableGroup m1 g else m1
      if bit v 5 then retrainGroup m2 g else m2 := by
  rw [doPgCtrl]
  simp only [hoff, howner, Option.isSome_none, Bool.or_false, Bool.not_false, Bool.and_true, Bool.and_false,
    Bool.false_eq_true, if_false]
  rfl

theorem doPgCtrl_enabled (hon : (groupOf m g).enable = true) :
    doPgCtrl g v m =
      let m2 := if bit v 2 then m else disableGroup m g
      if bit v 5 then retrainGroup m2 g else m2 := by
  rw [doPgCtrl]
  simp only [hon, Bool.true_or, Bool.not_true, Bool.and_false, Bool.and_true, Bool.false_eq_true, if_false, if_true]
  cases bit v 2 <;> rfl

end

/-! ### The obligation -/

/-- Settles O30: whether the group is enabled decides what a write sets, and RETRAIN comes last. -/
theorem olixGroups : Obligations.OlixGroups := by
  refine ⟨?disabled, ?enabled, ?retrain⟩
  case disabled =>
    intro g v s hoff howner
    exact exec_eq_withMod (f := doPgCtrl g.val v) rfl (doPgCtrl_disabled hoff howner)
  case enabled =>
    intro g v s hon
    exact exec_eq_withMod (f := doPgCtrl g.val v) rfl (doPgCtrl_enabled hon)
  case retrain =>
    intro g s
    exact exec_eq_withMod (f := doPgRetrain g.val) rfl rfl

end Sys2Proof.Machine
end

section
/-! Discovery (R362-R364, R372, R378): HELLOs, partners that time out, and PARTNER_LIST. -/
namespace Sys2Proof.Machine
open Sys2Proof

/-! ### HELLOs (R362, R364) -/

section
variable {m : Mod} {g k : Nat} {c : HelloContent} {q : Partner}

theorem doHello_unknown (hup : (linkAt m g k).state = .up)
    (hq : m.partners.find? (fun q => q.moduleId = fld c 0 64) = none) : doHello g k c m = newPartner m g k c := by
  refine (if_neg (not_not_intro hup)).trans ?_
  rw [hq]

theorem doHello_renamed (hup : (linkAt m g k).state = .up)
    (hq : m.partners.find? (fun q => q.moduleId = fld c 0 64) = some q) (hnode : q.node ≠ fld c 64 8) :
    doHello g k c m = removePartner m q.index 3 := by
  refine (if_neg (not_not_intro hup)).trans ?_
  rw [hq]
  exact if_pos hnode

/-- A partner entry after a HELLO over link `k` of group `g` at the time `now`. -/
def heardPartner (now g k : Nat) (c : HelloContent) (q : Partner) : Partner :=
  { q with
    links := setBit q.links (4 * g + k) true, lastHello := now, caps := BitVec.ofNat 16 (fld c 80 16), role := fld c 72 8,
    capacity := fld c 128 64, bandwidth := fld c 192 32, imageGen := fld c 224 32 }

/-- A HELLO of a PRESENT partner refreshes its entry, and its images where their generation is another. -/
theorem doHello_present {t : Partner} (hup : (linkAt m g k).state = .up)
    (hq : m.partners.find? (fun q => q.moduleId = fld c 0 64) = some q) (hnode : q.node = fld c 64 8) (hs : q.state = .present)
    (ht : heardPartner m.time g k c q = t) :
    doHello g k c m =
      let m1 := updLink (updPartner m q.index (fun _ => t)) g k (fun l => { l with partner := some q.index })
      releasePartnerHolds (reissueKept (if q.imageGen = fld c 224 32 then m1 else readImages m1 t) t) t := by
  subst ht
  refine (if_neg (not_not_intro hup)).trans ?_
  rw [hq]
  refine (if_neg (not_not_intro hnode)).trans ((if_neg (not_not_intro hs)).trans ?_)
  simp only [bne_iff_ne, ne_eq, ite_not]
  rfl

end

/-! ### PARTNER_LIST (R378) -/

section
variable {m : Mod} {h : HostId} {c : Cmd}

theorem runPartnerList_records (hc : entryClean c.entry false true false [(0, 8), (32, 32)] = true)
    (hform : argN c.entry 0 1 = 0) :
    runPartnerList m (.admin h) c =
      answerRecords m (.admin h) c 64 ((partnersFrom m (argN c.entry 4 4)).map (partnerRecord m)) := by
  rw [runPartnerList, onAdmin]
  exact (if_neg (by simp [hc, hform])).trans (if_pos hform)

theorem runPartnerList_images {q : Partner} (hc : entryClean c.entry false true false [(0, 8), (32, 32)] = true)
    (hform : argN c.entry 0 1 = 1)
    (hq : m.partners.find? (fun q => q.index = argN c.entry 4 4 && q.state = .present) = some q) :
    runPartnerList m (.admin h) c =
      answerRecords m (.admin h) c 80 ((List.range 16).map (fun j => leBytes 80 (q.images.getD j 0).toNat)) := by
  rw [runPartnerList, onAdmin]
  refine (if_neg (by simp [hc, hform])).trans ((if_neg (by simp [hform])).trans ?_)
  simp only [hq]

end

/-! ### The obligation -/

/-- Settles O31: a HELLO finds its module in the table or not, and PARTNER_LIST has two forms. -/
theorem olixDiscovery : Obligations.OlixDiscovery := by
  refine ⟨?send, ?hear, ?timeout, ?list⟩
  case send =>
    intro g k s hup
    exact exec_eq_withMod (f := doHelloSend g.val k.val s.fuses) rfl (if_neg (not_not_intro hup))
  case hear =>
    intro g k c s hup
    refine ⟨fun hq => ?_, fun q hq hnode => ?_, fun q hq hnode hs => ?_⟩
    · exact exec_eq_withMod (f := doHello g.val k.val c) rfl (doHello_unknown hup hq)
    · exact exec_eq_withMod (f := doHello g.val k.val c) rfl (doHello_renamed hup hq hnode)
    · exact exec_eq_withMod (f := doHello g.val k.val c) rfl (doHello_present hup hq hnode hs rfl)
  case timeout =>
    intro i s
    exact exec_eq_withMod (f := doPartnerTimeout i.val) rfl rfl
  case list =>
    intro hs e h s m c t hc
    obtain rfl := taken_entry t
    refine ⟨fun hform => ?_, fun q hform hq => ?_⟩
    · rw [exec_taken (ins := .partnerList (.admin hs) c.entry h) rfl t, runPartnerList_records hc hform]
    · rw [exec_taken (ins := .partnerList (.admin hs) c.entry h) rfl t, runPartnerList_images hc hform hq]

end Sys2Proof.Machine
end

section
/-! Messages of partners (R359, R360, R367-R372): READ and WRITE served, and responses that find their requests. -/
namespace Sys2Proof.Machine
open Sys2Proof

/-! ### Messages accepted (R359, R363) -/

section
variable {m : Mod} {g k : Nat} {hd : Header}

theorem acceptMsg_heard {op : Nat} (h : Heard m g k hd op) (f : Mod → Mod) : acceptMsg m g k hd op f = f m := by
  obtain ⟨hup, hnode, hok, hop, hdst⟩ := h
  refine (if_neg ?link).trans ((if_neg ?header).trans (if_neg (not_not_intro hdst)))
  case link => simp [hup, hnode]
  case header => simp [hok, hop]

/-- A message that carries as many lines as its header counts acts (R359). -/
theorem exec_lines {ins : Instr} {s : State} {ls : List Line} {f : Mod → Mod} {n : Mod}
    (hx : exec ins s = if ls.length = headerLines hd then lift f s else .fault .illFormed)
    (hlen : ls.length = headerLines hd) (hf : f s.mod = n) : exec ins s = .next (s.withMod n) :=
  exec_eq_withMod (hx.trans (if_pos hlen)) hf

/-! ### Requests of partners (R367, R368, R371) -/

theorem doRead_serves {h : HostSide} {x : Part} (hx : (groupOf m g).owner.bind (partOf? m) = some x)
    (hheard : Heard (applySide m (partHost x) h) g k hd 1) :
    doRead g k hd h m =
      serveInbound (applySide m (partHost x) h) { group := g, link := k, cls := 0, header := hd, lines := [] } := by
  rw [doRead, hx]
  exact acceptMsg_heard hheard _

theorem doWrite_serves {h : HostSide} {ls : List Line} {x : Part} (hx : (groupOf m g).owner.bind (partOf? m) = some x)
    (hheard : Heard (applySide m (partHost x) h) g k hd 3) :
    doWrite g k hd ls h m =
      serveInbound (countPoison (applySide m (partHost x) h) g hd ls)
        { group := g, link := k, cls := 0, header := hd, lines := ls } := by
  rw [doWrite, hx]
  exact acceptMsg_heard hheard _

/-! ### Responses (R360, R369, R370, R372) -/

/-- The module once the request `r` is answered. -/
def answered (m : Mod) (r : Request) : Mod := { m with requests := m.requests.erase r }

/-- The lines a plan asked for go to its core on the reply route of the core's window. -/
theorem doReadData_injects {ls : List Line} {r : Request} {a route : Nat} {x : Part} (h : Heard m g k hd 2)
    (hr : requestOf (countPoison m g hd ls) g hd false = some r) (ha : r.site = some a)
    (hx : partOf? (countPoison m g hd ls) r.part = some x)
    (hroute : replyRoute (countPoison m g hd ls) x a r.rtag = some route) :
    doReadData g k hd ls m =
      let m1 := answered (countPoison m g hd ls) r
      injectGrsp m1 (injectSite m1 g) r.part route r.rtag r.doff ls := by
  rw [doReadData, acceptMsg_heard h]
  simp only [hr, ha, hx, hroute]
  rfl

theorem doReadData_late {ls : List Line} (h : Heard m g k hd 2)
    (hr : requestOf (countPoison m g hd ls) g hd false = none) :
    doReadData g k hd ls m = lateResponse (countPoison m g hd ls) g := by
  rw [doReadData, acceptMsg_heard h]
  simp only [hr]

theorem doWriteAck_acknowledges {r : Request} {a : Nat} (h : Heard m g k hd 4) (hr : requestOf m g hd true = some r)
    (ha : r.site = some a) :
    doWriteAck g k hd m = { answered m r with
      fabric := { m.fabric with
        acks := m.fabric.acks ++ [{ src := a, seq := r.rtag, site := injectSite (answered m r) g, kind := 3 }] } } := by
  rw [doWriteAck, acceptMsg_heard h]
  simp only [hr, ha]
  rfl

theorem doWriteAck_late (h : Heard m g k hd 4) (hr : requestOf m g hd true = none) :
    doWriteAck g k hd m = lateResponse m g := by
  rw [doWriteAck, acceptMsg_heard h]
  simp only [hr]

/-- A request of a plan that is refused faults its partition. -/
theorem doError_faults {r : Request} (h : Heard m g k hd 5)
    (hr : m.requests.find? (fun r => r.tag = gTag hd && r.group = g && !r.kept && r.node = gSrc hd) = some r) (hc : r.cls = 0) :
    doError g k hd m =
      gatewayFault (answered m r) r.part (r.site.getD 0xFFFF) 0x29 (some g) k (partnerOf m r.node) := by
  rw [doError, acceptMsg_heard h]
  simp only [hr]
  exact if_pos hc

end

/-! ### The obligation -/

/-- Settles O32: each message is accepted, and a response finds the request it answers or is late. -/
theorem olixMessages : Obligations.OlixMessages := by
  refine ⟨?read, ?write, ?readData, ?writeAck, ?error⟩
  case read =>
    intro g k hd h s x hx hheard
    exact exec_eq_withMod (f := doRead g.val k.val hd h) rfl (doRead_serves hx hheard)
  case write =>
    intro g k hd ls h s x hlen hx hheard
    exact exec_lines (f := doWrite g.val k.val hd ls h) rfl hlen (doWrite_serves hx hheard)
  case readData =>
    intro g k hd ls s hlen hheard
    refine ⟨fun r a x route hr ha hx hroute => ?_, fun hr => ?_⟩
    · exact exec_lines (f := doReadData g.val k.val hd ls) rfl hlen (doReadData_injects hheard hr ha hx hroute)
    · exact exec_lines (f := doReadData g.val k.val hd ls) rfl hlen (doReadData_late hheard hr)
  case writeAck =>
    intro g k hd s hheard
    refine ⟨fun r a hr ha => ?_, fun hr => ?_⟩
    · exact exec_eq_withMod (f := doWriteAck g.val k.val hd) rfl (doWriteAck_acknowledges hheard hr ha)
    · exact exec_eq_withMod (f := doWriteAck g.val k.val hd) rfl (doWriteAck_late hheard hr)
  case error =>
    intro g k hd s hheard r hr hc
    exact exec_eq_withMod (f := doError g.val k.val hd) rfl (doError_faults hheard hr hc)

end Sys2Proof.Machine
end

section
/-! The fuses only grow (R396, R397, R404): FUSE_PROGRAM_DONE blows the fuse in progress, and no other step changes one. -/
namespace Sys2Proof.Machine
open Sys2Proof

/-! ### Growth -/

theorem FusesGrow.refl (a : Fuses) : FusesGrow a a := ⟨fun _ h => h, le_rfl, le_rfl, id, id, rfl⟩

theorem FusesGrow.trans {a b c : Fuses} (h : FusesGrow a b) (k : FusesGrow b c) : FusesGrow a c where
  revoked j hj := k.revoked j (h.revoked j hj)
  rollback := le_trans h.rollback k.rollback
  debug := le_trans h.debug k.debug
  jtag hj := k.jtag (h.jtag hj)
  isolation hi := k.isolation (h.isolation hi)
  made := by rw [k.made, h.made]

/-- A bit that is 1 lies inside its word. -/
theorem lt_of_bit {n : Nat} {w : BitVec n} {j : Nat} (h : bit w j = true) : j < n := by
  by_contra hj
  have hw : w.toNat < 2 ^ j := w.isLt.trans_le (Nat.pow_le_pow_right (by decide) (Nat.not_lt.mp hj))
  exact ne_true_of_eq_false (Nat.testBit_lt_two_pow hw) h

/-- An operation sets a bit or a lock, or raises a count: no fuse is taken back (R397). -/
theorem fusesGrow_blow (a : Fuses) (o : FuseOp) : FusesGrow a (blow a o) := by
  cases o with
  | revoke k =>
    refine ⟨fun j hj => ?_, le_rfl, le_rfl, id, id, rfl⟩
    rw [blow, bit_setBit, decide_eq_true (lt_of_bit hj), hj, ite_self]
    rfl
  | rollback v => exact ⟨fun _ h => h, le_max_left _ _, le_rfl, id, id, rfl⟩
  | debug v => exact ⟨fun _ h => h, le_rfl, le_max_left _ _, id, id, rfl⟩
  | jtag => exact ⟨fun _ h => h, le_rfl, le_rfl, fun _ => rfl, id, rfl⟩
  | isolation => exact ⟨fun _ h => h, le_rfl, le_rfl, id, fun _ => rfl, rfl⟩

/-! ### What a step does to the fuses -/

theorem doFuseDone_of_busy {s : State} {o : FuseOp} (h : s.mod.sec.busy = some o) :
    doFuseDone s = { s with
      fuses := blow s.fuses o,
      mod := (let m := { s.mod with sec := { s.mod.sec with state := 2, busy := none } }
              afterBlow o (ledgerAdd m 0 0 0 (payload [(0, 8, (fuseOpCode o).1), (8, 8, (fuseOpCode o).2), timeField m]))) } := by
  rw [doFuseDone, h]

theorem doFuseDone_of_idle {s : State} (h : s.mod.sec.busy = none) : doFuseDone s = s := by
  rw [doFuseDone, h]

/-- A command leaves the fuses, or it is FUSE_PROGRAM_DONE and blows the fuse of the operation in progress. -/
theorem fuses_exec {c : Instr} {s t : State} (h : exec c s = .next t) :
    t.fuses = s.fuses ∨ c = .fuseProgramDone ∧ ∃ o, s.mod.sec.busy = some o ∧ t.fuses = blow s.fuses o := by
  cases hw : c.wellFormed with
  | false => exact nomatch (exec_of_illFormed hw s).symm.trans h
  | true =>
    rcases exec_withMod c s hw with ⟨m, hm⟩ | rfl
    · cases hm.symm.trans h
      exact .inl rfl
    · cases (show Host.Outcome.next (doFuseDone s) = .next t from h)
      cases hb : s.mod.sec.busy with
      | none => exact .inl (congrArg State.fuses (doFuseDone_of_idle hb))
      | some o => exact .inr ⟨rfl, o, rfl, congrArg State.fuses (doFuseDone_of_busy hb)⟩

/-- So does a step, which takes its command from the front of the queue; a tick leaves the fuses. -/
theorem fuses_step {s t : State} (h : step s = .next t) :
    t.fuses = s.fuses
      ∨ ∃ rest o, s.pending = .fuseProgramDone :: rest ∧ s.mod.sec.busy = some o ∧ t.fuses = blow s.fuses o := by
  cases hs : s.pending with
  | nil =>
    cases (step_of_pending_nil hs).symm.trans h
    exact .inl rfl
  | cons c rest =>
    rw [step_of_pending_cons hs] at h
    exact (fuses_exec h).imp_right fun ⟨hc, o, hb, ht⟩ => ⟨rest, o, by rw [hc], hb, ht⟩

/-! ### The obligation -/

/-- Settles O58: by `fuses_step` the fuses stand or one more is blown, and a blown fuse is growth. -/
theorem fusesOnlyGrow : Obligations.FusesOnlyGrow := by
  intro f s t hf hstep
  rcases fuses_step hstep with h | ⟨rest, o, hs, hb, ht⟩
  · exact ⟨h ▸ hf, fun hne => absurd h hne⟩
  · exact ⟨ht ▸ hf.trans (fusesGrow_blow s.fuses o), fun _ => ⟨rest, o, hs, hb, ht⟩⟩

end Sys2Proof.Machine
end

section
/-! A step runs the front command, an empty queue lets a cycle pass (log entry 1), and the state at reset (log entries 3 to
7). -/
namespace Sys2Proof.Machine
open Sys2Proof

/-- Time does not pass while the management domains are off. -/
theorem tick_of_off {s : State} (h : s.mod.pwr.mgmtOn = 0) : tick s = .next s := by
  rw [tick, lift, doTick, if_pos h]

/-- Settles O55: `step` by the front of the queue, and a tick with the management domains off. -/
theorem frontOfTheQueue : Obligations.FrontOfTheQueue :=
  ⟨fun _ _ _ hs => step_of_pending_cons hs,
   fun _ hs => ⟨step_of_pending_nil hs, fun hoff => (step_of_pending_nil hs).trans (tick_of_off hoff)⟩⟩

/-- Settles O59: the fields read off `State.reset`; its queue is empty and it is off, so a step is a tick that changes
nothing. -/
theorem resetState : Obligations.ResetState := by
  refine ⟨rfl, fun c hc => ?queue, FusesGrow.refl _, rfl, rfl, rfl, rfl, rfl, rfl, rfl, ?time⟩
  case queue => exact nomatch hc
  case time => exact (step_of_pending_nil rfl).trans (tick_of_off rfl)

end Sys2Proof.Machine
end
section
/-! The fuse commands (R396, R397, R405) and the ledger entry of a blown fuse (R474; log entry 47). -/
namespace Sys2Proof.Machine
open Sys2Proof

/-! ### The unlock sequence -/

theorem doFuseKey_first {v : BitVec 32} (h : fld v 0 16 = 0x5AF0) (m : Mod) :
    doFuseKey v m = { m with sec := { m.sec with firstKey := some m.time, unlocked := false } } := if_pos h

theorem doFuseKey_second {v : BitVec 32} (h : fld v 0 16 ≠ 0x5AF0) (m : Mod) :
    doFuseKey v m = { m with sec := { m.sec with
      firstKey := none,
      unlocked := decide (fld v 0 16 = 0x0FA5 ∧ m.sec.firstKey.any (fun t => m.time ≤ t + 1000000) = true) } } := if_neg h

/-! ### A write of `FUSE_CMD` -/

section
variable {m : Mod} {op : Except Nat FuseOp}

/-- The command is refused with a reason; the sequence is used up. -/
def fuseRefused (m : Mod) (why : Nat) : Mod :=
  { m with sec := { m.sec with unlocked := false, firstKey := none, state := 3, reason := why } }

/-- Programming begins; the sequence is used up. -/
def fuseBegun (m : Mod) (f : FuseOp) : Mod :=
  { m with sec := { m.sec with unlocked := false, firstKey := none, state := 1, reason := 0, busy := some f } }

theorem fuseCmd_locked (hs : m.sec.state ≠ 1) (hu : m.sec.unlocked = false) : fuseCmd m op = fuseRefused m 5 := by
  rw [fuseCmd, if_neg hs, hu]
  rfl

theorem fuseCmd_refused {why : Nat} (hs : m.sec.state ≠ 1) (hu : m.sec.unlocked = true) (hop : op = .error why) :
    fuseCmd m op = fuseRefused m why := by
  rw [fuseCmd, if_neg hs, hu, hop]
  rfl

theorem fuseCmd_begins {f : FuseOp} (hs : m.sec.state ≠ 1) (hu : m.sec.unlocked = true) (hop : op = .ok f) :
    fuseCmd m op = fuseBegun m f := by
  rw [fuseCmd, if_neg hs, hu, hop]
  rfl

/-- A fuse command as the write it is. -/
theorem exec_fuseCmd {c : Instr} {s : State} {f : Mod → Except Nat FuseOp} {n : Mod}
    (hx : exec c s = lift (fun m => fuseCmd m (f m)) s) (h : fuseCmd s.mod (f s.mod) = n) : exec c s = .next (s.withMod n) :=
  exec_eq_withMod hx h

end

/-! ### The reasons of R397 -/

section
variable {fz : Fuses} {sec : Sec} {k v : Nat}

theorem revokeOp_bootKey (hk : k ≤ 3) (hboot : k = sec.bootKey) : revokeOp fz sec k = .error 1 :=
  (if_neg (Nat.not_lt.mpr hk)).trans (if_pos hboot)

/-- Every other root key is revoked, so this is the last. -/
theorem revokeOp_lastKey (hk : k ≤ 3) (hboot : k ≠ sec.bootKey) (hlast : ∀ j, j < 4 → j ≠ k → bit fz.rootRevoked j = true) :
    revokeOp fz sec k = .error 2 := by
  refine (if_neg (Nat.not_lt.mpr hk)).trans ((if_neg hboot).trans (if_pos ?_))
  rw [List.all_eq_true]
  intro j hj
  by_cases h : j = k
  · simp [h]
  · simp [hlast j (List.mem_range.mp hj) h]

theorem revokeOp_begins (hk : k ≤ 3) (hboot : k ≠ sec.bootKey) (hother : ∃ j, j < 4 ∧ j ≠ k ∧ bit fz.rootRevoked j = false) :
    revokeOp fz sec k = .ok (.revoke k) := by
  obtain ⟨j, hj, hne, hbit⟩ := hother
  refine (if_neg (Nat.not_lt.mpr hk)).trans ((if_neg hboot).trans (if_neg fun hall => ?_))
  have := List.all_eq_true.mp hall j (List.mem_range.mpr hj)
  simp [hne, hbit] at this

theorem rollbackOp_refused (h : v ≤ fz.rollback ∨ sec.fwRollback < v) : rollbackOp fz sec v = .error 3 := if_pos h

theorem rollbackOp_begins (hlo : fz.rollback < v) (hhi : v ≤ sec.fwRollback) : rollbackOp fz sec v = .ok (.rollback v) :=
  if_neg (by omega)

theorem debugOp_refused (h : v ≤ fz.debugLevel) : debugOp fz v = .error 3 := if_pos (.inl h)

theorem debugOp_begins (hlo : fz.debugLevel < v) (hhi : v ≤ 2) : debugOp fz v = .ok (.debug v) := if_neg (by omega)

end

/-! ### The obligation -/

/-- Settles O35: a write of `FUSE_CMD` meets the unlock sequence first and then the reasons of its operation. -/
theorem fuseCommands : Obligations.FuseCommands := by
  refine ⟨?key, ?locked, ?unlocked, ?done⟩
  case key =>
    intro v s
    refine ⟨fun h => ?_, fun h => ?_⟩
    · exact exec_eq_withMod (f := doFuseKey v) rfl (doFuseKey_first h s.mod)
    · exact exec_eq_withMod (f := doFuseKey v) rfl (doFuseKey_second h s.mod)
  case locked =>
    intro a s c hs hu hc
    simp only [List.mem_cons, List.not_mem_nil, or_false] at hc
    rcases hc with rfl | rfl | rfl | rfl | rfl
    · exact exec_fuseCmd (f := fun m => revokeOp s.fuses m.sec a.toNat) rfl (fuseCmd_locked hs hu)
    · exact exec_fuseCmd (f := fun m => rollbackOp s.fuses m.sec a.toNat) rfl (fuseCmd_locked hs hu)
    · exact exec_fuseCmd (f := fun _ => debugOp s.fuses a.toNat) rfl (fuseCmd_locked hs hu)
    · exact exec_fuseCmd (f := fun _ => jtagOp s.fuses) rfl (fuseCmd_locked hs hu)
    · exact exec_fuseCmd (f := fun _ => isolationOp s.fuses) rfl (fuseCmd_locked hs hu)
  case unlocked =>
    intro a s hs hu fz sec refuse begun
    have refused {c : Instr} {f : Mod → Except Nat FuseOp} {n : Nat} (hx : exec c s = lift (fun m => fuseCmd m (f m)) s)
        (h : f s.mod = .error n) : exec c s = .next (refuse n) := exec_fuseCmd hx (fuseCmd_refused hs hu h)
    have begins {c : Instr} {f : Mod → Except Nat FuseOp} {o : FuseOp} (hx : exec c s = lift (fun m => fuseCmd m (f m)) s)
        (h : f s.mod = .ok o) : exec c s = .next (begun o) := exec_fuseCmd hx (fuseCmd_begins hs hu h)
    refine ⟨fun hk hb => ?boot, fun hk hb hl => ?last, fun hk hb ho => ?revoke, fun h => ?rollbackRefused,
      fun hlo hhi => ?rollback, fun h => ?debugRefused, fun hlo hhi => ?debug, ?jtag, ?isolation⟩
    case boot => exact refused (f := fun m => revokeOp fz m.sec a.toNat) rfl (revokeOp_bootKey hk hb)
    case last => exact refused (f := fun m => revokeOp fz m.sec a.toNat) rfl (revokeOp_lastKey hk hb hl)
    case revoke => exact begins (f := fun m => revokeOp fz m.sec a.toNat) rfl (revokeOp_begins hk hb ho)
    case rollbackRefused => exact refused (f := fun m => rollbackOp fz m.sec a.toNat) rfl (rollbackOp_refused h)
    case rollback => exact begins (f := fun m => rollbackOp fz m.sec a.toNat) rfl (rollbackOp_begins hlo hhi)
    case debugRefused => exact refused (f := fun _ => debugOp fz a.toNat) rfl (debugOp_refused h)
    case debug => exact begins (f := fun _ => debugOp fz a.toNat) rfl (debugOp_begins hlo hhi)
    case jtag =>
      split
      next h => exact refused (f := fun _ => jtagOp fz) rfl (if_pos h)
      next h => exact begins (f := fun _ => jtagOp fz) rfl (if_neg h)
    case isolation =>
      split
      next h => exact refused (f := fun _ => isolationOp fz) rfl (if_pos h)
      next h => exact begins (f := fun _ => isolationOp fz) rfl (if_neg h)
  case done =>
    intro s f hb
    exact congrArg Host.Outcome.next (doFuseDone_of_busy hb)

end Sys2Proof.Machine
end

section
/-! MODE_SET (R389, R391), MODULE_LIMITS (R395) and QUERY (R305, R306). -/
namespace Sys2Proof.Machine
open Sys2Proof

/-- A command of a ring that is taken answers what its meaning comes to. -/
theorem exec_taken_eq {ins : Instr} {r : RingRef} {e : SqEntry} {h : HostSide} {op : Nat} {s : State} {m n : Mod} {c : Cmd}
    {f : Mod → RingRef → Cmd → Mod} (hx : exec ins s = lift (takeCmd r e h op f) s) (t : Taken r e h op s m c)
    (hf : f m r c = n) : exec ins s = .next (s.withMod n) :=
  exec_eq_withMod hx ((takeCmd_taken t f).trans hf)

/-! ### MODE_SET -/

section
variable {m : Mod} {r : RingRef} {c : Cmd} {p : Nat} {x : Part}

/-- `c` is a MODE_SET that names a mode, on the partition `p` of its ring, which stands at `x`; no earlier change of mode or
limits has yet to end (R391). -/
structure ModeCall (m : Mod) (r : RingRef) (c : Cmd) (p : Nat) (x : Part) : Prop where
  part : OnPart m r p x
  clean : entryClean c.entry false false false [(0, 8)] = true
  mode : argN c.entry 0 1 ≤ 3
  free : modeWaits m p x c = false

theorem modeCode_le (md : Mode) : modeCode md ≤ 3 := by
  cases md <;> decide

theorem runModeSet_call (h : ModeCall m r c p x) :
    runModeSet m r c =
      if modeCode x.mode = argN c.entry 0 1 then complete m r { compl c.entry.cid .ok with result1 := x.beatCount }
      else if !bit (configModes x.config) (argN c.entry 0 1) || !bit x.modesCap (argN c.entry 0 1) then
        completeS m r c.entry.cid .notPermitted
      else if x.repair.isSome then completeS m r c.entry.cid .aborted
      else stageWork (stageChange (runningCmd m r c) p (.mode (modeOf (argN c.entry 0 1))) (some (r, c.entry.cid))) p := by
  rw [runModeSet]
  refine (if_neg ?arguments).trans ((onPart_on h.part c _).trans (if_neg (ne_true_of_eq_false h.free)))
  case arguments => simp [h.clean, h.mode]

theorem runModeSet_inForce (h : ModeCall m r c p x) (hmode : modeCode x.mode = argN c.entry 0 1) :
    runModeSet m r c = complete m r { compl c.entry.cid .ok with result1 := x.beatCount } :=
  (runModeSet_call h).trans (if_pos hmode)

theorem runModeSet_stages (h : ModeCall m r c p x) (hmode : modeCode x.mode ≠ argN c.entry 0 1)
    (hconfig : bit (configModes x.config) (argN c.entry 0 1) = true) (hcap : bit x.modesCap (argN c.entry 0 1) = true)
    (hrepair : x.repair = none) :
    runModeSet m r c =
      stageWork (stageChange (runningCmd m r c) p (.mode (modeOf (argN c.entry 0 1))) (some (r, c.entry.cid))) p := by
  rw [runModeSet_call h, if_neg hmode, hconfig, hcap, hrepair]
  rfl

end

/-! ### MODULE_LIMITS and QUERY -/

section
variable {m : Mod} {hs : HostId} {c : Cmd} {x : Part} {rs : List (List Byte)}

theorem runModuleLimits_begins (hc : entryClean c.entry false true false [(0, 4), (16, 16), (32, 16)] = true)
    (hcaps : capsOk (argN c.entry 2 2) (argN c.entry 4 2) = true) (hbuffer : 256 ≤ c.entry.len0.toNat) (hfree : m.limits = none)
    (hfit : modesFit m (BitVec.ofNat 4 (argN c.entry 0 1)) = true) :
    runModuleLimits m (.admin hs) c =
      beginLimits (runningCmd m (.admin hs) c) (.admin hs) c.entry.cid c.entry.addr0.toNat (BitVec.ofNat 4 (argN c.entry 0 1))
        (argN c.entry 2 2) (argN c.entry 4 2) false := by
  rw [runModuleLimits]
  refine (if_neg ?arguments).trans ((if_neg (Nat.not_lt.mpr hbuffer)).trans ((if_neg ?free).trans (if_neg ?fit)))
  case arguments => simp [hc, hcaps]
  case free => simp [hfree]
  case fit => simp [hfit]

theorem runQuery_part {r : RingRef} {p : Nat} (hp : OnPart m r p x)
    (hc : entryClean c.entry false true false [(0, 8), (32, 32), (64, 32)] = true)
    (hrs : queryRecords m p x (argN c.entry 0 1) (argN c.entry 4 4) = some rs) :
    runQuery m r c = answerQuery m r c rs := by
  obtain ⟨⟨t, k, rfl, rfl⟩, hx⟩ := hp
  simp [runQuery, hc, hx, hrs]

/-- An admin ring may ask for the summary, the configuration and the frames of any partition (R305). -/
theorem runQuery_admin (hc : entryClean c.entry false true false [(0, 8), (32, 32), (64, 32), (96, 4)] = true)
    (hsel : argN c.entry 0 1 = 1 ∨ argN c.entry 0 1 = 2 ∨ argN c.entry 0 1 = 6) (hx : partOf? m (argN c.entry 12 1) = some x)
    (hrs : queryRecords m (argN c.entry 12 1) x (argN c.entry 0 1) (argN c.entry 4 4) = some rs) :
    runQuery m (.admin hs) c = answerQuery m (.admin hs) c rs := by
  have hsel' : ¬ (argN c.entry 0 1 ≠ 1 ∧ argN c.entry 0 1 ≠ 2 ∧ argN c.entry 0 1 ≠ 6) := by omega
  simp only [runQuery, hc, if_neg hsel', hx, hrs, Option.bind_some]
  rfl

end

/-! ### The obligation -/

/-- Settles O23: each command passes its checks, and MODE_SET then asks only whether its mode is in force. -/
theorem modeLimitsQuery : Obligations.ModeLimitsQuery := by
  refine ⟨?inForce, ?stages, ?limits, ?query, ?queryAdmin⟩
  case inForce =>
    intro r e h s m c p x t hp hc hfree hmode
    obtain rfl := taken_entry t
    have hcall : ModeCall m r c p x := ⟨hp, hc, hmode ▸ modeCode_le x.mode, hfree⟩
    exact exec_taken_eq (f := runModeSet) rfl t (runModeSet_inForce hcall hmode)
  case stages =>
    intro r e h s m c p x t hp hc hfree hle hmode hconfig hcap hrepair
    obtain rfl := taken_entry t
    exact exec_taken_eq (f := runModeSet) rfl t (runModeSet_stages ⟨hp, hc, hle, hfree⟩ hmode hconfig hcap hrepair)
  case limits =>
    intro hs e h s m c t hc hcaps hbuffer hfree hfit
    obtain rfl := taken_entry t
    exact exec_taken_eq (f := runModuleLimits) rfl t (runModuleLimits_begins hc hcaps hbuffer hfree hfit)
  case query =>
    intro r e h s m c p x rs t hp hc hrs
    obtain rfl := taken_entry t
    exact exec_taken_eq (f := runQuery) rfl t (runQuery_part hp hc hrs)
  case queryAdmin =>
    intro hs e h s m c x rs t hc hsel hx hrs
    obtain rfl := taken_entry t
    exact exec_taken_eq (f := runQuery) rfl t (runQuery_admin hc hsel hx hrs)

end Sys2Proof.Machine
end

section
/-! PARTITION_CREATE, PARTITION_DESTROY, PARTITION_HOLD and PARTITION_RESUME (R381-R387). -/
namespace Sys2Proof.Machine
open Sys2Proof

section
variable {m : Mod} {hs : HostId} {c : Cmd} {x : Part}

/-! ### PARTITION_CREATE -/

/-- The record and the grant list a PARTITION_CREATE hands over. -/
def createBytes (m : Mod) (hs : HostId) (e : SqEntry) : List Byte :=
  hostRead (hostOf m hs.val) e.addr0.toNat (128 + 8 * argN e 4 4)

/-- The configuration record among those bytes. -/
def createConfig (m : Mod) (hs : HostId) (e : SqEntry) : BitVec 1024 := BitVec.ofNat 1024 (leNat ((createBytes m hs e).take 128))

/-- The grants among those bytes. -/
def createGrants (m : Mod) (hs : HostId) (e : SqEntry) : List (BitVec 64) :=
  (chunksOf 8 ((createBytes m hs e).drop 128)).map (fun b => (BitVec.ofNat 64 (leNat b) : BitVec 64))

/-- `c` is a PARTITION_CREATE on the admin ring of a site, whose buffer has the length its grant count says and can be read. -/
structure CreateCall (m : Mod) (hs : HostId) (c : Cmd) : Prop where
  count : argN c.entry 4 4 ≤ 4096
  length : c.entry.len0.toNat = 128 + 8 * argN c.entry 4 4
  aligned : c.entry.addr0.toNat % 8 = 0
  read : rejected (hostOf m hs.val) c.entry.addr0.toNat (128 + 8 * argN c.entry 4 4) = false

section
variable (h : CreateCall m hs c) (fz : Fuses)
include h

theorem CreateCall.form : ¬ (4096 < argN c.entry 4 4 ∨ c.entry.len0.toNat ≠ 128 + 8 * argN c.entry 4 4
    ∨ c.entry.addr0.toNat % 8 ≠ 0) := by
  have := h.count
  have := h.length
  have := h.aligned
  omega

/-- The first check of R384 that fails gives the status, and its number the detail. -/
theorem runPartitionCreate_fails {d : Nat} {st : Status}
    (hf : createFails fz m c.entry (createConfig m hs c.entry) ((createGrants m hs c.entry).map grantOf) = some (d, st)) :
    runPartitionCreate fz m (.admin hs) c = complete m (.admin hs) { compl c.entry.cid st with detail := d } := by
  refine (if_neg h.form).trans ((if_neg (ne_true_of_eq_false h.read)).trans ?_)
  simp only [createConfig, createGrants, createBytes] at hf
  simp only [hf]

theorem runPartitionCreate_creates
    (hf : createFails fz m c.entry (createConfig m hs c.entry) ((createGrants m hs c.entry).map grantOf) = none) :
    runPartitionCreate fz m (.admin hs) c =
      complete (createPart fz m (argN c.entry 0 1) (createConfig m hs c.entry) (createGrants m hs c.entry)
          (modeOf (argN c.entry 1 1))) (.admin hs)
        { compl c.entry.cid .ok with
          result0 := argN c.entry 0 1, result1 := fld (sha512 (leBytes 128 (createConfig m hs c.entry).toNat)) 0 64 } := by
  refine (if_neg h.form).trans ((if_neg (ne_true_of_eq_false h.read)).trans ?_)
  simp only [createConfig, createGrants, createBytes] at hf ⊢
  simp only [hf]

end

/-! ### PARTITION_DESTROY, PARTITION_HOLD and PARTITION_RESUME -/

section
variable (hc : entryClean c.entry false false false [(0, 4)] = true) (hx : partOf? m (argN c.entry 0 1) = some x)
include hc hx

/-- A clean command of an admin ring reaches the partition it names. -/
theorem onNamed_call (f : Nat → Part → Mod) : onNamed m (.admin hs) c f = f (argN c.entry 0 1) x := by
  simp only [onNamed, onAdmin, hc, hx]
  rfl

theorem runPartitionDestroy_call :
    runPartitionDestroy m (.admin hs) c =
      if unloadNow m x then
        completeS (destroyPart (adminHold m (argN c.entry 0 1)) (argN c.entry 0 1)) (.admin hs) c.entry.cid .ok
      else waitCmd (adminHold m (argN c.entry 0 1)) (.admin hs) c :=
  onNamed_call hc hx _

/-- A partition that the command finds held before it waits is held already; any other is held now. -/
theorem runPartitionHold_call (hnew : x.holdAdmin = false ∨ c.phase = .waiting) :
    runPartitionHold m (.admin hs) c =
      if actsNow m x then completeBeat (adminHold m (argN c.entry 0 1)) (.admin hs) c (argN c.entry 0 1)
      else waitCmd (adminHold m (argN c.entry 0 1)) (.admin hs) c := by
  refine (onNamed_call hc hx _).trans (if_neg ?_)
  rcases hnew with h | h <;> simp [h]

theorem runPartitionResume_call :
    runPartitionResume m (.admin hs) c =
      if x.holdAdmin = false then completeBeat m (.admin hs) c (argN c.entry 0 1)
      else if actsNow m x then
        kick (completeBeat (settleHold (updPart m (argN c.entry 0 1) (fun y => clearSummary { y with holdAdmin := false }))
          (argN c.entry 0 1)) (.admin hs) c (argN c.entry 0 1)) (argN c.entry 0 1)
      else waitCmd m (.admin hs) c := by
  refine (onNamed_call hc hx _).trans ?_
  cases x.holdAdmin <;> rfl

end

end

/-! ### The obligation -/

/-- Settles O33: PARTITION_CREATE is decided by `createFails`, and the other three act on the partition they name. -/
theorem partitionCommands : Obligations.PartitionCommands := by
  refine ⟨?create, ?destroy, ?hold, ?resume⟩
  case create =>
    intro hs e h s m c t hcount hlength haligned hread
    obtain rfl := taken_entry t
    have hcall : CreateCall m hs c := ⟨hcount, hlength, haligned, hread⟩
    refine ⟨fun d st hf => ?_, fun hf => ?_⟩
    · exact exec_taken_eq (f := runPartitionCreate s.fuses) rfl t (runPartitionCreate_fails hcall s.fuses hf)
    · exact exec_taken_eq (f := runPartitionCreate s.fuses) rfl t (runPartitionCreate_creates hcall s.fuses hf)
  case destroy =>
    intro hs e h s m c x t hc hx
    obtain rfl := taken_entry t
    exact exec_taken_eq (f := runPartitionDestroy) rfl t (runPartitionDestroy_call hc hx)
  case hold =>
    intro hs e h s m c x t hc hx hnew
    obtain rfl := taken_entry t
    exact exec_taken_eq (f := runPartitionHold) rfl t (runPartitionHold_call hc hx hnew)
  case resume =>
    intro hs e h s m c x t hc hx
    obtain rfl := taken_entry t
    exact exec_taken_eq (f := runPartitionResume) rfl t (runPartitionResume_call hc hx)

end Sys2Proof.Machine
end

section
/-! ATTEST (R402, R403), the acknowledgement and the timeout of a staged change (R392-R394), and `SEC.OWN_CHECK` (R405). -/
namespace Sys2Proof.Machine
open Sys2Proof

/-! ### ATTEST -/

section
variable {m : Mod} {hs : HostId} {c : Cmd}

theorem runAttest_module (hscope : argN c.entry 0 1 = 0)
    (hc : entryClean c.entry false true false [(0, 8), (8, 0), (64, 192)] = true) (fz : Fuses) :
    runAttest fz m (.admin hs) c =
      answerSized m (.admin hs) c.entry (attestReport fz m 0 0xFF (argN c.entry 8 24) m.parts) := by
  simp [runAttest, onAdmin, hscope, hc]

theorem runAttest_certificates (hscope : argN c.entry 0 1 = 2)
    (hc : entryClean c.entry false true false [(0, 8), (8, 0), (64, 192)] = true) (fz : Fuses) :
    runAttest fz m (.admin hs) c = answerSized m (.admin hs) c.entry (certBytes m) := by
  simp [runAttest, onAdmin, hscope, hc]

/-- A site may ask for the partitions it owns. -/
theorem runAttest_partition {x : Part} (hscope : argN c.entry 0 1 = 1)
    (hc : entryClean c.entry false true false [(0, 8), (8, 4), (64, 192)] = true) (hx : partOf? m (argN c.entry 1 1) = some x)
    (howner : partHost x = hs.val) (fz : Fuses) :
    runAttest fz m (.admin hs) c =
      answerSized m (.admin hs) c.entry
        (attestReport fz m 1 (argN c.entry 1 1) (argN c.entry 8 24) [(argN c.entry 1 1, x)]) := by
  simp [runAttest, onAdmin, hscope, hc, hx, howner]

end

/-! ### Staged changes and ownership checks -/

section
variable {m : Mod} {p : Nat} {x : Part} {t : Staged}

/-- The partition after region `r` has acknowledged the change `t`. -/
def ackStaged (r : Nat) (t : Staged) (z : Part) : Part :=
  { z with staged := z.staged.map (fun u => if u = t then { u with waiting := u.waiting.filter (fun q => q != r) } else u) }

/-- A controller that serves, of a region that is neither lost nor evacuated, acknowledges (R394). -/
theorem doStageAck_serves {r : Nat} (hp : partOf? m p = some x) (hfw : (regionAt m r).fwRestart = false)
    (hlost : (regionAt m r).lost = false) (hev : (regionAt m r).evacuated = false)
    (ht : x.staged.find? (fun t => t.waiting.contains r) = some t) :
    doStageAck p r m = kick (stageWork (updPart (raiseVcore m r x t) p (ackStaged r t)) p) p := by
  simp only [doStageAck, hp, hfw, hlost, hev, ht]
  rfl

theorem doStageTimeout_cancels (hp : partOf? m p = some x) (ht : x.staged.find? (fun t => !t.committed) = some t) :
    doStageTimeout p m = stageWork (cancelStaged m p t) p := by
  simp only [doStageTimeout, hp, ht]

theorem doOwnCheck_open {fz : Fuses} (hlock : fz.isolationLock = false) (hdebug : fz.debugLevel ≤ 1) (v : BitVec 16) :
    doOwnCheck fz v m = setOwnCheck v m :=
  if_neg (by simp [hlock, hdebug])

theorem doOwnCheck_locked {fz : Fuses} (h : fz.isolationLock = true ∨ 1 < fz.debugLevel) (v : BitVec 16) :
    doOwnCheck fz v m = m :=
  if_pos h

end

/-! ### The obligation -/

/-- Settles O34: ATTEST by its scope, the oldest change by what it waits for, `SEC.OWN_CHECK` by the fuses. -/
theorem attestAndChecks : Obligations.AttestAndChecks := by
  refine ⟨?module, ?certificates, ?partition, ?ack, ?timeout, ?ownCheck⟩
  case module =>
    intro hs e h s m c t hscope hc
    obtain rfl := taken_entry t
    exact exec_taken_eq (f := runAttest s.fuses) rfl t (runAttest_module hscope hc s.fuses)
  case certificates =>
    intro hs e h s m c t hscope hc
    obtain rfl := taken_entry t
    exact exec_taken_eq (f := runAttest s.fuses) rfl t (runAttest_certificates hscope hc s.fuses)
  case partition =>
    intro hs e h s m c x t hscope hc hx howner
    obtain rfl := taken_entry t
    exact exec_taken_eq (f := runAttest s.fuses) rfl t (runAttest_partition hscope hc hx howner s.fuses)
  case ack =>
    intro p r s x t hp hfw hlost hev ht
    exact exec_eq_withMod (f := doStageAck p.val r.val) rfl (doStageAck_serves hp hfw hlost hev ht)
  case timeout =>
    intro p s x t hp ht
    exact exec_eq_withMod (f := doStageTimeout p.val) rfl (doStageTimeout_cancels hp ht)
  case ownCheck =>
    intro v s
    refine ⟨fun hlock hdebug => ?_, fun h => ?_⟩
    · exact exec_eq_withMod (f := doOwnCheck s.fuses v) rfl (doOwnCheck_open hlock hdebug v)
    · exact exec_eq_withMod (f := doOwnCheck s.fuses v) (m := s.mod) rfl (doOwnCheck_locked h v)

end Sys2Proof.Machine
end

section
/-! Domain commands and ramps (R408, R409, R420, R424, R425): what each number of a domain answers, and how a ramp ends. -/
namespace Sys2Proof.Machine
open Sys2Proof

/-! ### Domain commands -/

section
variable {m : Mod} {v : BitVec 32}

theorem doDomainCmd_unknown (h : 151 < fld v 0 8) : doDomainCmd v m = cmdAnswer m 5 := if_pos h

/-- The core domain of a region. -/
theorem doDomainCmd_core (h : fld v 0 8 < 64) :
    doDomainCmd v m =
      if isSpareRegion (fld v 0 8) = true then cmdAnswer m 1
      else if (regionOwner m (fld v 0 8)).isSome || (regionAt m (fld v 0 8)).evacuated then cmdAnswer m 2
      else cmdAnswer (switchCore m (fld v 0 8) (bit v 8)) 0 :=
  (if_neg (by omega)).trans (if_pos h)

/-- The domain of a port group, whose number starts at 128. -/
theorem doDomainCmd_port (hlo : 128 ≤ fld v 0 8) (hhi : fld v 0 8 < 144) :
    doDomainCmd v m =
      if (groupOf m (fld v 0 8 - 128)).enable || (groupOf m (fld v 0 8 - 128)).owner.isSome then cmdAnswer m 3
      else cmdAnswer (updGroup m (fld v 0 8 - 128) (fun z => { z with domainOn := bit v 8 })) 0 :=
  (if_neg (by omega)).trans ((if_neg (by omega)).trans (if_pos ⟨hlo, hhi⟩))

/-- The domain of a half of the seam. -/
theorem doDomainCmd_seam (h : fld v 0 8 = 148 ∨ fld v 0 8 = 149) :
    doDomainCmd v m =
      if (partIds m).any (ownsSeam m) = true then cmdAnswer m 4
      else cmdAnswer (switchSeam m (fld v 0 8 - 148) (bit v 8)) 0 :=
  (if_neg (by omega)).trans ((if_neg (by omega)).trans ((if_neg (by omega)).trans (if_pos h)))

/-- A domain that only module power switches. -/
theorem doDomainCmd_modulePower (h : 64 ≤ fld v 0 8 ∧ fld v 0 8 < 128 ∨ 144 ≤ fld v 0 8 ∧ fld v 0 8 < 148 ∨ fld v 0 8 = 150
      ∨ fld v 0 8 = 151) : doDomainCmd v m = cmdAnswer m 1 :=
  (if_neg (by omega)).trans ((if_neg (by omega)).trans ((if_neg (by omega)).trans (if_neg (by omega))))

end

/-! ### Ramps -/

section
variable {m : Mod} {r : Nat}

theorem doRampDone_trips (h : (regionAt m r).power.core = .ramp) (fz : Fuses) :
    doRampDone fz r true m = supplyLoss fz m r 1 := by
  simp only [doRampDone, h, if_true]

theorem rampEnded_spare (hspare : isSpareRegion r = true) (hrole : (regionAt m r).standin = false) (fz : Fuses) :
    rampEnded fz m r = retargetRegion (updPower (liftCap m r) r (fun y => { y with core := .warm })) r :=
  if_pos (by simp [hspare, hrole])

theorem rampEnded_role (h : isSpareRegion r = false ∨ (regionAt m r).standin = true) (fz : Fuses) :
    rampEnded fz m r = retargetRegion (lightSites fz (updPower (liftCap m r) r (fun y => { y with core := .on })) r) r :=
  if_neg (by rcases h with h | h <;> simp [h])

end

/-! ### The obligation -/

/-- Settles O38: a domain command by the kind of its domain, a ramp by how it ends, and the quadrant's two timers. -/
theorem powerDomains : Obligations.PowerDomains := by
  refine ⟨?domain, ?ramp, ?cap, ?quadrant⟩
  case domain =>
    intro v s d m
    have answers {n : Mod} (h : doDomainCmd v m = n) : exec (.domainCmd v) s = .next (s.withMod n) :=
      exec_eq_withMod (f := doDomainCmd v) rfl h
    refine ⟨fun h => ?unknown, fun h hspare => ?spare, fun h => ?fixed, fun h hspare hused => ?used,
      fun h hspare howner hev => ?core, fun hlo hhi hused => ?portUsed, fun hlo hhi hen howner => ?port,
      fun h hany => ?seamUsed, fun h hany => ?seam⟩
    case unknown => exact answers (doDomainCmd_unknown h)
    case spare => exact answers ((doDomainCmd_core h).trans (if_pos hspare))
    case fixed => exact answers (doDomainCmd_modulePower h)
    case used =>
      exact answers ((doDomainCmd_core h).trans ((if_neg (ne_true_of_eq_false hspare)).trans
        (if_pos (Bool.or_eq_true_iff.mpr hused))))
    case core =>
      exact answers ((doDomainCmd_core h).trans ((if_neg (ne_true_of_eq_false hspare)).trans
        (if_neg (ne_true_of_eq_false (Bool.or_eq_false_iff.mpr ⟨congrArg Option.isSome howner, hev⟩)))))
    case portUsed => exact answers ((doDomainCmd_port hlo hhi).trans (if_pos (Bool.or_eq_true_iff.mpr hused)))
    case port => exact answers (doDomainCmd_group hlo hhi hen howner)
    case seamUsed => exact answers ((doDomainCmd_seam h).trans (if_pos hany))
    case seam => exact answers ((doDomainCmd_seam h).trans (if_neg (ne_true_of_eq_false hany)))
  case ramp =>
    intro r s hramp m
    have ends {n : Mod} (h : rampEnded s.fuses s.mod r.val = n) :
        exec (.regionRampDone r false) s = .next (s.withMod (startNext n (quadrantOf r.val))) :=
      exec_eq_withMod (f := doRampDone s.fuses r.val false) rfl (h ▸ doRampDone_holds hramp s.fuses)
    refine ⟨?trips, fun hspare hrole => ?spare, fun h => ?role⟩
    case trips => exact exec_eq_withMod (f := doRampDone s.fuses r.val true) rfl (doRampDone_trips hramp s.fuses)
    case spare => exact ends (rampEnded_spare hspare hrole s.fuses)
    case role => exact ends (rampEnded_role h s.fuses)
  case cap =>
    intro r s hwait
    exact exec_eq_withMod (f := doHeadroomCap r.val) rfl (if_pos hwait)
  case quadrant =>
    intro q w s
    rfl

end Sys2Proof.Machine
end

section
/-! Faults of the supply (R411, R415-R417, R421-R423, R427): cells, converters, feeds, cracked connections, droop sensors and
VIN. The ledger class and the value of PWR_CELL_FAIL are log entry 57, the cause of the last gasp log entry 58. -/
namespace Sys2Proof.Machine
open Sys2Proof

/-! ### Cells -/

section
variable {m : Mod} {r k : Nat}

/-- The module without cell `k` of region `r`. -/
def cellGone (m : Mod) (r k : Nat) : Mod := updPower m r (fun y => { y with cellsFailed := setBit y.cellsFailed k true })

/-- The payload of the events of a failed cell (R427). -/
def cellPayload (m : Mod) (r k : Nat) : BitVec 192 :=
  pwrPayload m r k 0 0 (cellsShown m r) (ilimDa (regionAt m r).power) 0

/-- The failed cell is posted and in the ledger. -/
def cellPosted (m : Mod) (r k : Nat) : Mod := postLedger (cellGone m r k) 0x0801 none 0 0 (cellPayload (cellGone m r k) r k)

/-- The failed cells of the region, `k` among them. -/
def cellsNow (m : Mod) (r k : Nat) : Nat := cellsFailed (regionAt (cellGone m r k) r).power

/-- A cell of a powered region fails once. -/
theorem doCellFail_fails (hup : coreUp m r = true) (hcell : bit (regionAt m r).power.cellsFailed k = false) (fz : Fuses) :
    doCellFail fz r k m =
      if cellsNow m r k = 3 ∨ cellsNow m r k = 4 then post (cellPosted m r k) 0x0802 none (cellPayload (cellPosted m r k) r k)
      else if 5 ≤ cellsNow m r k then supplyLoss fz (cellPosted m r k) r 4
      else cellPosted m r k :=
  if_neg (by simp [hup, hcell])

end

/-! ### Supplies, feeds and sensors -/

section
variable {m : Mod} {r s : Nat}

theorem supplyLoss_drops (h : (regionAt m r).power.core ≠ .lost) (fz : Fuses) (cause : Nat) :
    supplyLoss fz m r cause = startNext (reportSupply fz (dropSupply (liftCap m r) r cause) r) (quadrantOf r) :=
  if_neg h

/-- A feed of region `r` is lost and posted. -/
def feedLost (m : Mod) (r : Nat) (b : Bool) : Mod :=
  let m1 := updPower m r (fun z => if b then { z with feedB := false } else { z with feedA := false })
  post (pwrFlag m1 3) 0x0804 none (pwrPayload m1 r 0x1F 0 (1 + b2n b) (cellsShown m1 r) 0 0)

/-- With the other feed there nothing else falls (R411). -/
theorem loseFeed_other {b : Bool} (hthis : (if b then (regionAt m r).power.feedB else (regionAt m r).power.feedA) = true)
    (hother : (if b then (regionAt m r).power.feedA else (regionAt m r).power.feedB) = true) :
    loseFeed m r b = feedLost m r b :=
  (if_pos hthis).trans (if_pos hother)

/-- A site without a mark becomes a suspected cracked connection (R417). -/
theorem crackSuspect_marks (h : (siteOf m s).env.crack = false) (dev : Nat) :
    crackSuspect m s dev =
      let m1 := updEnv m s (fun e => { e with crack := true, limitDa := 192 })
      postLedger m1 0x0805 none 0 4 (pwrPayload m1 (regionOf s) (localOf s) 0 0 (cellsShown m1 (regionOf s)) 192 dev) :=
  if_neg (ne_true_of_eq_false h)

/-- An evaluated site is suspected where its mean droop is above 25 mV and 15 mV above its low one (R416). -/
theorem doCrackWindow_evaluated {fz : Fuses} (hclass : liveClass fz m s = .active) (hev : evaluates m (regionOf s) = true)
    (hi lo : Int) :
    doCrackWindow fz s (some (hi, lo)) m = if 250 < hi ∧ 150 ≤ hi - lo then crackSuspect m s hi.toNat else m := by
  simp [doCrackWindow, hclass, hev]

theorem doDroopSuspect_good {i : Nat} (hev : evaluates m (regionOf s) = true)
    (hgood : bit (siteOf m s).env.droopSuspect i = false) :
    doDroopSuspect s i m =
      let r := regionOf s
      let m1 := updEnv m s (fun e => { e with droopSuspect := setBit e.droopSuspect i true })
      let m2 := post m1 0x0806 none (pwrPayload m1 r (localOf s) i 0 (cellsShown m1 r) 0 0)
      let y := (regionAt m2 r).power
      let m3 := if y.minSite = localOf s ∧ y.minSensor = i then steer m2 r else m2
      if (siteOf m3 s).env.droopSuspect = 0xFF then crackSuspect m3 s 0 else m3 :=
  if_neg (by simp [hev, hgood])

end

/-! ### VIN -/

section
variable {m : Mod} {mv : Nat}

theorem doVinWarn_posts (hon : m.startup.step ≠ 0) (h : (30000 ≤ mv ∧ mv < 32000) ∨ (40000 < mv ∧ mv ≤ 42000)) :
    doVinWarn mv m =
      let m1 := { m with pwr := { m.pwr with vinMv := sat16 mv, vinOk := false } }
      post (pwrFlag m1 0) 0x0808 none (pwrPayload m1 0x3F 0x1F 0 0 0 mv 0) := by
  have hout : vinInRange mv = false := by
    rw [vinInRange, Bool.and_eq_false_iff, decide_eq_false_iff_not, decide_eq_false_iff_not]
    omega
  rw [doVinWarn, if_neg hon, measureVin, hout]
  exact if_pos h

theorem doVinTrip_trips (hon : m.startup.step ≠ 0) (h : mv < 30000 ∨ 42000 < mv) :
    doVinTrip mv m =
      let m1 := allOff (lastGasp 1 m)
      { m1 with pins := { m1.pins with fault := true }, startup := { m1.startup with tripped := true } } :=
  if_neg (by omega)

end

/-! ### The obligation -/

/-- Settles O40: each fault acts where its guard holds; a failed cell by how many have failed. -/
theorem powerFaults : Obligations.PowerFaults := by
  refine ⟨?cell, ?supply, ?feed, ?crack, ?droop, ?vin⟩
  case cell =>
    intro r k s hup hcell m1 n pl m2
    have fails {t : Mod} (h : (if n = 3 ∨ n = 4 then post m2 0x0802 none (pl m2) else if 5 ≤ n then supplyLoss s.fuses m2 r.val 4
        else m2) = t) : exec (.pwrCellFail r k) s = .next (s.withMod t) :=
      exec_eq_withMod (f := doCellFail s.fuses r.val k.val) rfl ((doCellFail_fails hup hcell s.fuses).trans h)
    refine ⟨fun h => ?few, fun h => ?thirdOrFourth, fun h => ?fifth⟩
    case few => exact fails ((if_neg (by omega)).trans (if_neg (by omega)))
    case thirdOrFourth => exact fails (if_pos h)
    case fifth => exact fails ((if_neg (by omega)).trans (if_pos h))
  case supply =>
    intro r k s hon hcore
    exact exec_eq_withMod (f := fun m => if m.startup.step = 0 then m else supplyLoss s.fuses m r.val (causeCode k)) rfl
      ((if_neg hon).trans (supplyLoss_drops hcore s.fuses (causeCode k)))
  case feed =>
    intro r b s hthis hother
    exact exec_eq_withMod (f := fun m => loseFeed m r.val b) rfl (loseFeed_other hthis hother)
  case crack =>
    intro i hi lo s hclass hev hcrack
    rw [← crackSuspect_marks hcrack hi.toNat]
    exact exec_eq_withMod (f := doCrackWindow s.fuses i.val (some (hi, lo))) rfl (doCrackWindow_evaluated hclass hev hi lo)
  case droop =>
    intro i k s hev hgood
    exact exec_eq_withMod (f := doDroopSuspect i.val k.val) rfl (doDroopSuspect_good hev hgood)
  case vin =>
    intro mv s hon
    refine ⟨fun h => ?_, fun h => ?_⟩
    · exact exec_eq_withMod (f := doVinWarn mv) rfl (doVinWarn_posts hon h)
    · exact exec_eq_withMod (f := doVinTrip mv) rfl (doVinTrip_trips hon h)

end Sys2Proof.Machine
end

section
/-! References, PLLs and the fabric clock (R430, R431, R433, R484): every row, with what it leaves alone. The management PLL only
clears its lock, the loss of the seam clock takes every crossing, and a reference that returns ends the hold-over (log entry
64). -/
namespace Sys2Proof.Machine
open Sys2Proof

/-! ### The alert of the SMBus -/

/-- What `SMB_ALERT_N` watches is the change a command makes, not the way it makes it. -/
theorem smbWatch_congr {f g : Mod → Mod} {m : Mod} (h : f m = g m) : smbWatch f m = smbWatch g m := by
  simp only [smbWatch, h]

/-- The port does not answer, so it raises no alert, while the management domains are off. -/
theorem smbWatch_off {f : Mod → Mod} {m : Mod} (h : (f m).pwr.mgmtOn = 0) : smbWatch f m = f m := by
  simp [smbWatch, h]

/-- A watched command answers a module where its meaning answers it. -/
theorem exec_watched {c : Instr} {s : State} {f g : Mod → Mod} (hx : exec c s = lift (smbWatch f) s) (h : f s.mod = g s.mod) :
    exec c s = .next (s.withMod (smbWatch g s.mod)) :=
  exec_eq_withMod hx (smbWatch_congr h)

/-! ### References -/

section
variable {m : Mod}

@[simp] theorem refGone_sel1 (m : Mod) : (refGone m).clk.sel1 = m.clk.sel1 := by
  rw [refGone]
  split <;> rfl

@[simp] theorem refGone_refLoss (m : Mod) : (refGone m).clk.refLoss = m.clk.refLoss := by
  rw [refGone]
  split <;> rfl

/-- The loss of the reference in use moves every PLL to the other, or they hold over. -/
theorem doRefLoss_present (h : refPresent m.clk = true) :
    doRefLoss m =
      if (if m.clk.sel1 then m.clk.ref0 else m.clk.ref1) then otherRef (refGone m) else refGone m :=
  if_neg (by simp [h])

theorem doRefLoss_holdOver (h : refPresent m.clk = false) : doRefLoss m = m := if_pos (by simp [h])

/-- The module with a reference back. -/
def refBack (ref1 : Bool) (m : Mod) : Mod :=
  { m with clk := if ref1 then { m.clk with ref1 := true } else { m.clk with ref0 := true } }

theorem doRefReturn_running (hon : m.pwr.mgmtOn ≠ 0) (hwait : waitingAt m 2 = none) (fz : Fuses) (ref1 : Bool) :
    doRefReturn fz ref1 m =
      if m.clk.ref0 = false ∧ m.clk.ref1 = false ∧ m.clk.sel1 ≠ ref1 then otherRef (refBack ref1 m) else refBack ref1 m := by
  simp only [doRefReturn, if_neg hon, hwait, Bool.and_eq_true, Bool.not_eq_true', bne_iff_ne, and_assoc]
  rfl

theorem doRefReturn_waited (hon : m.pwr.mgmtOn ≠ 0) {env : StartEnv} (hwait : waitingAt m 2 = some env) (fz : Fuses)
    (ref1 : Bool) : doRefReturn fz ref1 m = startRefs fz env (setCode (setFault (refBack ref1 m) false) 0x11) := by
  simp only [doRefReturn, if_neg hon, hwait]
  rfl

/-- A start-up still to come sees the reference. -/
theorem doRefReturn_off (hoff : m.pwr.mgmtOn = 0) (fz : Fuses) (ref1 : Bool) :
    doRefReturn fz ref1 m = { m with startup := { m.startup with
      env := m.startup.env.map (fun e => if ref1 then { e with ref1 := true } else { e with ref0 := true }) } } :=
  if_pos hoff

/-! ### The fabric clock -/

theorem doFabricClock_full {east : Bool} (hfull : (if east then m.thm.fabricE else m.thm.fabricW) = false) :
    doFabricClock east m = if halfAt m east 384 then setFabric m east true else m :=
  if_neg (ne_true_of_eq_false hfull)

theorem doFabricClock_reduced {east : Bool} (hred : (if east then m.thm.fabricE else m.thm.fabricW) = true) :
    doFabricClock east m =
      if m.thm.minclk = false ∧ halfAt m east 360 = false ∧ coolFor m (if east then 1 else 0) = true then setFabric m east false
      else m := by
  rw [doFabricClock, if_pos hred]
  simp only [Bool.and_eq_true, Bool.not_eq_true', and_assoc]

end

/-! ### The obligation -/

/-- Settles O41: references by what is present, PLLs by their number, the fabric clock of a half by the rate it runs at. -/
theorem clocks : Obligations.Clocks := by
  refine ⟨?refLoss, ?holdOver, ?pll, ?fabric, ?refReturn⟩
  case refLoss =>
    intro s hin
    refine exec_eq_withMod (f := doRefLoss) rfl ((doRefLoss_present hin).trans ?_)
    simp only [otherRef, refGone_sel1, refGone_refLoss]
    rfl
  case holdOver =>
    intro s hout
    exact exec_eq_withMod (f := doRefLoss) (m := s.mod) rfl (doRefLoss_holdOver hout)
  case pll =>
    intro k s c
    have losesLock {j : Nat} (hk : k.val = j) : exec (.pllLockLoss k) s = .next (s.withMod (doLockLoss j s.mod)) :=
      exec_eq_withMod (f := doLockLoss k.val) rfl (by rw [hk])
    have locks {j : Nat} (hk : k.val = j) : exec (.pllRelock k) s = .next (s.withMod (doRelock j s.mod)) :=
      exec_eq_withMod (f := doRelock k.val) rfl (by rw [hk])
    exact ⟨losesLock, losesLock, losesLock, losesLock, locks, locks, locks, locks⟩
  case fabric =>
    intro east s red
    refine ⟨fun hfull => ?_, fun hred => ?_⟩
    · exact exec_eq_withMod (f := doFabricClock east) rfl (doFabricClock_full hfull)
    · exact exec_eq_withMod (f := doFabricClock east) rfl (doFabricClock_reduced hred)
  case refReturn =>
    intro ref1 s back
    refine ⟨fun hon hwait => ?running, fun env hon hwait => ?waited, fun hoff => ?off⟩
    case running => exact exec_watched (f := doRefReturn s.fuses ref1) rfl (doRefReturn_running hon hwait s.fuses ref1)
    case waited => exact exec_watched (f := doRefReturn s.fuses ref1) rfl (doRefReturn_waited hon hwait s.fuses ref1)
    case off =>
      have hsees := doRefReturn_off hoff s.fuses ref1
      have hstays : (doRefReturn s.fuses ref1 s.mod).pwr.mgmtOn = 0 := by rw [hsees]; exact hoff
      exact exec_eq_withMod (f := smbWatch (doRefReturn s.fuses ref1)) rfl ((smbWatch_off hstays).trans hsees)

end Sys2Proof.Machine
end

section
/-! Thermal throttle, minimum clock, hot trip and suspect sensors (R434, R435, R437, R438, R446, R465). The restart of a
controller keeps a region from throttling (log entry 62); the cause of the last gasp is log entry 58. -/
namespace Sys2Proof.Machine
open Sys2Proof

/-! ### Region throttle (R437) -/

section
variable {m : Mod} {i d o : Nat}

/-- The module after a sample of site `i`, its region at 400 MHz where the comparator forces it. -/
def tempSampled (m : Mod) (i d o : Nat) : Mod := forceSlow (sampleSite m i d o) (regionOf i)

theorem doThrottle_calm (hon : 4 ≤ m.startup.step)
    (h : siteTemp (tempSampled m i d o) i < 368 ∨ (regionAt (tempSampled m i d o) (regionOf i)).clock.throttle = true
      ∨ (regionAt (tempSampled m i d o) (regionOf i)).fwRestart = true) : doThrottle i d o m = tempSampled m i d o := by
  refine (if_neg (Nat.not_lt.mpr hon)).trans (if_pos ?_)
  simp only [Bool.or_eq_true, decide_eq_true_eq, or_assoc]
  exact h

theorem doThrottle_throttles (hon : 4 ≤ m.startup.step) (htemp : 368 ≤ siteTemp (tempSampled m i d o) i)
    (hnew : (regionAt (tempSampled m i d o) (regionOf i)).clock.throttle = false)
    (hfw : (regionAt (tempSampled m i d o) (regionOf i)).fwRestart = false) :
    doThrottle i d o m =
      let m2 := lowerCeiling (updClock (tempSampled m i d o) (regionOf i) (fun c => { c with throttle := true })) (regionOf i)
      post m2 0x0903 none (throttlePayload m2 (regionOf i) 1) := by
  refine (if_neg (Nat.not_lt.mpr hon)).trans (if_neg ?_)
  simp only [Bool.or_eq_true, decide_eq_true_eq, or_assoc]
  rintro (h | h | h)
  · exact Nat.not_lt.mpr htemp h
  · exact ne_true_of_eq_false hnew h
  · exact ne_true_of_eq_false hfw h

end

section
variable {m : Mod} {r : Nat} (hfw : (regionAt m r).fwRestart = false)
include hfw

/-- A throttled region falls, waits, or leaves the throttle. -/
theorem doThrottleStep_throttled (h : (regionAt m r).clock.throttle = true) :
    doThrottleStep r m =
      if 368 ≤ peak m (sitesOf r) then lowerCeiling m r
      else if peak m (sitesOf r) < 356 then
        let m1 := updClock m r (fun c => { c with throttle := false })
        post m1 0x0903 none (throttlePayload m1 r 0)
      else m :=
  (if_neg (ne_true_of_eq_false hfw)).trans (if_pos h)

/-- A region that has left the throttle rises while it is cool and the module is not at minimum clock. -/
theorem doThrottleStep_released (h : (regionAt m r).clock.throttle = false) :
    doThrottleStep r m =
      if (regionAt m r).clock.ceilingMhz < 1200 ∧ peak m (sitesOf r) < 356 ∧ m.thm.minclk = false then
        setCeiling m r (min 1200 ((regionAt m r).clock.ceilingMhz + 100))
      else m := by
  refine (if_neg (ne_true_of_eq_false hfw)).trans ((if_neg (ne_true_of_eq_false h)).trans ?_)
  simp only [Bool.and_eq_true, decide_eq_true_eq, Bool.not_eq_true', and_assoc]

end

/-! ### Minimum clock and hot trip (R438) -/

section
variable {m : Mod}

theorem doMinclk_begins (hoff : m.thm.minclk = false) (hhot : moduleAt m 400 = true) :
    doMinclk m =
      let m1 := thmFlag { m with thm := { m.thm with minclk := true, minclkCount := sat32 (m.thm.minclkCount + 1) } } 5
      let m2 := forAll m1 (List.range 64) (fun m r => forceSlow (setCeiling m r 400) r)
      let m3 := setFabric (setFabric m2 false true) true true
      post m3 0x0904 none (minclkPayload m3 1) :=
  (if_neg (ne_true_of_eq_false hoff)).trans (if_pos hhot)

theorem doMinclk_ends (hon : m.thm.minclk = true) (hcool : moduleAt m 380 = false) (hsecond : coolFor m 2 = true) :
    doMinclk m =
      let m2 := forAll { m with thm := { m.thm with minclk := false } } (List.range 64) (fun m r =>
        updClock m r (fun y => { y with forced := false }))
      post m2 0x0904 none (minclkPayload m2 0) :=
  (if_pos hon).trans (if_pos (by simp [hcool, hsecond]))

theorem doHotTrip_trips {i : Nat} (hhot : 2 ≤ (siteOf m i).env.hotSamples) (hon : m.startup.step ≠ 0) :
    doHotTrip i m =
      let m1 := allOff (lastGasp 2 m)
      { m1 with pins := { m1.pins with hotTrip := true }, startup := { m1.startup with tripped := true } } :=
  if_neg (by omega)

theorem doHotTrip_few {i : Nat} (h : (siteOf m i).env.hotSamples < 2) : doHotTrip i m = m := if_pos (.inl h)

end

/-! ### Suspect sensors (R435) -/

section
variable {m : Mod} {i : Nat} {o : Bool} (hfw : (regionAt m (regionOf i)).fwRestart = false)
include hfw

theorem doSensorSuspect_selfCheck (hgood : (if o then (siteOf m i).env.oSuspect else (siteOf m i).env.dSuspect) = false) :
    doSensorSuspect i o true m = markSensor m i o :=
  (if_neg (ne_true_of_eq_false hfw)).trans ((if_pos rfl).trans (if_neg (ne_true_of_eq_false hgood)))

/-- The two readings of a site differ by more than 6 °C, and it has neighbours whose sensors are good. -/
structure SensorsDiffer (m : Mod) (i : Nat) : Prop where
  d : (siteOf m i).env.dSuspect = false
  o : (siteOf m i).env.oSuspect = false
  apart : 24 < Machine.dist (siteOf m i).env.dQ (siteOf m i).env.oQ
  judged : goodNeighbours m i ≠ []

/-- How far a reading lies from the mean of the neighbours, times their number. -/
def fromMean (m : Mod) (i q : Nat) : Nat :=
  Machine.dist ((goodNeighbours m i).length * q) ((goodNeighbours m i).map (siteTemp m)).sum

theorem doSensorSuspect_differ (h : SensorsDiffer m i) :
    doSensorSuspect i o false m =
      if fromMean m i (siteOf m i).env.dQ < fromMean m i (siteOf m i).env.oQ then markSensor m i true
      else if fromMean m i (siteOf m i).env.oQ < fromMean m i (siteOf m i).env.dQ then markSensor m i false
      else markSensor (bumpFree m) i (chooseIdx m 2 == 1) := by
  refine (if_neg (ne_true_of_eq_false hfw)).trans ((if_neg Bool.false_ne_true).trans (if_neg ?_))
  simp [h.d, h.o, h.apart, h.judged]

end

/-! ### The obligation -/

/-- Settles O42: each row by the temperatures and marks its guard reads. -/
theorem throttle : Obligations.Throttle := by
  refine ⟨?sample, ?step, ?minclk, ?trip, ?sensor⟩
  case sample =>
    intro i d o s hon r m1 y
    refine ⟨fun h => ?_, fun htemp hnew hfw => ?_⟩
    · exact exec_eq_withMod (f := doThrottle i.val d o) rfl (doThrottle_calm hon h)
    · exact exec_eq_withMod (f := doThrottle i.val d o) rfl (doThrottle_throttles hon htemp hnew hfw)
  case step =>
    intro r s hfw c top
    have steps {n : Mod} (h : doThrottleStep r.val s.mod = n) : exec (.throttleStep r) s = .next (s.withMod n) :=
      exec_eq_withMod (f := doThrottleStep r.val) rfl h
    refine ⟨fun ht hhot => ?falls, fun ht hlo hhi => ?waits, fun ht hcool => ?ends, fun ht hlow hcool hmin => ?rises,
      fun ht h => ?stays⟩
    case falls => exact steps ((doThrottleStep_throttled hfw ht).trans (if_pos hhot))
    case waits =>
      exact steps ((doThrottleStep_throttled hfw ht).trans ((if_neg (Nat.not_le.mpr hhi)).trans (if_neg (Nat.not_lt.mpr hlo))))
    case ends =>
      have hnot : ¬ 368 ≤ top := by omega
      exact steps ((doThrottleStep_throttled hfw ht).trans ((if_neg hnot).trans (if_pos hcool)))
    case rises => exact steps ((doThrottleStep_released hfw ht).trans (if_pos ⟨hlow, hcool, hmin⟩))
    case stays =>
      refine steps ((doThrottleStep_released hfw ht).trans (if_neg ?_))
      rintro ⟨hlow, hcool, hmin⟩
      rcases h with h | h | h
      · exact Nat.not_lt.mpr h hlow
      · exact Nat.not_lt.mpr h hcool
      · exact ne_true_of_eq_false hmin h
  case minclk =>
    intro s
    refine ⟨fun hoff hhot => ?_, fun hon hcool hsecond => ?_⟩
    · exact exec_watched (f := doMinclk) rfl (doMinclk_begins hoff hhot)
    · exact exec_watched (f := doMinclk) rfl (doMinclk_ends hon hcool hsecond)
  case trip =>
    intro i s
    refine ⟨fun hhot hon => ?_, fun hfew => ?_⟩
    · exact exec_eq_withMod (f := doHotTrip i.val) rfl (doHotTrip_trips hhot hon)
    · exact exec_eq_withMod (f := doHotTrip i.val) (m := s.mod) rfl (doHotTrip_few hfew)
  case sensor =>
    intro i o s hfw e ns total
    refine ⟨fun hgood => ?selfCheck, fun hd ho hapart hns => ⟨fun hlt => ?optical, fun hlt => ?diode⟩⟩
    case selfCheck => exact exec_eq_withMod (f := doSensorSuspect i.val o true) rfl (doSensorSuspect_selfCheck hfw hgood)
    all_goals have hdiffer : SensorsDiffer s.mod i.val := ⟨hd, ho, hapart, hns⟩
    case optical =>
      exact exec_eq_withMod (f := doSensorSuspect i.val o false) rfl ((doSensorSuspect_differ hfw hdiffer).trans (if_pos hlt))
    case diode =>
      exact exec_eq_withMod (f := doSensorSuspect i.val o false) rfl
        ((doSensorSuspect_differ hfw hdiffer).trans ((if_neg (Nat.not_lt_of_gt hlt)).trans (if_pos hlt)))

end Sys2Proof.Machine
end

section
/-! The Carousel and the coolant (R439, R440, R442, R444, R446). The sets are numbered as in log entry 63; two estimates
disagree by 30 % of the larger (log entry 62). -/
namespace Sys2Proof.Machine
open Sys2Proof

/-! ### The Carousel (R439) -/

section
variable {m : Mod} {k : Nat}

theorem doCarousel_group (halive : rmAlive m = true) (h : k < 16) : doCarousel k m = carouselGroup m k :=
  (if_neg (by simp [halive])).trans (if_pos h)

theorem doCarousel_region (halive : rmAlive m = true) (hlow : 16 ≤ k) (hhigh : k < 80) :
    doCarousel k m = carouselRegion m (k - 16) :=
  (if_neg (by simp [halive])).trans ((if_neg (Nat.not_lt.mpr hlow)).trans (if_pos hhigh))

theorem doCarousel_frames (halive : rmAlive m = true) (h : 80 ≤ k) :
    doCarousel k m = carouselFrames m ((k - 80) / 32) ((k - 80) % 32) :=
  (if_neg (by simp [halive])).trans ((if_neg (by omega)).trans (if_neg (Nat.not_lt.mpr h)))

/-- A group whose sites spread and whose rate limit allows it asks for a rotation. -/
theorem carouselGroup_eq (m : Mod) (g : Nat) :
    carouselGroup m g =
      if 32 + coolest m (groupSites g) < peak m (groupSites g) ∧ rateOk m (groupOf m g).rotateTime 100000000 = true then
        updGroup m g (fun z => { z with rotateDue := true, rotateTime := some m.time })
      else m := by
  simp only [carouselGroup, spreads, Bool.and_eq_true, decide_eq_true_eq, Nat.add_comm]

/-- A region that evaluates, spreads and may act lowers the cell of its hottest site. -/
theorem carouselRegion_lowers {r t : Nat} (hrun : evaluates m r = true)
    (hspread : 32 + coolest m (goodCells m r) < peak m (goodCells m r))
    (hrate : rateOk m (regionAt m r).clock.carouselTime 10000000 = true) (hhot : hottest m (goodCells m r) = some t) :
    carouselRegion m r = updClock m r (fun c => { c with loweredCell := some (localOf t), carouselTime := some m.time }) := by
  have hs : spreads m (goodCells m r) = true := decide_eq_true (by omega)
  simp only [carouselRegion, hrun, hs, hrate, hhot, Bool.and_self, if_true]

/-- The frames of a valid entry whose sites differ, whose rate limit allows it and which no swap holds back are swapped. -/
theorem carouselFrames_swaps {p j : Nat} {x : Part} (hx : partOf? m p = some x) (hvalid : (mget x.cars j carNone).valid = true)
    (hdiffer : 32 < Machine.dist (peak m (frameSites x (mget x.cars j carNone).frameA))
      (peak m (frameSites x (mget x.cars j carNone).frameB)))
    (hrate : rateOk m (mget x.cars j carNone).lastSwap 1000000000 = true) (hdrained : x.draining = [])
    (hfree : swapStaged x = false) :
    carouselFrames m p j =
      stageWork (stageChange (updPart m p (fun y =>
        { y with cars := mset y.cars j { mget x.cars j carNone with lastSwap := some m.time } })) p (.swap j) none) p := by
  simp only [carouselFrames, hx]
  exact if_pos (by simp [hvalid, hdiffer, hrate, hdrained, hfree])

/-- A region whose controller does not restart releases its lowered cell when it no longer spreads. -/
theorem doCarouselRelease_running {r : Nat} (hfw : (regionAt m r).fwRestart = false) :
    doCarouselRelease r m =
      if peak m (goodCells m r) < coolest m (goodCells m r) + 20 then updClock m r (fun c => { c with loweredCell := none })
      else m := by
  simp only [doCarouselRelease, hfw, Bool.not_false, Bool.and_true, decide_eq_true_eq]

end

/-! ### Entries of the Carousel table (R440) -/

section
variable {m : Mod} {p j : Nat} {x : Part}

theorem doCarEntry_clears (m : Mod) (p j : Nat) :
    doCarEntry p j false m = updPart m p (fun y => { y with cars := mset y.cars j { mget y.cars j carNone with valid := false } }) :=
  rfl

/-- The entry that stands after a change of the partition that sets it. -/
theorem car_updPart {f : Part → Part} {c : CarEntry} (hx : partOf? m p = some x) (hf : (f x).cars = mset x.cars j c) :
    (partOf? (updPart m p f) p).map (fun y => mget y.cars j carNone) = some c := by
  rw [partOf?_updPart_same, hx, Option.map_some, Option.map_some, hf, mget, mget?_mset_same, Option.getD_some]

section
variable (hx : partOf? m p = some x) (hnew : (mget x.cars j carNone).valid = false)
include hx hnew

theorem doCarEntry_rejected (hrej : carRejected x (mget x.cars j carNone) = true) :
    (partOf? (doCarEntry p j true m) p).map (fun y => mget y.cars j carNone)
      = some { mget x.cars j carNone with rejected := true } :=
  car_updPart hx (congrArg Part.cars
    ((if_neg Bool.false_ne_true).trans ((if_neg (ne_true_of_eq_false hnew)).trans (if_pos hrej))))

theorem doCarEntry_taken (hsound : carRejected x (mget x.cars j carNone) = false) :
    (partOf? (doCarEntry p j true m) p).map (fun y => mget y.cars j carNone)
      = some { mget x.cars j carNone with valid := true, rejected := false } :=
  car_updPart hx (congrArg Part.cars
    ((if_neg Bool.false_ne_true).trans ((if_neg (ne_true_of_eq_false hnew)).trans (if_neg (ne_true_of_eq_false hsound)))))

end

end

/-! ### Coolant (R442) -/

/-- A coolant row takes the measurements, and warns where its condition `P` holds. -/
theorem doCoolant_measures {m : Mod} {k v : Nat} {hit : Coolant → Bool} {value : Mod → Nat} {c : Coolant} {P : Prop}
    [Decidable P] (hon : 2 ≤ m.startup.step) (hhit : hit c = true ↔ P) (hvalue : value (measureCoolant m c) = v) :
    doCoolant k hit value c m = if P then coolantWarn (measureCoolant m c) k v else measureCoolant m c := by
  refine (if_neg (Nat.not_lt.mpr hon)).trans ?_
  simp only [hhit, hvalue]

/-! ### The obligations -/

/-- Settles O43: a set by its number, an entry by whether it is sound. -/
theorem carousel : Obligations.Carousel := by
  refine ⟨?sets, ?release, ?entry⟩
  case sets =>
    intro k s halive
    have acts {n : Mod} (h : doCarousel k.val s.mod = n) : exec (.carousel k) s = .next (s.withMod n) :=
      exec_eq_withMod (f := doCarousel k.val) rfl h
    refine ⟨fun h => ?group, fun t hlow hhigh hrun hspread hrate hhot => ?region, fun x h hx => ?frames⟩
    case group => exact acts ((doCarousel_group halive h).trans (carouselGroup_eq _ _))
    case region =>
      exact acts ((doCarousel_region halive hlow hhigh).trans (carouselRegion_lowers hrun hspread hrate hhot))
    case frames =>
      intro p j c hvalid hdiffer hrate hdrained hfree
      exact acts ((doCarousel_frames halive h).trans (carouselFrames_swaps hx hvalid hdiffer hrate hdrained hfree))
  case release =>
    intro r s hfw
    exact exec_eq_withMod (f := doCarouselRelease r.val) rfl (doCarouselRelease_running hfw)
  case entry =>
    intro p k s x hx c
    refine ⟨?clear, fun hnew hrej => ?rejected, fun hnew hsound => ?taken⟩
    case clear => exact exec_eq_withMod (f := doCarEntry p.val k.val false) rfl (doCarEntry_clears _ _ _)
    case rejected => exact ⟨_, lift_withMod .., doCarEntry_rejected hx hnew hrej⟩
    case taken => exact ⟨_, lift_withMod .., doCarEntry_taken hx hnew hsound⟩

/-- Settles O44: each row by its own condition. -/
theorem coolantWarnings : Obligations.CoolantWarnings := by
  intro c s hon m1 warn
  refine ⟨?flowWarn, ?flowLow, ?inlet, ?disagree⟩
  case flowWarn => exact exec_eq_withMod (f := doCoolant 0 _ _ c) rfl (doCoolant_measures hon decide_eq_true_iff rfl)
  case flowLow => exact exec_eq_withMod (f := doCoolant 1 _ _ c) rfl (doCoolant_measures hon decide_eq_true_iff rfl)
  case inlet => exact exec_eq_withMod (f := doCoolant 2 _ _ c) rfl (doCoolant_measures hon decide_eq_true_iff rfl)
  case disagree => exact exec_eq_withMod (f := doCoolant 3 _ _ c) rfl (doCoolant_measures hon (by simp) rfl)

end Sys2Proof.Machine
end

section
/-! Faults, repairs and the step's restart (R171, R449-R451, R453, R454, R468). The restart drops the step's traffic and keeps
the beat count (log entry 53). -/
namespace Sys2Proof.Machine
open Sys2Proof

/-! ### Faults reported (R468) -/

section
variable {fz : Fuses} {m : Mod} {p : Nat} {n : FaultNote}

theorem doFaultReport_taken {rest : List (Nat × FaultNote)} (h : m.fabric.reports = (p, n) :: rest) (halive : rmAlive m = true) :
    doFaultReport fz m = takeFault fz { m with fabric := { m.fabric with reports := rest } } p n := by
  simp only [doFaultReport, h, halive, if_true]

theorem takeFault_now (h : faultWaits m p n = false) : takeFault fz m p n = handleFault fz m p n :=
  if_neg (ne_true_of_eq_false h)

theorem takeFault_waits (h : faultWaits m p n = true) :
    takeFault fz m p n = updPart (faultPart m p (if n.cls = .supply then 0xFFFF else n.site) n.code) p
      (fun y => { y with faultQ := y.faultQ ++ [n] }) :=
  if_pos h

end

/-! ### A slice of a repair serves (R171, R454) -/

section
variable {m : Mod} {i : Nat} (hinit : (siteOf m i).slice.state = .init)
include hinit

theorem doSliceReady_noParts (hnone : m.parts = []) : doSliceReady i m = updSlice m i readySlice := by
  have hids : partIds (updSlice m i readySlice) = [] := congrArg (List.map Prod.fst) hnone
  refine (if_pos hinit).trans ?_
  simp only [hids, forAll, List.foldl_nil]

/-- The only partition's repair awaits only this site: its roles move. -/
theorem doSliceReady_last {p : Nat} {x : Part} {d : Repair} (hparts : m.parts = [(p, x)]) (hd : x.repair = some d)
    (hleft : d.awaited = [i]) :
    doSliceReady i m =
      finishMoves (updPart (updSlice m i readySlice) p (fun y => { y with repair := some { d with awaited := [] } })) p := by
  have hids : partIds (updSlice m i readySlice) = [p] := congrArg (List.map Prod.fst) hparts
  have hx : partOf? (updSlice m i readySlice) p = some x := by
    rw [updSlice, partOf?_updSite, partOf?, hparts, mget?, if_pos rfl]
  have hnow : d.awaited.contains i = true := by simp [hleft]
  have hnone : d.awaited.filter (fun t => t != i) = [] := by simp [hleft]
  refine (if_pos hinit).trans ?_
  simp only [hids, forAll, List.foldl_cons, List.foldl_nil, hx, hd, hnow, hnone, List.isEmpty_nil, if_true]

end

/-! ### The obligation -/

/-- Settles O36: a report by whether it waits, a slice by what awaits it, the restart once nothing is awaited. -/
theorem faultRepairs : Obligations.FaultRepairs := by
  refine ⟨?report, ?noParts, ?last, ?restart⟩
  case report =>
    intro s p n rest hreports halive m
    have taken := doFaultReport_taken (fz := s.fuses) hreports halive
    refine ⟨fun hnow => ?_, fun hwaits => ?_⟩
    · exact exec_eq_withMod (f := doFaultReport s.fuses) rfl (taken.trans (takeFault_now hnow))
    · exact exec_eq_withMod (f := doFaultReport s.fuses) rfl (taken.trans (takeFault_waits hwaits))
  case noParts =>
    intro i s hinit hnone
    exact exec_eq_withMod (f := doSliceReady i.val) rfl (doSliceReady_noParts hinit hnone)
  case last =>
    intro i s p x d hinit hparts hd hleft
    exact exec_eq_withMod (f := doSliceReady i.val) rfl (doSliceReady_last hinit hparts hd hleft)
  case restart =>
    intro p s x d hx hd hnone halive
    refine exec_eq_withMod (f := doStepRestart s.fuses p.val) rfl ?_
    simp only [doStepRestart, hx, hd]
    exact if_neg (by simp [hnone, halive])

end Sys2Proof.Machine
end

section
/-! Refill, count tables and twins (R457-R461, R468). -/
namespace Sys2Proof.Machine
open Sys2Proof

/-! ### What a step of the refill does -/

section
variable {m : Mod} {p : Nat} {x : Part} {pl : Plan} {e : Nat × Nat} (hx : partOf? m p = some x)
include hx

/-- A chunk whose bytes verify is written, and the last of the stand-in posts `FLT_REFILL_DONE`. -/
theorem doRefillChunk_verified {i : Nat} {bs : List Byte} {k : Chunk} {vc : VCore} (hpl : x.plan = some pl)
    (he : x.refill.find? (fun e => e.1 = i) = some e) (hk : pl.chunks[e.2]? = some k) (hvc : pl.vcores[k.vcore]? = some vc)
    (hruns : refillRuns m x pl = true) (hlen : bs.length = 72 * k.lines) (hcrc : crc32c bs = k.crc) :
    doRefillChunk p i bs m =
      let left := x.refill.filter (fun t => t != e)
      let m2 := updPart (writeLines m i (vc.vsegBase.getD k.vseg 0 + k.voff) (bytesLines bs) []) p
        (fun y => { y with refill := left })
      if left.any (fun t => t.1 = i) then m2
      else postLedger (rgFlag m2 (regionOf i) 2) 0x0A05 none 0 0 (fltPayload m2 0xFFFF i (regionOf i) 0x3F p 0 0 x.stretchUs) := by
  simp only [doRefillChunk, hx, hpl, he, hk, hvc, Option.map_some, Option.getD_some]
  exact if_neg (by simp [hruns, hlen, hcrc])

theorem doTableRebuilt_first {h : BitVec 32} (hfirst : tableFirst m x = some h) :
    doTableRebuilt p h m =
      kick (writeCounts (updPart m p (fun y => { (pSeq y h (fun q => { q with tableReady := true })) with
        tableQ := y.tableQ.filter (fun k => k != h) })) p h) p := by
  simp only [doTableRebuilt, hx, hfirst, if_true]

/-- A page is copied to the first stand-in that waits for it, and the last of the stand-in posts `FLT_TWIN_DONE`. -/
theorem doTwinCopied_first {g v : Nat} {f : Packed} (hpl : x.plan = some pl) (he : x.twinLeft.find? (fun e => e.2 = g) = some e)
    (hv : vcoreAt pl e.1 = some v) (hf : packedOf pl.cacheFormat = some f) :
    doTwinCopied p g m =
      let left := x.twinLeft.filter (fun t => t != e)
      let m2 := updPart (copyTwins (updPart m p (fun y => addRef y g)) pl f v e.1 g) p
        (fun y => { dropRef y g with twinLeft := left })
      if left.any (fun t => t.1 = e.1) then m2
      else postLedger (rgFlag m2 (regionOf e.1) 3) 0x0A06 none 0 0
        (fltPayload m2 0xFFFF e.1 (regionOf e.1) 0x3F p 0 0 x.stretchUs) := by
  simp only [doTwinCopied, hx, hpl, he, hv, hf]

end

/-! ### The obligation -/

/-- Settles O37: the three rows where their next piece of work is there. -/
theorem repairRefill : Obligations.RepairRefill := by
  refine ⟨?chunk, ?table, ?twin⟩
  case chunk =>
    intro p i bs s x pl e k vc hx hpl he hk hvc hruns hlen hcrc
    exact exec_eq_withMod (f := doRefillChunk p.val i.val bs) rfl (doRefillChunk_verified hx hpl he hk hvc hruns hlen hcrc)
  case table =>
    intro p h s x hx hfirst
    exact exec_eq_withMod (f := doTableRebuilt p.val h) rfl (doTableRebuilt_first hx hfirst)
  case twin =>
    intro p g s x pl e v f hx hpl he hv hf
    exact exec_eq_withMod (f := doTwinCopied p.val g.val) rfl (doTwinCopied_first hx hpl he hv hf)

end Sys2Proof.Machine
end

section
/-! Ringmaster's two members (R462, R464, R470). -/
namespace Sys2Proof.Machine
open Sys2Proof

section
variable {m : Mod}

/-! ### Heartbeats and resynchronisation (R462) -/

/-- The module that has noted four missed heartbeats. -/
def missedFour (m : Mod) : Mod :=
  { m with rm := { m.rm with misses := sat32 (m.rm.misses + 4), failedAt := some m.time } }

theorem doHeartbeat_standby (fz : Fuses) (halive : rmAlive m = true) (hother : (rmOther m).state = .standby) :
    doHeartbeat fz m =
      let m2 := switchMember (missedFour m)
      let m3 := { m2 with rm := { m2.rm with failovers := sat32 (m2.rm.failovers + 1) } }
      postFailover (takeUp fz (abortActivation m3)) 1 :=
  (if_neg (by simp [halive])).trans (if_pos hother)

theorem doHeartbeat_alone (fz : Fuses) (halive : rmAlive m = true) (hother : (rmOther m).state ≠ .standby) :
    doHeartbeat fz m = bootMember (missedFour m) m.rm.activeEast :=
  (if_neg (by simp [halive])).trans (if_neg hother)

/-- The active member is back after both have failed: the tables are empty. -/
theorem doResync_active (fz : Fuses) (hboot : (rmActive m).state = .boot) :
    doResync fz m =
      postFailover (forAll (showImage (loseAll (runMember m m.rm.activeEast .active))) (List.range 64) retargetRegion) 4 :=
  if_pos hboot

/-- The other member is back, and no activation is in progress: it is the standby. -/
theorem doResync_standby (fz : Fuses) (hactive : (rmActive m).state ≠ .boot) (halive : rmAlive m = true)
    (hother : (rmOther m).state = .boot) (hact : m.rm.activation = none) :
    doResync fz m =
      let m1 := runMember m (!m.rm.activeEast) .standby
      { m1 with rm := { m1.rm with failedAt := none } } := by
  refine (if_neg hactive).trans ((if_neg (by simp [halive, hother])).trans ?_)
  simp only [hact]

/-! ### A member that is not back in time (R462, R464) -/

section
variable {t : Nat} (hfailed : m.rm.failedAt = some t)
include hfailed

theorem doStandbyTimeout_active (hboot : (rmActive m).state = .boot) :
    doStandbyTimeout m = updMember m m.rm.activeEast (fun x => { x with state := .failed }) :=
  (if_neg (by simp [hfailed])).trans (if_pos hboot)

theorem doStandbyTimeout_other (hactive : (rmActive m).state ≠ .boot) (hboot : (rmOther m).state = .boot) :
    doStandbyTimeout m =
      let m1 := updMember m (!m.rm.activeEast) (fun x => { x with state := .failed })
      postFailover { m1 with rm := { m1.rm with failedAt := none } } 2 :=
  (if_neg (by simp [hfailed])).trans ((if_neg hactive).trans (if_pos hboot))

end

/-- A standby whose new image does not start goes back to the image in force. -/
theorem doFwResyncTimeout_standby {a : Activation} (hact : m.rm.activation = some a) (hkind : a.kind = 1) (hfirst : a.region = 0)
    (hboot : (rmOther m).state = .boot) :
    doFwResyncTimeout m =
      let east := !m.rm.activeEast
      let b := (rmActive m).slotB
      let m1 := updSlot m 1 (!b) (fun z => { z with valid := false })
      abortActivation (runMember (updMember m1 east (fun x => { x with slotB := b })) east .standby) := by
  simp only [doFwResyncTimeout, hact]
  exact if_pos ⟨hkind, hfirst, hboot⟩

end

/-! ### The obligation -/

/-- Settles O45: each row by the states of the two members. -/
theorem members : Obligations.Members := by
  refine ⟨?heartbeat, ?backActive, ?backStandby, ?late, ?image⟩
  case heartbeat =>
    intro s halive
    refine ⟨fun hother => ?_, fun hother => ?_⟩
    · exact exec_eq_withMod (f := doHeartbeat s.fuses) rfl (doHeartbeat_standby s.fuses halive hother)
    · exact exec_eq_withMod (f := doHeartbeat s.fuses) rfl (doHeartbeat_alone s.fuses halive hother)
  case backActive =>
    intro s hboot
    exact exec_eq_withMod (f := doResync s.fuses) rfl (doResync_active s.fuses hboot)
  case backStandby =>
    intro s hactive halive hother hact
    exact exec_eq_withMod (f := doResync s.fuses) rfl (doResync_standby s.fuses hactive halive hother hact)
  case late =>
    intro s t hfailed
    refine ⟨fun hboot => ?_, fun hactive hboot => ?_⟩
    · exact exec_eq_withMod (f := doStandbyTimeout) rfl (doStandbyTimeout_active hfailed hboot)
    · exact exec_eq_withMod (f := doStandbyTimeout) rfl (doStandbyTimeout_other hfailed hactive hboot)
  case image =>
    intro s a hact hkind hfirst hboot
    exact exec_eq_withMod (f := doFwResyncTimeout) rfl (doFwResyncTimeout_standby hact hkind hfirst hboot)

end Sys2Proof.Machine
end

section
/-! Firmware images, controller restarts and the configuration (R399, R400, R463-R467). A second FW_ACTIVATE, or one without a
newer image, is not permitted, and an image is tested before its kind is compared (log entry 50). -/
namespace Sys2Proof.Machine
open Sys2Proof

/-! ### Images -/

section
variable {m : Mod} {hs : HostId} {c : Cmd}

/-- The kinds of image there are pass the check of the argument. -/
theorem imageKind_ok {k : Nat} (h : k = 1 ∨ k = 2) : (k == 0) = false ∧ decide (2 < k) = false := by
  rcases h with rfl | rfl <;> exact ⟨rfl, rfl⟩

/-- An image that can be read is tested, then compared with the slots (R400). -/
theorem runFwStage_read (fz : Fuses) (hc : entryClean c.entry false true false [(0, 8)] = true)
    (hkind : argN c.entry 0 1 = 1 ∨ argN c.entry 0 1 = 2)
    (hread : rejected (hostOf m hs.val) c.entry.addr0.toNat c.entry.len0.toNat = false) :
    runFwStage fz m (.admin hs) c =
      let kind := argN c.entry 0 1
      let bs := hostRead (hostOf m hs.val) c.entry.addr0.toNat c.entry.len0.toNat
      let b := !inForceB m kind
      if imageTest fz bs ≠ 0 then complete m (.admin hs) { compl c.entry.cid .badDescriptor with detail := imageTest fz bs }
      else if leAt bs 16 4 ≠ kind then completeS m (.admin hs) c.entry.cid .badDescriptor
      else if leAt bs 8 8 ≤ (slotAt m kind (!b)).sequence ∨ activating m kind = true then
        completeS m (.admin hs) c.entry.cid .notPermitted
      else complete (updSlot m kind b (fun _ => slotOf bs)) (.admin hs) { compl c.entry.cid .ok with result0 := b2n b } :=
  (if_neg (by simp only [hc, imageKind_ok hkind]; decide)).trans (if_neg (ne_true_of_eq_false hread))

/-- FW_ACTIVATE asks for a standby, no activation in progress and a valid, newer image (R464). -/
theorem runFwActivate_kind (fz : Fuses) (hc : entryClean c.entry false false false [(0, 8)] = true)
    (hkind : argN c.entry 0 1 = 1 ∨ argN c.entry 0 1 = 2) :
    runFwActivate fz m (.admin hs) c =
      let kind := argN c.entry 0 1
      let b := !inForceB m kind
      let m1 := runningCmd m (.admin hs) c
      let a : Activation := { ring := .admin hs, cid := c.entry.cid, kind := kind, region := 0, updated := 0 }
      let m2 := { m1 with rm := { m1.rm with activation := some a } }
      if (rmOther m).state ≠ .standby ∨ m.rm.activation.isSome = true ∨ (slotAt m kind b).valid = false
          ∨ (slotAt m kind b).sequence ≤ (slotAt m kind (!b)).sequence then completeS m (.admin hs) c.entry.cid .notPermitted
      else if kind = 1 then
        bootMember (updMember m2 (!m.rm.activeEast) (fun x => { x with slotB := b })) (!m.rm.activeEast)
      else nextRestart fz m2 :=
  (if_neg (by simp only [hc, imageKind_ok hkind]; decide)).trans (if_congr (by simp only [Bool.not_eq_true]) rfl rfl)

end

/-! ### Restarts of the region controllers (R465) -/

section
variable {m : Mod} {r : Nat} (fz : Fuses) (hfw : (regionAt m r).fwRestart = true)
include hfw

/-- The module with the controller of region `r` running again, on the better slot. -/
def rcRestarted (fz : Fuses) (m : Mod) (r : Nat) : Mod :=
  let m1 := { m with rm := { m.rm with rcSlotB := m.rm.rcSlotB.set r (bestRcB m) } }
  endRestart fz (rgFlag (updRegion m1 r (fun y => { y with fwSeq := (slotAt m 2 (bestRcB m)).sequence })) r 4) r

theorem doRcDone_alone (hact : (rcRestarted fz m r).rm.activation = none) : doRcDone fz r m = rcRestarted fz m r := by
  rw [rcRestarted] at hact
  refine (if_neg (by simp [hfw])).trans ?_
  simp only [hact]
  rfl

/-- A restart of the activation in progress goes on with the next region. -/
theorem doRcDone_activation {a : Activation} (hact : (rcRestarted fz m r).rm.activation = some a) (hkind : a.kind = 2)
    (hregion : a.region = r) :
    doRcDone fz r m =
      nextRestart fz { rcRestarted fz m r with rm := { (rcRestarted fz m r).rm with
        activation := some { a with region := r + 1, updated := a.updated + 1 } } } := by
  rw [rcRestarted] at hact
  refine (if_neg (by simp [hfw])).trans ?_
  simp only [hact]
  exact if_pos ⟨hkind, hregion⟩

theorem doRcTimeout_restarting :
    doRcTimeout fz r m =
      let m1 := updSlot m 2 (!(m.rm.rcSlotB.getD r false)) (fun z => { z with valid := false })
      let m2 := endRestart fz m1 r
      if activating m2 2 then abortActivation m2 else m2 :=
  if_neg (by simp [hfw])

end

/-! ### The configuration (R466, R467) -/

section
variable {m : Mod} {hs : HostId} {c : Cmd}

theorem runConfigWrite_read (hc : entryClean c.entry false true false [] = true) (hlen : c.entry.len0.toNat = 4096)
    (hread : rejected (hostOf m hs.val) c.entry.addr0.toNat 4096 = false) :
    runConfigWrite m (.admin hs) c =
      let bs := hostRead (hostOf m hs.val) c.entry.addr0.toNat 4096
      let x := configOf bs
      if configGood bs = false then completeS m (.admin hs) c.entry.cid .badDescriptor
      else if x.sequence ≤ (configNow m).sequence then completeS m (.admin hs) c.entry.cid .notPermitted
      else if m.limits.isSome = true then waitCmd m (.admin hs) c
      else if modesFit m x.modes = false then completeS m (.admin hs) c.entry.cid .notPermitted
      else beginLimits (putConfig (runningCmd m (.admin hs) c) x) (.admin hs) c.entry.cid 0 x.modes x.cclkCap x.powerCap true := by
  refine (if_neg (by simp [hc, hlen])).trans ((if_neg (ne_true_of_eq_false hread)).trans ?_)
  simp only [Bool.not_eq_true']

theorem runConfigRead_clean (hc : entryClean c.entry false true false [] = true) :
    runConfigRead m (.admin hs) c =
      if c.entry.len0.toNat < 4096 then
        complete m (.admin hs) { compl c.entry.cid .refusedResources with result1 := 4096 }
      else complete (bufWrite m (.admin hs) c.entry.cid c.entry.addr0.toNat (configBytes (configNow m))) (.admin hs)
        { compl c.entry.cid .ok with result1 := (configNow m).sequence } :=
  if_neg (by simp [hc])

end

/-! ### The obligation -/

/-- Settles O46: the four commands from where their arguments are sound, the restart of a controller from its flag. -/
theorem firmwareAndConfiguration : Obligations.FirmwareAndConfiguration := by
  refine ⟨?stage, ?activate, ?restart, ?write, ?read⟩
  case stage =>
    intro hs e h s m c t hc hkind hread
    obtain rfl := taken_entry t
    exact exec_taken_eq (f := runFwStage s.fuses) rfl t (runFwStage_read s.fuses hc hkind hread)
  case activate =>
    intro hs e h s m c t hc hkind
    obtain rfl := taken_entry t
    exact exec_taken_eq (f := runFwActivate s.fuses) rfl t (runFwActivate_kind s.fuses hc hkind)
  case restart =>
    intro r s hfw b m1 m3
    refine ⟨fun hact => ?alone, fun a hact hkind hregion => ?activation, ?timeout⟩
    case alone => exact exec_eq_withMod (f := doRcDone s.fuses r.val) rfl (doRcDone_alone s.fuses hfw hact)
    case activation =>
      exact exec_eq_withMod (f := doRcDone s.fuses r.val) rfl (doRcDone_activation s.fuses hfw hact hkind hregion)
    case timeout => exact exec_eq_withMod (f := doRcTimeout s.fuses r.val) rfl (doRcTimeout_restarting s.fuses hfw)
  case write =>
    intro hs e h s m c t hc hlen hread
    obtain rfl := taken_entry t
    exact exec_taken_eq (f := runConfigWrite) rfl t (runConfigWrite_read hc hlen hread)
  case read =>
    intro hs e h s m c t hc
    obtain rfl := taken_entry t
    exact exec_taken_eq (f := runConfigRead) rfl t (runConfigRead_clean hc)

end Sys2Proof.Machine
end

section
/-! The Tally ledger and calendar time (R472, R474, R477-R480). -/
namespace Sys2Proof.Machine
open Sys2Proof

/-! ### Commits (R472) -/

section
variable {m : Mod}

theorem doCommitTimer_begins (hup : 3 ≤ m.startup.step) (halive : rmAlive m = true) (hfree : m.ledger.committing = false) :
    doCommitTimer m = beginCommit m :=
  if_pos (by simp [ledgerUp, hup, halive, hfree])

theorem doCommitDone_committing (h : m.ledger.committing = true) :
    doCommitDone m = if m.ledger.again = true then beginCommit (endCommit m) else endCommit m :=
  if_pos h

end

/-! ### LEDGER_READ (R479) -/

/-- The selectors that exist are 0 to 4. -/
theorem ledgerRecords_isSome (m : Mod) (sel n len : Nat) : (ledgerRecords m sel n len).isSome = true ↔ sel < 5 := by
  match sel with
  | 0 | 1 | 2 | 3 | 4 => simp [ledgerRecords]
  | k + 5 => simp [ledgerRecords]

section
variable {m : Mod} {hs : HostId} {c : Cmd} (hc : entryClean c.entry false true false [(0, 8), (64, 64)] = true)
include hc

theorem runLedgerRead_unknown (hsel : 5 ≤ argN c.entry 0 1) :
    runLedgerRead m (.admin hs) c = completeS m (.admin hs) c.entry.cid .notFound := by
  have hnone : ledgerRecords m (argN c.entry 0 1) (argN c.entry 8 8) c.entry.len0.toNat = none := by
    rw [← Option.not_isSome_iff_eq_none, ledgerRecords_isSome]
    exact Nat.not_lt.mpr hsel
  refine (if_neg (by simp [hc])).trans ?_
  simp only [onAdmin, hnone]

theorem runLedgerRead_known (hsel : argN c.entry 0 1 < 5) :
    runLedgerRead m (.admin hs) c =
      let x := (ledgerRecords m (argN c.entry 0 1) (argN c.entry 8 8) c.entry.len0.toNat).getD ([], 0)
      complete (if x.1.isEmpty then m else bufWrite m (.admin hs) c.entry.cid c.entry.addr0.toNat x.1.flatten) (.admin hs)
        { compl c.entry.cid .ok with result0 := x.1.length, result1 := x.2 } := by
  obtain ⟨x, hx⟩ := Option.isSome_iff_exists.mp
    ((ledgerRecords_isSome m (argN c.entry 0 1) (argN c.entry 8 8) c.entry.len0.toNat).mpr hsel)
  refine (if_neg (by simp [hc])).trans ?_
  simp only [onAdmin, hx, Option.getD_some]

end

/-! ### TIME_SET (R477, R478) -/

section
variable {m : Mod} {hs : HostId} {c : Cmd}

theorem runTimeSet_early (h : argN c.entry 8 8 < utcFirst) :
    runTimeSet m (.admin hs) c = completeS m (.admin hs) c.entry.cid .badDescriptor :=
  if_pos (by simp [h])

theorem runTimeSet_sets (hc : entryClean c.entry false false false [(64, 64)] = true) (h : ¬ argN c.entry 8 8 < utcFirst) :
    runTimeSet m (.admin hs) c =
      let utc := argN c.entry 8 8
      let l := m.ledger
      let off : Int := (utc : Int) - (c.decodeTime : Int)
      complete (ledgerAdd { m with ledger := { l with
          utcValid := true, utcOffset := off,
          counters := if l.counters.firstUtc = 0 then { l.counters with firstUtc := utc, firstUtcTime := c.decodeTime }
            else l.counters } }
          0 0 0 (payload [(0, 64, ldgOffset l), (64, 64, (BitVec.ofInt 64 off).toNat)])) (.admin hs)
        { compl c.entry.cid .ok with result1 := c.decodeTime } := by
  refine (if_neg (by simp [hc, h])).trans ?_
  simp only [onAdmin, beq_iff_eq]

end

/-! ### The obligation -/

/-- Settles O47: commits by whether one is in progress, LEDGER_READ by its selector, TIME_SET by its earliest time. -/
theorem ledger : Obligations.Ledger := by
  refine ⟨?timer, ?done, ?read, ?time⟩
  case timer =>
    intro s hup halive hfree
    exact exec_eq_withMod (f := doCommitTimer) rfl (doCommitTimer_begins hup halive hfree)
  case done =>
    intro s h
    exact exec_eq_withMod (f := doCommitDone) rfl (doCommitDone_committing h)
  case read =>
    intro hs e h s m c t hc
    obtain rfl := taken_entry t
    refine exec_taken_eq (f := runLedgerRead) rfl t ?_
    by_cases hsel : 5 ≤ argN c.entry 0 1
    · exact (runLedgerRead_unknown hc hsel).trans (if_pos hsel).symm
    · exact (runLedgerRead_known hc (Nat.not_le.mp hsel)).trans (if_neg hsel).symm
  case time =>
    intro hs e h s m c t hc
    obtain rfl := taken_entry t
    refine exec_taken_eq (f := runTimeSet) rfl t ?_
    by_cases hearly : argN c.entry 8 8 < utcFirst
    · exact (runTimeSet_early hearly).trans (if_pos hearly).symm
    · exact (runTimeSet_sets hc hearly).trans (if_neg hearly).symm

end Sys2Proof.Machine
end

section
/-! Start-up (R481, R482, R485, R514). PWR_EN takes `CTL_VDD`, and each step of the start acts at once (log entry 65). -/
namespace Sys2Proof.Machine
open Sys2Proof

section
variable {m : Mod} (fz : Fuses)

theorem vinInRange_iff (mv : Nat) : vinInRange mv = true ↔ 32000 ≤ mv ∧ mv ≤ 40000 := by
  simp only [vinInRange, Bool.and_eq_true, decide_eq_true_eq]

/-- The pin starts the module from the off state (R514). -/
theorem doPwrEn_low (env : StartEnv) (hlow : m.pins.pwrEn = false) :
    doPwrEn fz env m =
      let m0 := measureVin (allOff { m with pins := { m.pins with pwrEn := true, ctlVdd := true } }) env.vinMv
      let m1 := { m0 with startup := { m0.startup with env := some env } }
      if 32000 ≤ env.vinMv ∧ env.vinMv ≤ 40000 then startManagement fz env m1 else waitStep m1 1 :=
  (if_neg (ne_true_of_eq_false hlow)).trans (if_congr (vinInRange_iff env.vinMv) rfl rfl)

variable {env : StartEnv}

theorem doVinWait_waits (mv : Nat) (hwait : waitingAt m 1 = some env) :
    doVinWait fz mv m =
      if 32000 ≤ mv ∧ mv ≤ 40000 then startManagement fz env (measureVin m mv) else measureVin m mv := by
  simp only [doVinWait, hwait, vinInRange_iff]

theorem doRefWait_waits (hwait : waitingAt m 2 = some env) : doRefWait m = setFault (setCode m 3) true := by
  simp only [doRefWait, hwait]

theorem doCoolWait_waits (inlet flow : Nat) (hwait : waitingAt m 4 = some env) :
    doCoolWait fz inlet flow m = startCool fz env inlet flow m := by
  simp only [doCoolWait, hwait]

end

/-- Settles O48: each wait of the start by the step it waits at. -/
theorem startUp : Obligations.StartUp := by
  refine ⟨?pin, ?vin, ?reference, ?coolant⟩
  case pin =>
    intro env s hlow
    exact exec_watched (f := doPwrEn s.fuses env) rfl (doPwrEn_low s.fuses env hlow)
  case vin =>
    intro mv env s hwait
    exact exec_watched (f := doVinWait s.fuses mv) rfl (doVinWait_waits s.fuses mv hwait)
  case reference =>
    intro env s hwait
    refine ⟨?gone, fun hon ref1 => ?back⟩
    case gone => exact exec_watched (f := doRefWait) rfl (doRefWait_waits hwait)
    case back => exact exec_watched (f := doRefReturn s.fuses ref1) rfl (doRefReturn_waited hon hwait s.fuses ref1)
  case coolant =>
    intro inlet flow env s hwait
    exact exec_watched (f := doCoolWait s.fuses inlet flow) rfl (doCoolWait_waits s.fuses inlet flow hwait)

end Sys2Proof.Machine
end

section
/-! Shut-down (R487-R490, R515, R516). -/
namespace Sys2Proof.Machine
open Sys2Proof

section
variable {m : Mod}

/-! ### SHUTDOWN and its parking (R487, R488) -/

/-- A SHUTDOWN without reserved bits ends an activation, stops every partition and goes on with the parking. -/
theorem runShutdown_clean {hs : HostId} {c : Cmd} (hc : entryClean c.entry false false false [(0, 1), (32, 32)] = true) :
    runShutdown m (.admin hs) c =
      let ms := argN c.entry 4 4
      let dl := if bit c.entry.args 0 then some (m.time + 1000000 * (if ms = 0 then 60000 else ms)) else none
      let m1 := abortActivation (runningCmd m (.admin hs) c)
      let m2 := { m1 with startup := { m1.startup with
        shutdown := true, shutCmd := some (.admin hs, c.entry.cid), parkedCount := 0, parkPart := 0, parkDeadline := dl } }
      shutWork (forAll m2 (partIds m2) stopPart) :=
  if_neg (by simp [hc])

/-- The deadline puts back the sequences that were parking. -/
theorem doParkTimeout_parking (hcmd : m.startup.shutCmd.isSome = true) (hdeadline : m.startup.parkDeadline.isSome = true) :
    doParkTimeout m =
      shutWork { m with
        parts := m.parts.map (fun px => (px.1, { px.2 with seqs := px.2.seqs.map (fun q =>
          if q.state = .parking then { q with state := beforePark q } else q) })),
        startup := { m.startup with parkPart := 16 } } := by
  refine if_neg ?_
  rw [Option.isNone_eq_false_iff.mpr hcmd, Option.isNone_eq_false_iff.mpr hdeadline]
  exact Bool.false_ne_true

/-! ### The pins (R489, R490, R515, R516) -/

section
variable (hen : m.pins.pwrEn = true)
include hen

theorem doPwrEnOff_high :
    doPwrEnOff m =
      { stopAll m with pins := { (stopAll m).pins with pwrEn := false, modRst := false, fault := false, hotTrip := false } } :=
  if_neg (by simp [hen])

/-- A reset keeps the fault of a latched trip. -/
theorem doModRst_high (hrst : m.pins.modRst = false) :
    doModRst m =
      { stopAll m with pins := { (stopAll m).pins with modRst := true, fault := m.pins.fault && m.startup.step == 0 } } :=
  if_neg (by simp [hen, hrst])

theorem doCtlVddLoss_high :
    doCtlVddLoss m =
      { stopAll m with pins := { (stopAll m).pins with
          pwrEn := false, modRst := false, fault := false, hotTrip := false, ctlVdd := false } } := by
  rw [doCtlVddLoss, doPwrEnOff_high hen]

end

/-- The release of the reset starts the module, unless a trip is latched. -/
theorem doModRstRelease_low (fz : Fuses) (env : StartEnv) (hrst : m.pins.modRst = true) :
    doModRstRelease fz env m =
      let m1 := { m with pins := { m.pins with modRst := false } }
      if m.pins.pwrEn = true ∧ m.pins.fault = false ∧ m.pins.hotTrip = false then beginStart fz env m1 else m1 :=
  (if_neg (by simp [hrst])).trans (if_congr (by simp [and_assoc]) rfl rfl)

end

/-- Settles O49: SHUTDOWN and its deadline, then each pin by its level. -/
theorem shutDown : Obligations.ShutDown := by
  refine ⟨?command, ?deadline, ?pins, ?release⟩
  case command =>
    intro hs e h s m c t hc
    obtain rfl := taken_entry t
    exact exec_watched (f := takeCmd (.admin hs) c.entry h 0x5C runShutdown) rfl
      ((takeCmd_taken t runShutdown).trans (runShutdown_clean hc))
  case deadline =>
    intro s hcmd hdeadline
    exact exec_watched (f := doParkTimeout) rfl (doParkTimeout_parking hcmd hdeadline)
  case pins =>
    intro s hen off
    refine ⟨?withdraw, fun hrst => ?reset, ?loss⟩
    case withdraw => exact exec_watched (f := doPwrEnOff) rfl (doPwrEnOff_high hen)
    case reset => exact exec_watched (f := doModRst) rfl (doModRst_high hen hrst)
    case loss => exact exec_watched (f := doCtlVddLoss) rfl (doCtlVddLoss_high hen)
  case release =>
    intro env s hrst
    exact exec_watched (f := doModRstRelease s.fuses env) rfl (doModRstRelease_low s.fuses env hrst)

end Sys2Proof.Machine
end

section
/-! Register accesses (R79, R290, R291, R492, R495, R496, R498). The commands are writes, latching reads and the accesses of
another form (log entry 38); one beyond the function's BAR0 does nothing, or aborts, and is not counted (a model choice). -/
namespace Sys2Proof.Machine
open Sys2Proof

section
variable {fz : Fuses} {m : Mod} {fn off : Nat}

/-! ### Writes (R291, R495) -/

section
variable {h : HostId} {v : BitVec 32}

theorem doRegisterWrite_beyond (hbar : inBar fn off = false) : doRegisterWrite fz h fn off v m = m := if_pos (by simp [hbar])

variable (hbar : inBar fn off = true)
include hbar

theorem doRegisterWrite_misaligned (halign : off % 4 ≠ 0) : doRegisterWrite fz h fn off v m = countBad m :=
  (if_neg (by simp [hbar])).trans (if_pos halign)

variable (halign : off % 4 = 0)
include halign

theorem doRegisterWrite_fn0 (hfn : fn = 0) : doRegisterWrite fz h fn off v m = writeFn0 fz h off v m :=
  (if_neg (by simp [hbar])).trans ((if_neg (not_not_intro halign)).trans (if_pos hfn))

/-- A partition function takes what the site of its owner writes. -/
theorem doRegisterWrite_owner (hfn : fn ≠ 0) {x : Part} (hx : partOf? m (fn - 1) = some x) (howner : partHost x = h.val) :
    doRegisterWrite fz h fn off v m = writePfn h.val (fn - 1) off v m := by
  refine (if_neg (by simp [hbar])).trans ((if_neg (not_not_intro halign)).trans ((if_neg hfn).trans (if_pos ?_)))
  simp [hx, howner]

/-- A write through another site is discarded. -/
theorem doRegisterWrite_other (hfn : fn ≠ 0) (hother : ∀ x, partOf? m (fn - 1) = some x → partHost x ≠ h.val) :
    doRegisterWrite fz h fn off v m = m := by
  refine (if_neg (by simp [hbar])).trans ((if_neg (not_not_intro halign)).trans ((if_neg hfn).trans (if_neg ?_)))
  rw [Option.any_eq_true_iff_get, not_exists]
  intro hsome hhost
  exact hother _ (Option.some_get hsome).symm (beq_iff_eq.mp hhost)

end

/-! ### Reads (R79, R496) -/

section
variable {h : Nat}

theorem readReg_beyond (hbar : inBar fn off = false) : readReg fz m h fn off = none := if_pos (by simp [hbar])

theorem doLoRead_misaligned (hbar : inBar fn off = true) (halign : off % 4 ≠ 0) :
    doLoRead fz h fn off m = { (countBad m) with resp := 0, aborted := true } :=
  if_pos (by simp [hbar, halign])

/-- An access that is not a misaligned one of the function is a read of a register, or of none. -/
theorem doLoRead_none (hplain : inBar fn off = false ∨ off % 4 = 0) (hreg : readReg fz m h fn off = none) :
    doLoRead fz h fn off m = { m with resp := 0, aborted := true } := by
  refine (if_neg ?_).trans ?_
  · rcases hplain with hp | hp <;> simp [hp]
  · simp only [hreg]

theorem doLoRead_some (halign : off % 4 = 0) {v : Nat} (hreg : readReg fz m h fn off = some v) :
    doLoRead fz h fn off m =
      if fn = 0 ∧ isHi (off + 4) = true then
        updHost (respond m v) h (fun x => { x with
          hiLatch := mput 0 x.hiLatch (off + 4) (BitVec.ofNat 32 (fn0Reg fz m h (off + 4))) })
      else respond m v := by
  refine (if_neg (by simp [halign])).trans ?_
  simp only [hreg]

end

/-! ### Accesses of another form (R495) -/

section
variable {a : Access}

theorem doBadAccess_plain (hplain : plainAccess a = true) : doBadAccess a m = m := if_pos hplain

theorem doBadAccess_write (hbad : plainAccess a = false) (hwrite : a.write = true) : doBadAccess a m = countBad m :=
  (if_neg (ne_true_of_eq_false hbad)).trans (if_pos hwrite)

theorem doBadAccess_read (hbad : plainAccess a = false) (hread : a.write = false) :
    doBadAccess a m = { (countBad m) with resp := 0, aborted := true } :=
  (if_neg (ne_true_of_eq_false hbad)).trans (if_neg (ne_true_of_eq_false hread))

end

end

/-- Settles O51: writes, latching reads and other accesses, over a trained link, by where they lead. -/
theorem registerAccesses : Obligations.RegisterAccesses := by
  refine ⟨?writes, ?reads, ?others⟩
  case writes =>
    intro h fn off v s hup
    have writes {n : Mod} (hn : doRegisterWrite s.fuses h fn.val off v s.mod = n) :
        exec (.registerWrite h fn off v) s = .next (s.withMod n) :=
      exec_siteWrite (f := doRegisterWrite s.fuses h fn.val off v) rfl hup hn
    refine ⟨fun hbar => ?beyond, fun hbar halign => ?misaligned, fun hbar halign hfn => ?fn0,
      fun hbar halign hfn ⟨x, hx, howner⟩ => ?owner, fun halign hfn hother => ?other⟩
    case beyond => exact writes (doRegisterWrite_beyond hbar)
    case misaligned => exact writes (doRegisterWrite_misaligned hbar halign)
    case fn0 => exact writes (doRegisterWrite_fn0 hbar halign hfn)
    case owner => exact writes (doRegisterWrite_owner hbar halign hfn hx howner)
    case other =>
      cases hbar : inBar fn.val off
      · exact writes (doRegisterWrite_beyond hbar)
      · exact writes (doRegisterWrite_other hbar halign hfn hother)
  case reads =>
    intro h fn off s hup
    have reads {n : Mod} (hn : doLoRead s.fuses h.val fn.val off s.mod = n) :
        exec (.loReadLatch h fn off) s = .next (s.withMod n) :=
      exec_siteWrite (f := doLoRead s.fuses h.val fn.val off) rfl hup hn
    refine ⟨fun hbar halign => ?misaligned, fun hbar => ?beyond, fun halign hreg => ?none, fun v halign hreg => ?some⟩
    case misaligned => exact reads (doLoRead_misaligned hbar halign)
    case beyond => exact reads (doLoRead_none (.inl hbar) (readReg_beyond hbar))
    case none => exact reads (doLoRead_none (.inr halign) hreg)
    case some => exact reads (doLoRead_some halign hreg)
  case others =>
    intro h a s hup
    have accesses {n : Mod} (hn : doBadAccess a s.mod = n) : exec (.badAccess h a) s = .next (s.withMod n) :=
      exec_siteWrite (f := doBadAccess a) rfl hup hn
    exact ⟨fun hplain => accesses (doBadAccess_plain hplain), fun hbad hwrite => accesses (doBadAccess_write hbad hwrite),
      fun hbad hread => accesses (doBadAccess_read hbad hread)⟩

end Sys2Proof.Machine
end

section
/-! The SMBus and JTAG ports (R404, R485, R518, R519). The alert response address is log entry 40; the version field of IDCODE
and the refused vendor instruction are log entry 39. -/
namespace Sys2Proof.Machine
open Sys2Proof

/-! ### SMBus (R518) -/

section
variable {m : Mod}

theorem smbLive_up (hon : m.pwr.mgmtOn ≠ 0) : smbLive m = true := bne_iff_ne.mpr hon

theorem smbLive_down (hoff : m.pwr.mgmtOn = 0) : smbLive m = false := bne_eq_false_iff_eq.mpr hoff

theorem smbRead_up (hon : m.pwr.mgmtOn ≠ 0) (v : Mod → Nat) : smbRead v m = respond m (v m) := if_pos (smbLive_up hon)

theorem smbRead_down (hoff : m.pwr.mgmtOn = 0) (v : Mod → Nat) : smbRead v m = smbNack m :=
  if_neg (ne_true_of_eq_false (smbLive_down hoff))

theorem smbHottest_early (hstep : m.startup.step < 4) : smbHottest m = 0xFFFF := if_pos hstep

theorem smbHottest_measured (hstep : 4 ≤ m.startup.step) {i : Nat} (hi : hottest m (m.sites.map Prod.fst) = some i) :
    smbHottest m = siteTemp m i := by
  refine (if_neg (Nat.not_lt.mpr hstep)).trans ?_
  simp only [hi]

/-- The debug console takes what is written, and what it answers is a free value, at debug level 0 (R404). -/
theorem doConsole_open {fz : Fuses} (hon : m.pwr.mgmtOn ≠ 0) (hlevel : fz.debugLevel = 0) (w : Bool) (bs : List Byte) :
    doConsole fz w bs m =
      if w then { m with pins := { m.pins with console := bs }, resp := 0, aborted := false }
      else bumpFree (respond m (Config.freeWord m.freeCount).toNat) :=
  if_neg (by simp [smbLive_up hon, hlevel])

theorem doConsole_closed {fz : Fuses} (h : m.pwr.mgmtOn = 0 ∨ fz.debugLevel ≠ 0) (w : Bool) (bs : List Byte) :
    doConsole fz w bs m = smbNack m :=
  if_pos (by rcases h with h | h <;> simp [smbLive, h])

theorem doAlertResponse_asserted (hon : m.pwr.mgmtOn ≠ 0) (halert : m.pins.smbAlert = true) :
    doAlertResponse m = { (respond m (0x58 + m.pins.straps)) with pins := { m.pins with smbAlert := false } } :=
  if_pos (by simp [smbLive_up hon, halert])

theorem doAlertResponse_silent (h : m.pwr.mgmtOn = 0 ∨ m.pins.smbAlert = false) : doAlertResponse m = smbNack m :=
  if_neg (by rcases h with h | h <;> simp [smbLive, h])

end

/-! ### JTAG (R519) -/

/-- The module that shows the data register `dr` of instruction `k` (R519). -/
def jtagShown (m : Mod) (k : JtagInstr) (dr : List Bool) (p : Pins) : Mod :=
  { m with resp := BitVec.ofNat 64 (bitsVal (dr.take 64)), aborted := false, pins := { p with jtagIr := k, dr := dr } }

section
variable {m : Mod} (hon : m.pwr.mgmtOn ≠ 0)
include hon

/-- An instruction in force shows its data register; `p` are the pins it leaves. -/
theorem jtagShift_up {i : JtagInstr} {dr : List Bool} {f : Pins → Pins} {p : Pins}
    (hf : f { m.pins with jtagIr := i, dr := dr, driven := none } = { p with jtagIr := i, dr := dr }) :
    jtagShift i dr f m = jtagShown m i dr p := by
  refine (if_neg hon).trans ?_
  simp only [jtagShown, respond, hf]

/-- A vendor instruction that is accepted shows a free value (R404). -/
theorem doVendorJtag_accepted {fz : Fuses} (hok : jtagAllowed fz m = true) (code : Byte) :
    doVendorJtag fz code m = bumpFree (jtagShift (.own code) (bitList (Config.freeWord m.freeCount)) id m) :=
  (if_neg hon).trans (if_pos hok)

/-- A refused one selects BYPASS and is not answered. -/
theorem doVendorJtag_refused {fz : Fuses} (hno : jtagAllowed fz m = false) (code : Byte) :
    doVendorJtag fz code m = { (jtagShift .bypass [false] id m) with resp := 0, aborted := true } :=
  (if_neg hon).trans (if_neg (ne_true_of_eq_false hno))

end

/-! ### The obligation -/

/-- With the management domains down no command of the SMBus is acknowledged. -/
theorem smb_unanswered {s : State} (hoff : s.mod.pwr.mgmtOn = 0) {c : Instr} {w : Bool} {bs : List Byte}
    (hc : c ∈ [Instr.smbStartCode, .smbStatus, .smbVin, .smbInputPower, .smbHottestSite, .smbCoolantInlet, .smbCoolantOutlet,
      .smbFlow, .smbModuleId, .smbGrade, .smbDebugConsole w bs, .smbAlertResponse]) :
    exec c s = .next (s.withMod (smbNack s.mod)) := by
  have reads {c : Instr} {v : Mod → Nat} (hx : exec c s = lift (smbRead v) s) : exec c s = .next (s.withMod (smbNack s.mod)) :=
    exec_eq_withMod hx (smbRead_down hoff v)
  simp only [List.mem_cons, List.not_mem_nil, or_false] at hc
  rcases hc with rfl | rfl | rfl | rfl | rfl | rfl | rfl | rfl | rfl | rfl | rfl | rfl
  exacts [reads rfl, reads rfl, reads rfl, reads rfl, reads rfl, reads rfl, reads rfl, reads rfl, reads rfl, reads rfl,
    exec_eq_withMod (f := doConsole s.fuses w bs) rfl (doConsole_closed (.inl hoff) w bs),
    exec_eq_withMod (f := doAlertResponse) rfl (doAlertResponse_silent (.inl hoff))]

/-- Settles O52: the SMBus by whether the management domains are up, JTAG by its instruction. -/
theorem managementPorts : Obligations.ManagementPorts := by
  refine ⟨?smbus, ?jtag⟩
  case smbus =>
    intro s ans nack
    refine ⟨fun hon => ?up, fun hoff c w bs hc => smb_unanswered hoff hc⟩
    have reads (v : Mod → Nat) {c : Instr} (hx : exec c s = lift (smbRead v) s) : exec c s = .next (ans (v s.mod)) :=
      exec_eq_withMod hx (smbRead_up hon v)
    have hottestSite : exec .smbHottestSite s = .next (ans (smbHottest s.mod)) := reads smbHottest rfl
    refine ⟨reads (fun m => m.startup.code) rfl, reads smbByte rfl, reads (fun m => m.pwr.vinMv) rfl,
      reads (fun m => m.pwr.pinW) rfl, fun hstep => ?early, fun hstep i hi => ?measured, reads (fun m => m.thm.inletDc) rfl,
      reads (fun m => m.thm.outletDc) rfl, reads (fun m => m.thm.flowDl) rfl, reads (fun _ => s.fuses.moduleId.toNat) rfl,
      reads (fun _ => s.fuses.grade) rfl, fun hlevel bs => ⟨?write, ?read⟩, fun hlevel w bs => ?closed,
      fun halert => ?asserted, fun halert => ?silent⟩
    case early => rw [hottestSite, smbHottest_early hstep]
    case measured => rw [hottestSite, smbHottest_measured hstep hi]
    case write => exact exec_eq_withMod (f := doConsole s.fuses true bs) rfl (doConsole_open hon hlevel true bs)
    case read => exact exec_eq_withMod (f := doConsole s.fuses false bs) rfl (doConsole_open hon hlevel false bs)
    case closed => exact exec_eq_withMod (f := doConsole s.fuses w bs) rfl (doConsole_closed (.inr hlevel) w bs)
    case asserted => exact exec_eq_withMod (f := doAlertResponse) rfl (doAlertResponse_asserted hon halert)
    case silent => exact exec_eq_withMod (f := doAlertResponse) rfl (doAlertResponse_silent (.inr halert))
  case jtag =>
    intro s hon shown p0
    have shifts {k : JtagInstr} {dr : List Bool} {f : Pins → Pins} {p : Pins} {c : Instr}
        (hx : exec c s = lift (jtagShift k dr f) s)
        (hf : f { s.mod.pins with jtagIr := k, dr := dr, driven := none } = { p with jtagIr := k, dr := dr }) :
        exec c s = .next (s.withMod (jtagShown s.mod k dr p)) :=
      exec_eq_withMod hx (jtagShift_up hon hf)
    refine ⟨fun tdi => shifts (f := id) rfl rfl, fun pins => shifts (f := fun p => { p with scan := p.scan }) rfl rfl,
      fun pins tdi => shifts (f := fun p => { p with scan := tdi }) rfl rfl,
      fun pins => shifts (f := fun p => { p with driven := some p.scan }) rfl rfl, ?idcode, fun code hok => ?accepted,
      fun code hno => ?refused⟩
    case idcode => exact shifts (dr := bitList (idcodeOf s.fuses)) (f := id) (p := p0) rfl rfl
    case accepted =>
      exact exec_eq_withMod (f := doVendorJtag s.fuses code) rfl
        ((doVendorJtag_accepted hon hok code).trans (congrArg bumpFree (jtagShift_up hon rfl)))
    case refused =>
      refine exec_eq_withMod (f := doVendorJtag s.fuses code) rfl ((doVendorJtag_refused hon hno code).trans ?_)
      rw [jtagShift_up (p := p0) hon rfl]
      rfl

end Sys2Proof.Machine
end
